-- ==== Sys2Proof/Word.lean ====
section
/-! DEFINITION. The words of the machine: bytes, lanes, 64-bit uniform values. -/

namespace Sys2Proof

/-- One byte (R9: memory is little-endian, byte addressed). -/
abbrev Byte := BitVec 8

/-- One lane of a V register, one P mask, one EXEC mask (R31). -/
abbrev U32 := BitVec 32

/-- One uniform register, one instruction word (R18, R31). -/
abbrev U64 := BitVec 64

end Sys2Proof
end

