-- ==== Sys2Proof/Machine/Bits.lean ====
section
/-! DEFINITION. Bit-field, extension and byte-order helpers. -/

namespace Sys2Proof.Machine

/-- Bits [lo + n - 1 : lo] of a number. -/
def fld (x lo n : Nat) : Nat := (x >>> lo) % 2 ^ n

/-- A bit of a number. -/
def bitAt (x i : Nat) : Bool := x.testBit i

/-- A Bool as a number. -/
def b2n (b : Bool) : Nat := if b then 1 else 0

/-- The n-bit pattern of x read as signed. -/
def sextN (n x : Nat) : Int :=
  if n = 0 then 0 else if x % 2 ^ n < 2 ^ (n - 1) then ((x % 2 ^ n : Nat) : Int) else ((x % 2 ^ n : Nat) : Int) - (2 ^ n : Nat)

/-- An integer wrapped to n bits. -/
def wrapN (n : Nat) (i : Int) : Nat := (i % ((2 ^ n : Nat) : Int)).toNat

/-- The bytes of a number, least significant first (R9). -/
def toBytes : Nat → Nat → List Byte
  | 0, _ => []
  | n + 1, x => BitVec.ofNat 8 x :: toBytes n (x / 256)

/-- The number of little-endian bytes (R9). -/
def ofBytes : List Byte → Nat
  | [] => 0
  | b :: r => b.toNat + 256 * ofBytes r

/-- The number of 1 bits among the low n. -/
def popN : Nat → Nat → Nat
  | 0, _ => 0
  | n + 1, x => b2n (x.testBit n) + popN n x

/-- Leading zeros of an n-bit pattern. -/
def clzN : Nat → Nat → Nat
  | 0, _ => 0
  | n + 1, x => if x.testBit n then 0 else 1 + clzN n x

/-- The low n bits reversed. -/
def revN : Nat → Nat → Nat
  | 0, _ => 0
  | n + 1, x => 2 ^ n * b2n (x.testBit 0) + revN n (x / 2)

/-- The quotient rounded up. -/
def ceilDiv (a b : Nat) : Nat := (a + b - 1) / b

/-- A number with bits [lo + n - 1 : lo] replaced. -/
def setFld (x lo n v : Nat) : Nat :=
  x - (fld x lo n) * 2 ^ lo + (v % 2 ^ n) * 2 ^ lo

/-- A list with the entry at an index replaced. -/
def setAt {α : Type} (l : List α) (i : Nat) (v : α) : List α := l.set i v

/-- The lowest index below n that a test accepts. -/
def firstIdx (n : Nat) (p : Nat → Bool) : Option Nat := (List.range n).find? p

/-- The lowest lane of a mask. -/
def lowLane (m : U32) : Option Nat := firstIdx 32 (fun l => m.getLsbD l)

/-- A mask of the lanes a test accepts. -/
def maskOf (p : Nat → Bool) : U32 :=
  BitVec.ofNat 32 ((List.range 32).foldl (fun a l => if p l then a + 2 ^ l else a) 0)

/-- The lanes of a mask, ascending. -/
def lanesOf (m : U32) : List Nat := (List.range 32).filter (fun l => m.getLsbD l)

/-- A value put into a list before the first that may follow it. -/
def insertBy {α : Type} (le : α → α → Bool) (a : α) : List α → List α
  | [] => [a]
  | b :: r => if le a b then a :: b :: r else b :: insertBy le a r

/-- A list in an order; what the order does not tell apart stays as it was. -/
def sortBy {α : Type} (le : α → α → Bool) (l : List α) : List α := l.foldr (insertBy le) []

/-- Numbers in ascending order. -/
def ascending (l : List Nat) : List Nat := sortBy (fun a b => decide (a ≤ b)) l

end Sys2Proof.Machine
end

