-- ==== Sys2Proof/Syntax.lean ====
section
/-! DEFINITION. The syntax: operands, formats, and Instr, one constructor for each row of spec/opcode_table.json. -/

namespace Sys2Proof

/-- The operand namespace of an 8-bit register field (R31). -/
inductive Opd where
  | v (n : BitVec 7)
  | s (n : BitVec 6)
  | p (n : BitVec 3)
  | x (n : BitVec 3)
  | t (n : BitVec 4)
  | f (n : BitVec 3)
  | zero
  | laneid
  | exec
  | nrm
  | clock
  | warpid
  | wgid
  | thstate
  deriving DecidableEq, Repr

/-- The type field of format A (R24). -/
inductive Ty where
  | dflt
  | s8 | s16 | s32 | s64
  | z8 | z16 | z32 | z64
  | f16 | bf16 | f32 | f64
  | n (k : BitVec 3)
  deriving DecidableEq, Repr

/-- Rounding codes (R25). -/
inductive Rnd where
  | rne | rz | ru | rd | rna | sr
  deriving DecidableEq, Repr

/-- Access sizes of 1, 2, 4, 8 and 16 bytes (R26). -/
inductive Size where
  | b1 | b2 | b4 | b8 | b16
  deriving DecidableEq, Repr

/-- Address spaces (R26). -/
inductive Space where
  | gl | sp | rsp | root | ctx
  deriving DecidableEq, Repr

/-- Scopes, with none for a plain access (R26, R216). -/
inductive Scope where
  | none | wg | cl | rt | st | pk | sy
  deriving DecidableEq, Repr

/-- Ordering codes (R26); relaxed is sequentially consistent in FENCE. -/
inductive Sem where
  | relaxed | acq | rel | ar
  deriving DecidableEq, Repr

/-- The head of every full word (R19): guard, negation, stall count. -/
structure Head where
  g : BitVec 3
  gn : Bool
  st : BitVec 4
  deriving DecidableEq, Repr

/-- Format A (R22). -/
structure FmtA where
  d : Opd
  a : Opd
  b : Opd
  bp : BitVec 3
  c : Opd
  ty : Ty
  rnd : Rnd
  flags : BitVec 4
  deriving DecidableEq, Repr

/-- Format I (R22, R29). -/
structure FmtI where
  d : Opd
  a : Opd
  imm : BitVec 31
  deriving DecidableEq, Repr

/-- Format M (R22, R26). -/
structure FmtM where
  d : Opd
  a : Opd
  b : Opd
  sz : Size
  sp : Space
  sc : Scope
  col : BitVec 3
  sem : Sem
  off : BitVec 9
  deriving DecidableEq, Repr

/-- Format E (R22). -/
structure FmtE where
  d : Opd
  a : Opd
  b : Opd
  c : Opd
  e : BitVec 15
  deriving DecidableEq, Repr

/-- Format B (R22, R28): word offsets of the target and of the JOIN. -/
structure FmtB where
  tgt : BitVec 24
  jn : BitVec 23
  deriving DecidableEq, Repr

/-- Format S (R22). -/
structure FmtS where
  d : Opd
  a : Opd
  idx : BitVec 16
  x : BitVec 15
  deriving DecidableEq, Repr

/-- The short opcodes of a pair word (R36). -/
inductive Sop where
  | snop | iadd | isub | iand | ior | ixor | ishl | ishr | isra | imin | imax | imul
  | iaddi | mov | movi | fadd | fsub | fmul | fmin | fmax | fabs | fneg
  deriving DecidableEq, Repr

/-- One slot of a pair word (R35). -/
structure Slot where
  sop : Sop
  d : BitVec 7
  b : Opd
  g : BitVec 2
  x : BitVec 7
  deriving DecidableEq, Repr

/-- One transport packet in its frame (R448, R449): the destination MAC, the Ethertype, `len` the payload bytes. -/
structure Packet where
  mac : Nat := 0
  etype : Nat := 0
  len : Nat := 0
  kind : Nat
  op : Nat
  src : Nat
  dst : Nat
  seq : Nat
  tag : Nat
  addr : Nat
  rsvd : Nat
  data : List Byte
  deriving DecidableEq, Repr

/-- A register named by REGISTER_WRITE: a system register, or a word of a function's BAR0 (R10, R328, R443, R448). -/
inductive RegAddr where
  | sys (idx : Nat) (no : Nat)
  | bar (fn : Nat) (off : Nat)
  deriving DecidableEq, Repr

/-- Where an uncorrectable error is found (R386). -/
inductive ErrPlace where
  | l1Line (core : Nat) (pa : Nat)
  | cleanL2 (pa : Nat)
  | vreg (core slot : Nat) (phys : Nat)
  | reserve (core slot : Nat) (i : Nat)
  | sreg (core slot : Nat) (i : Nat)
  | preg (core slot : Nat) (i : Nat)
  | scale (core slot : Nat) (i : Nat)
  | tile (core slot : Nat) (i : Nat)
  | scratch (core : Nat) (word : Nat)
  | latch (core : Nat)
  | bank (core : Nat) (i : Nat)
  | line (pa : Nat) (source : Nat)
  | ctxRecord (pa : Nat)
  deriving DecidableEq, Repr

/-- Instr: the ISA's instructions in the table's order, then the device's own and the outside world's steps. An ISA
constructor's fields are those of its format; a step's arguments name the pending thing it acts on, and a step with none
acts on the lowest-numbered thing that is due. -/
inductive Instr where
  -- integer arithmetic, logic, compare (03)
  | iadd (h : Head) (f : FmtA)
  | isub (h : Head) (f : FmtA)
  | imul (h : Head) (f : FmtA)
  | imulh (h : Head) (f : FmtA)
  | imad (h : Head) (f : FmtA)
  | idiv (h : Head) (f : FmtA)
  | irem (h : Head) (f : FmtA)
  | iabs (h : Head) (f : FmtA)
  | ineg (h : Head) (f : FmtA)
  | imin (h : Head) (f : FmtA)
  | imax (h : Head) (f : FmtA)
  | iand (h : Head) (f : FmtA)
  | ior (h : Head) (f : FmtA)
  | ixor (h : Head) (f : FmtA)
  | inot (h : Head) (f : FmtA)
  | ishl (h : Head) (f : FmtA)
  | ishr (h : Head) (f : FmtA)
  | isra (h : Head) (f : FmtA)
  | irot (h : Head) (f : FmtA)
  | ibfx (h : Head) (f : FmtA)
  | ibfi (h : Head) (f : FmtA)
  | ipopc (h : Head) (f : FmtA)
  | iclz (h : Head) (f : FmtA)
  | ibrev (h : Head) (f : FmtA)
  | icmp (h : Head) (f : FmtA)
  | isel (h : Head) (f : FmtA)
  | iaddc (h : Head) (f : FmtA)
  | idot4 (h : Head) (f : FmtA)
  | ilea (h : Head) (f : FmtA)
  | iaddi (h : Head) (f : FmtI)
  | icmpi (h : Head) (f : FmtI)
  -- floating point (03)
  | fadd (h : Head) (f : FmtA)
  | fsub (h : Head) (f : FmtA)
  | fmul (h : Head) (f : FmtA)
  | ffma (h : Head) (f : FmtA)
  | fmin (h : Head) (f : FmtA)
  | fmax (h : Head) (f : FmtA)
  | fabs (h : Head) (f : FmtA)
  | fneg (h : Head) (f : FmtA)
  | fcmp (h : Head) (f : FmtA)
  | frcp (h : Head) (f : FmtA)
  | frsq (h : Head) (f : FmtA)
  | fsqrt (h : Head) (f : FmtA)
  | fexp2 (h : Head) (f : FmtA)
  | flog2 (h : Head) (f : FmtA)
  | fsin (h : Head) (f : FmtA)
  | fcos (h : Head) (f : FmtA)
  | ftanh (h : Head) (f : FmtA)
  | fclass (h : Head) (f : FmtA)
  | fdiv (h : Head) (f : FmtA)
  | fdot2 (h : Head) (f : FmtA)
  | fscale (h : Head) (f : FmtA)
  | frnd (h : Head) (f : FmtA)
  | ffrac (h : Head) (f : FmtA)
  -- conversion, lanes, moves (03)
  | cvt (h : Head) (f : FmtA) (src : Ty)
  | qnt (h : Head) (f : FmtA)
  | dqnt (h : Head) (f : FmtA)
  | pack (h : Head) (f : FmtA)
  | unpk (h : Head) (f : FmtA)
  | lshuf (h : Head) (f : FmtA)
  | lbcast (h : Head) (f : FmtA)
  | lred (h : Head) (f : FmtA)
  | lscan (h : Head) (f : FmtA)
  | lballot (h : Head) (f : FmtA)
  | lvote (h : Head) (f : FmtA)
  | plog (h : Head) (f : FmtA)
  | pcnt (h : Head) (f : FmtA)
  | mov (h : Head) (f : FmtA)
  | movi (h : Head) (f : FmtI)
  | movhi (h : Head) (f : FmtI)
  -- control (04)
  | rdspec (h : Head) (f : FmtS)
  | wrspec (h : Head) (f : FmtS)
  | bra (h : Head) (f : FmtB)
  | brx (h : Head) (f : FmtA)
  | join (h : Head) (f : FmtB)
  | call (h : Head) (f : FmtB)
  | callx (h : Head) (f : FmtI)
  | ret (h : Head) (f : FmtB)
  | rgrow (h : Head) (f : FmtI)
  | rshrink (h : Head) (f : FmtI)
  | exit (h : Head) (f : FmtB)
  | yield (h : Head) (f : FmtB)
  | sleep (h : Head) (f : FmtI)
  | sleepuntil (h : Head) (f : FmtA)
  | trap (h : Head) (f : FmtI)
  | bkpt (h : Head) (f : FmtI)
  -- memory, atomics, ordering (04)
  | ld (h : Head) (f : FmtM)
  | st (h : Head) (f : FmtM)
  | ldu (h : Head) (f : FmtM)
  | stu (h : Head) (f : FmtM)
  | pref (h : Head) (f : FmtM)
  | pagein (h : Head) (f : FmtM)
  | cctlIl1 (h : Head) (f : FmtM)
  | cctlIl1all (h : Head) (f : FmtM)
  | cctlIl1rem (h : Head) (f : FmtM)
  | cctlEvl2 (h : Head) (f : FmtM)
  | atom (h : Head) (f : FmtM)
  | atomcas (h : Head) (f : FmtM)
  | red (h : Head) (f : FmtM)
  | fence (h : Head) (f : FmtM)
  | nop (h : Head)
  -- synchronisation and work (04)
  | barinit (h : Head) (f : FmtM)
  | arrive (h : Head) (f : FmtM)
  | waitb (h : Head) (f : FmtM)
  | arrwait (h : Head) (f : FmtM)
  | wsync (h : Head) (f : FmtA)
  | gsync (h : Head)
  | launch (h : Head) (f : FmtE)
  | cwait (h : Head) (f : FmtE)
  | fetchwg (h : Head) (f : FmtE)
  -- engines (10)
  | tload (h : Head) (f : FmtE)
  | tstore (h : Head) (f : FmtE)
  | tgather (h : Head) (f : FmtE)
  | tscatter (h : Head) (f : FmtE)
  | tcopy (h : Head) (f : FmtE)
  | tfill (h : Head) (f : FmtE)
  | tstat (h : Head) (f : FmtE)
  | mwld (h : Head) (f : FmtE)
  | mma (h : Head) (f : FmtE)
  | mread (h : Head) (f : FmtE)
  | mzero (h : Head) (f : FmtE)
  | mhad (h : Head) (f : FmtE)
  | mbatch (h : Head) (f : FmtE)
  | mwait (h : Head) (f : FmtE)
  | mfuseNone (h : Head) (d : Opd)
  | mfuseNpair (h : Head) (d : Opd)
  | mfuseKpair (h : Head) (d : Opd)
  | mfuseQuad (h : Head) (d : Opd)
  | mrelease (h : Head) (f : FmtE)
  | nmexp (h : Head) (f : FmtE)
  | nmred (h : Head) (f : FmtE)
  -- scales, formats, tiles (11)
  | xmov (h : Head) (f : FmtA)
  | xadd (h : Head) (f : FmtA)
  | xsub (h : Head) (f : FmtA)
  | xmax (h : Head) (f : FmtA)
  | xmin (h : Head) (f : FmtA)
  | xcvt (h : Head) (f : FmtA)
  | xbind (h : Head) (f : FmtA)
  | xunbind (h : Head) (f : FmtA)
  | xtag (h : Head) (f : FmtA)
  | xqnt (h : Head) (f : FmtE)
  | xld (h : Head) (f : FmtM)
  | xst (h : Head) (f : FmtM)
  | fmtset (h : Head) (f : FmtA)
  | fmtget (h : Head) (f : FmtA)
  | tdset (h : Head) (f : FmtA)
  | tdget (h : Head) (f : FmtA)
  -- domains and system (11)
  | gcall (h : Head) (gate : BitVec 10) (n : BitVec 7)
  | gret (h : Head)
  | sysrd (h : Head) (d : Opd) (idx : BitVec 16) (no : Opd)
  | syswr (h : Head) (d : Opd) (a : Opd) (idx : BitVec 16) (no : Opd)
  | tlbinvRange (h : Head) (d a : Opd)
  | tlbinvDid (h : Head) (d a : Opd)
  | tlbinvPart (h : Head) (d a : Opd)
  | ctxsave (h : Head) (d a : Opd)
  | ctxrst (h : Head) (d a : Opd)
  | dpreempt (h : Head) (d a : Opd)
  | eret (h : Head) (k : BitVec 5) (next : Bool)
  | eretSpill (h : Head) (k : BitVec 5) (next : Bool)
  | eretFill (h : Head) (k : BitVec 5) (next : Bool)
  | migrate (h : Head) (f : FmtE)
  | pairWord (stall : BitVec 3) (s0 s1 : Slot)
  -- steps of the cores
  | fixedLatencyLand (core slot id : Nat)
  | fragmentPromotion (core slot frag : Nat)
  | splitFusion (core slot split : Nat)
  | space1LoadReturn (id : Nat)
  | storeBufferDrain (core quarter entry : Nat)
  | homeArrival (id : Nat)
  | lineRequestAnswer (id : Nat)
  | barrierWordOperation (id : Nat)
  | sleepExpire (core slot frag : Nat)
  | sleepuntilWake (core slot frag : Nat)
  | wsyncRelease (core slot : Nat) (pc : U64)
  | launchRecordRead (id : Nat)
  | nmRecordRead (id : Nat)
  | fetchwgMailboxWrite (id : Nat)
  | cwaitWorkgroupPark (core wg : Nat)
  | cwaitWorkgroupRestore (id : Nat)
  | copyStart (core op : Nat)
  | copyComplete (core op : Nat)
  | xqntComplete (core op : Nat)
  | copyFault (core op : Nat)
  | matrixOpRetire (core op : Nat)
  | pageWalk (id : Nat)
  | l1AgeInvalidate (core line : Nat)
  | refreshStart (stack chan : Nat)
  | refreshEnd (stack chan : Nat)
  | contextSave (job : Nat)
  | stage2WriteComplete (id : Nat)
  | invalidationComplete (id : Nat)
  | atsTranslationResponse (id : Nat) (page : Nat) (rd wr : Bool)
  | atsInvalidationRequest (page count tag : Nat)
  | priResponse (id page answer : Nat)
  | pageinCompletion (id : Nat)
  | migrationCopy (id : Nat)
  | migrationRecopyPass (id : Nat)
  | migrationHold (id : Nat)
  | migrationCommit (id : Nat)
  | migrationRelease (id : Nat)
  | trowelItem (cmd item : Nat)
  | trowelPartialArrival (cmd part : Nat)
  | trowelCompletionWrite (cmd : Nat)
  -- work distribution
  | kick (fn off size : Nat) (value : U64)
  | kickTaken (fn slot : Nat)
  | dependenceRead (grid : Nat)
  | workgroupPlacement (part : Nat)
  | gridRetire (grid : Nat)
  -- network, peers, host
  | bucketAdmit (slice : Nat)
  | linkFailure (stack link : Nat)
  | rdreq (port : Nat) (p : Packet)
  | rdresp (port : Nat) (p : Packet)
  | write (port : Nat) (p : Packet)
  | atomic (port : Nat) (p : Packet)
  | atomresp (port : Nat) (p : Packet)
  | ack (port : Nat) (p : Packet)
  | nak (port : Nat) (p : Packet)
  | mrwrite (port : Nat) (p : Packet)
  | transportPacketDiscard (port : Nat) (p : Packet)
  | peerRetransmit (port peer seq : Nat)
  | bar2Access (isWrite : Bool) (off size : Nat) (value : U64)
  | invcnt (fn : Nat) (count : U32)
  | invstatLostClear (fn : Nat)
  | registerWrite (reg : RegAddr) (value : U64) (req : Nat)
  | functionLevelReset (fn : Nat)
  -- package and system registers
  | unitReady (stack unit : Nat)
  | stkreset (stack req : Nat)
  | sysfault (stack : Nat) (value : U64) (req : Nat)
  | stage2EntryWrite (part word : Nat) (value : U64) (req : Nat)
  | gateEntryWrite (gate word : Nat) (value : U64) (req : Nat)
  | pquota (part : Nat) (value : U64) (req : Nat)
  | dscfg (no : Nat) (value : U64) (req : Nat)
  | dslim (no : Nat) (value : U64) (req : Nat)
  | dsroot (no : Nat) (value : U64) (req : Nat)
  | dshnd (no : Nat) (value : U64) (req : Nat)
  | dsctx (no : Nat) (value : U64) (req : Nat)
  | vfcfg (fn : Nat) (value : U64) (req : Nat)
  | l2cap (no : Nat) (value : U64) (req : Nat)
  | fctl (stack : Nat) (value : U64) (req : Nat)
  | ftrace (stack i : Nat) (value : U64) (req : Nat)
  | forcedown (stack word : Nat) (value : U64) (req : Nat)
  -- errors, background work, fetch
  | uncorrectableError (place : ErrPlace)
  | instructionFetch (core slot frag : Nat)
  | linkRetrain (stack kind : Nat)
  | correctedError (stack kind : Nat)
  -- steps with nothing to name: each acts on whatever is due
  | gsyncRelease
  | matrixOpStart
  | walkQueueAge
  | networkRequestAge
  | clocheSample
  | systemHandlerEntry
  | vfTurnEnd
  | patrolScrub
  | load
  | attest
  | reset
  | packageReset
  | readyTimeout
  | counterWriteback
  deriving DecidableEq, Repr

end Sys2Proof
end

