-- ==== Sys2Proof/WellFormed.lean ====
section
/-! DEFINITION. Well-formed instructions: every check that decode makes beyond splitting fields (R23 to R37, R46, R91 to
R96, R124, R138 to R172, R271, R305, R306). A step of the device or of the outside world has nothing to check. -/

namespace Sys2Proof

/-! Operand classes (R31). -/

def Opd.isV : Opd → Bool
  | .v _ => true
  | _ => false
def Opd.isS : Opd → Bool
  | .s _ => true
  | _ => false
def Opd.isP : Opd → Bool
  | .p _ => true
  | _ => false
def Opd.isX : Opd → Bool
  | .x _ => true
  | _ => false
def Opd.isT : Opd → Bool
  | .t _ => true
  | _ => false
def Opd.isF : Opd → Bool
  | .f _ => true
  | _ => false
def Opd.isZero : Opd → Bool
  | .zero => true
  | _ => false

/-- A register field that the opcode does not use (R23). -/
def Opd.unused (o : Opd) : Bool := o == .v 0

/-- Accepted as a source of the compute chapter (R91). -/
def Opd.src : Opd → Bool
  | .v _ | .s _ | .zero | .laneid | .exec | .nrm | .clock | .warpid | .wgid | .thstate => true
  | _ => false

/-- V, S or ZERO. -/
def Opd.vsz (o : Opd) : Bool := o.isV || o.isS || o.isZero

/-- S or ZERO. -/
def Opd.sz (o : Opd) : Bool := o.isS || o.isZero

/-- X or ZERO. -/
def Opd.xz (o : Opd) : Bool := o.isX || o.isZero

/-- V, S, P or ZERO (R94). -/
def Opd.vspz (o : Opd) : Bool := o.vsz || o.isP

/-- Not a per-lane operand (R32). -/
def Opd.uniform (o : Opd) : Bool := !o.isV && o != .laneid

/-- Not an odd V register (R59). -/
def Opd.evenV : Opd → Bool
  | .v n => n.toNat % 2 == 0
  | _ => true

/-- Not an odd S register. -/
def Opd.evenS : Opd → Bool
  | .s n => n.toNat % 2 == 0
  | _ => false

/-! Types (R24, R96). -/

def Ty.is64 : Ty → Bool
  | .s64 | .z64 | .f64 => true
  | _ => false
def Ty.isInt : Ty → Bool
  | .s8 | .s16 | .s32 | .s64 | .z8 | .z16 | .z32 | .z64 => true
  | _ => false
def Ty.isNarrow : Ty → Bool
  | .n _ => true
  | _ => false
def Ty.iall (t : Ty) : Bool := t.isInt || t == .dflt
def Ty.i32 : Ty → Bool
  | .dflt | .s32 | .z32 | .s64 | .z64 => true
  | _ => false
def Ty.signedInt : Ty → Bool
  | .dflt | .s8 | .s16 | .s32 | .s64 => true
  | _ => false
def Ty.fl : Ty → Bool
  | .dflt | .f16 | .bf16 | .f32 | .f64 => true
  | _ => false
def Ty.fs : Ty → Bool
  | .dflt | .f16 | .bf16 | .f32 => true
  | _ => false
def Ty.half : Ty → Bool
  | .f16 | .bf16 => true
  | _ => false
def Ty.dfltOnly (t : Ty) : Bool := t == .dflt
def Ty.move (t : Ty) : Bool := t == .dflt || t == .z64
def Ty.packTy : Ty → Bool
  | .dflt | .s8 | .s16 | .z8 | .z16 | .n _ => true
  | _ => false
def Ty.redTy : Ty → Bool
  | .dflt | .s32 | .z32 | .f32 => true
  | _ => false

/-- What one format-A opcode of the compute chapter accepts (R96); `none` marks a field it does not use. -/
structure ASpec where
  d : Opd → Bool := Opd.vsz
  a : Opd → Bool := Opd.src
  b : Option (Opd → Bool) := none
  c : Option (Opd → Bool) := none
  ty : Ty → Bool
  rnd : Bool := false
  fl : Nat → Bool := (· == 0)
  collective : Bool := false
  /-- d, a, b, c carry a value of the operation's width. -/
  wd : Bool := true
  wa : Bool := true
  wb : Bool := false
  wc : Bool := false

/-- A field: accepted, or reserved and zero. -/
def fieldOk (k : Option (Opd → Bool)) (o : Opd) : Bool :=
  match k with
  | some p => p o
  | none => o.unused

/-- The checks of a format-A word of the compute chapter. -/
def FmtA.ok (s : ASpec) (f : FmtA) : Bool :=
  s.d f.d && s.a f.a && fieldOk s.b f.b && fieldOk s.c f.c && s.ty f.ty
    && (s.rnd || f.rnd == .rne) && s.fl f.flags.toNat
    && (f.bp == 0 || (s.b.isSome && f.b.isV))
    && (!f.d.isS || s.collective
        || (f.bp == 0 && f.a.uniform && (s.b.isNone || f.b.uniform) && (s.c.isNone || f.c.uniform)))
    && (!f.ty.is64 || ((!s.wd || f.d.evenV) && (!s.wa || f.a.evenV) && (!s.wb || f.b.evenV)
        && (!s.wc || f.c.evenV)))

def sp1 (ty : Ty → Bool) : ASpec := { ty }
def sp2 (ty : Ty → Bool) : ASpec := { ty, b := some Opd.src, wb := true }
def sp3 (ty : Ty → Bool) : ASpec := { ty, b := some Opd.src, c := some Opd.src, wb := true, wc := true }
def spCount (ty : Ty → Bool) : ASpec := { ty, b := some Opd.src }
def ASpec.flag (s : ASpec) (p : Nat → Bool) : ASpec := { s with fl := p }
def ASpec.rounds (s : ASpec) : ASpec := { s with rnd := true }

/-- At most the low bit of flags. -/
def bit0 (n : Nat) : Bool := decide (n < 2)

/-- `.DUAL` only with F16 and BF16 (R114). -/
def dualOk (f : FmtA) : Bool := !f.flags.getLsbD 0 || f.ty.half

/-- No field of the format is used. -/
def FmtA.blank (f : FmtA) : Bool :=
  f.d.unused && f.a.unused && f.b.unused && f.bp == 0 && f.c.unused && f.ty == .dflt && f.rnd == .rne && f.flags == 0

/-- A format-A word of another chapter: three register fields, flags, all else zero (R23, R306). -/
def FmtA.plain (f : FmtA) (d a b : Option (Opd → Bool)) (fl : Nat → Bool) : Bool :=
  fieldOk d f.d && fieldOk a f.a && fieldOk b f.b && f.bp == 0 && f.c.unused && f.ty == .dflt && f.rnd == .rne
    && fl f.flags.toNat

/-- An E-format word's register fields. -/
def FmtE.regs (f : FmtE) (d a b c : Option (Opd → Bool)) : Bool :=
  fieldOk d f.d && fieldOk a f.a && fieldOk b f.b && fieldOk c f.c

/-! Memory operands (R26, R153, R156). -/

/-- A per-lane base and index for the space. -/
def addrOk (f : FmtM) : Bool :=
  f.a.vsz && f.b.vsz && ((f.sp == .sp || f.sp == .rsp) || f.a.evenV)

/-- A uniform base and index. -/
def addrUni (f : FmtM) : Bool := f.a.sz && f.b.sz

/-- The combinations of R26: no scope with an ordering; RT only with root SRAM. -/
def ordOk (f : FmtM) : Bool := (f.sc != .none || f.sem == .relaxed) && (f.sc != .rt || f.sp == .root)

def loadOrd (f : FmtM) : Bool := ordOk f && (f.sem == .relaxed || f.sem == .acq) && f.col == 0
def storeOrd (f : FmtM) : Bool := ordOk f && (f.sem == .relaxed || f.sem == .rel)

/-- A V data register of the access size (R156). -/
def vData (sz : Size) : Opd → Bool
  | .v n =>
    match sz with
    | .b8 => n.toNat % 2 == 0
    | .b16 => n.toNat % 4 == 0
    | _ => true
  | _ => false

/-- An S data register of the access size (R156). -/
def sData (sz : Size) : Opd → Bool
  | .s n => sz != .b16 || n.toNat % 2 == 0
  | _ => false

/-- Spaces 0 and 3 (R163, R165). -/
def glRoot (f : FmtM) : Bool := f.sp == .gl || f.sp == .root

/-- The space and scope pairs of the barrier opcodes (R172). -/
def barOk (f : FmtM) : Bool :=
  f.sz == .b8 && f.sem == .relaxed && f.col == 0 && f.a.sz
    && (match f.sp, f.sc with
        | .sp, .wg | .sp, .cl | .rsp, .cl | .gl, .st | .gl, .pk | .gl, .sy => true
        | _, _ => false)

/-- The atomic fields of ATOM and RED (R166). -/
def atomOk (f : FmtM) : Bool :=
  ordOk f && (f.sz == .b4 || f.sz == .b8) && (f.sp == .gl || f.sp == .sp || f.sp == .rsp) && addrOk f
    && decide (f.off.toNat ≤ 12)

/-- CCTL's fields beside its operation (R165). -/
def cctlOk (f : FmtM) (op : BitVec 9) : Bool :=
  f.d.unused && f.sz == .b1 && glRoot f && f.sc == .none && f.sem == .relaxed && f.col == 0 && f.off == op && addrOk f

/-- The special registers RDSPEC reads (R139). -/
def specIdx : List Nat :=
  [0x000, 0x001, 0x002, 0x004, 0x005, 0x006, 0x010, 0x011, 0x012, 0x013, 0x020, 0x021, 0x030, 0x031, 0x032,
   0x040, 0x041, 0x042, 0x043, 0x044, 0x060, 0x061, 0x062, 0x063, 0x070, 0x080, 0x081]

/-- The index space of SYSRD and SYSWR (R328). -/
def sysIdxOk (i : Nat) : Bool :=
  decide (i ≤ 0x03F) || decide (0x100 ≤ i ∧ i ≤ 0x13F) || decide (0x200 ≤ i ∧ i ≤ 0x260)
    || decide (0x270 ≤ i ∧ i ≤ 0x27F) || decide (0x300 ≤ i ∧ i ≤ 0x33F) || decide (0x400 ≤ i ∧ i ≤ 0x43F)
    || decide (0x500 ≤ i ∧ i ≤ 0x503) || decide (0x600 ≤ i ∧ i ≤ 0x63F) || decide (0x700 ≤ i ∧ i ≤ 0x7FF)
    || decide (0x800 ≤ i ∧ i ≤ 0x81F)

/-! Pair words (R35 to R37). -/

/-- The x an integer short operation accepts. -/
def sopIntX (x : Nat) : Bool := decide (x ≤ 3) || decide (5 ≤ x ∧ x ≤ 7)

/-- The x a float short operation accepts. -/
def sopFltX (x : Nat) : Bool := x == 0 || x == 9 || x == 10 || x == 11

/-- A slot by itself (R36). -/
def Slot.ok (s : Slot) : Bool :=
  match s.sop with
  | .snop => s.d == 0 && s.b.unused && s.g == 0 && s.x == 0
  | .iaddi | .movi => s.b.unused
  | .mov => (s.b.src || s.b.isP) && s.x == 0
  | .iadd | .isub | .iand | .ior | .ixor | .ishl | .ishr | .isra | .imin | .imax | .imul => s.b.src && sopIntX s.x.toNat
  | .fadd | .fsub | .fmul | .fmin | .fmax | .fabs | .fneg => s.b.src && sopFltX s.x.toNat

/-- Whether a slot reads its d (R36). -/
def Slot.readsD (s : Slot) : Bool :=
  match s.sop with
  | .snop | .mov | .movi | .fabs | .fneg => false
  | _ => true

/-- The banks a slot reads (R37). -/
def Slot.banks (s : Slot) : List Nat :=
  (if s.readsD then [s.d.toNat % 4] else [])
    ++ (match s.sop, s.b with
        | .snop, _ | .iaddi, _ | .movi, _ => []
        | _, .v n => [n.toNat % 4]
        | _, _ => [])

/-- The pairing rules (R37). -/
def pairOk (s0 s1 : Slot) : Bool :=
  s0.ok && s1.ok
    && (s0.sop == .snop || s1.sop == .snop || s0.d.toNat % 4 != s1.d.toNat % 4)
    && (List.range 4).all (fun b => decide (((s0.banks ++ s1.banks).filter (· == b)).length ≤ 2))

/-- A CVT's fields (R123, R124). -/
def cvtOk (f : FmtA) (src : Ty) : Bool :=
  f.d.vsz && f.a.src && f.b.unused && f.bp == 0 && f.c.unused
    && f.ty != .dflt && src != .dflt && !(f.ty.isNarrow && src.isNarrow)
    && decide (f.flags.toNat < 2) && (f.flags == 0 || (f.ty.isInt && src.isInt))
    && (!(f.ty.isInt && src.isInt) || f.rnd == .rne)
    && (!f.ty.is64 || f.d.evenV) && (!src.is64 || f.a.evenV)
    && (!f.d.isS || f.a.uniform)

/-- A MOV's fields (R112). -/
def movOk (f : FmtA) : Bool :=
  (f.d.vsz || f.d.isP || f.d == .exec || f.d == .nrm) && (f.a.src || f.a.isP) && f.b.unused && f.bp == 0
    && f.c.unused && f.ty.move && f.rnd == .rne && f.flags == 0
    && (!(f.d.isS || f.d == .exec || f.d == .nrm) || f.a.uniform)
    && (f.ty == .dflt
        || (f.d.vsz && f.d.evenV && f.a.evenV
            && (!f.d.isV || f.a.isV || f.a.isS || f.a == .clock)))

/-- Every decode check of an instruction. Where R111 gives MOVHI's ZERO destination no column, neither imm[30:16] nor the class of
a is checked for it; RED's source d may be V or S, not ZERO (R166 says only "as ATOM"); d of TLOAD to TFILL may be S or ZERO
(R271 lists S, and says that ZERO discards the result of an E word): DESIGN CHOICE, log 50. -/
def Instr.wf : Instr → Bool
  | .iadd _ f | .isub _ f => f.ok ((sp2 Ty.iall).flag bit0)
  | .imul _ f | .imulh _ f | .idiv _ f | .irem _ f | .imin _ f | .imax _ f | .iand _ f | .ior _ f | .ixor _ f =>
    f.ok (sp2 Ty.iall)
  | .imad _ f => f.ok ((sp3 Ty.iall).flag bit0)
  | .iabs _ f | .ineg _ f => f.ok ((sp1 Ty.signedInt).flag bit0)
  | .inot _ f | .ipopc _ f | .iclz _ f | .ibrev _ f => f.ok (sp1 Ty.iall)
  | .ishl _ f | .ishr _ f | .isra _ f => f.ok (spCount Ty.iall)
  | .irot _ f => f.ok ((spCount Ty.iall).flag bit0)
  | .ibfx _ f => f.ok { ty := Ty.i32, b := some Opd.src, c := some Opd.src }
  | .ibfi _ f => f.ok { ty := Ty.i32, b := some Opd.src, c := some Opd.src, wb := true }
  | .icmp _ f => f.ok { d := Opd.vspz, ty := Ty.iall, b := some Opd.src, wb := true, wd := false, fl := fun n => decide (n ≤ 9) }
  | .isel _ f => f.ok { ty := Ty.move, b := some Opd.src, c := some Opd.isP, wb := true }
  | .iaddc _ f => f.ok { ty := Ty.i32, b := some Opd.src, c := some Opd.isP, wb := true }
  | .idot4 _ f =>
    f.ok { ty := fun t => t == .dflt || t == .s8 || t == .z8, b := some Opd.src, c := some Opd.src, fl := bit0 }
  | .ilea _ f =>
    f.ok { ty := fun t => t == .dflt || t == .s32 || t == .z32, b := some Opd.src, fl := fun n => decide (n < 8) }
      && f.d.evenV && f.a.evenV
  | .iaddi _ f => f.d.vsz && f.a.src && (!f.d.isS || f.a.uniform)
  | .icmpi _ f => f.d.vspz && f.a.src && (!f.d.isS || f.a.uniform) && decide ((f.imm.extractLsb' 0 4).toNat ≤ 9)
  | .fadd _ f | .fsub _ f | .fmul _ f => f.ok ((sp2 Ty.fl).rounds.flag bit0) && dualOk f
  | .ffma _ f => f.ok ((sp3 Ty.fl).rounds.flag bit0) && dualOk f
  | .fmin _ f | .fmax _ f => f.ok ((sp2 Ty.fl).flag (fun n => decide (n < 4))) && dualOk f
  | .fabs _ f | .fneg _ f => f.ok ((sp1 Ty.fl).flag bit0) && dualOk f
  | .fcmp _ f => f.ok { d := Opd.vspz, ty := Ty.fl, b := some Opd.src, wb := true, wd := false, fl := fun n => decide (n ≤ 7) }
  | .frcp _ f | .frsq _ f | .fsqrt _ f | .frnd _ f | .ffrac _ f => f.ok (sp1 Ty.fl).rounds
  | .fexp2 _ f | .flog2 _ f | .fsin _ f | .fcos _ f | .ftanh _ f => f.ok (sp1 Ty.fs).rounds
  | .fclass _ f => f.ok { ty := Ty.fl, wd := false }
  | .fdiv _ f => f.ok (sp2 Ty.fl).rounds
  | .fdot2 _ f => f.ok { ty := fun t => t == .dflt || t.half, rnd := true, b := some Opd.src, c := some Opd.src }
  | .fscale _ f => f.ok (spCount Ty.fl).rounds
  | .cvt _ f src => cvtOk f src
  | .qnt _ f => f.ok { d := Opd.isV, ty := Ty.isNarrow, rnd := true, c := some Opd.isS, fl := fun n => decide (n ≤ 2) }
  | .dqnt _ f => f.ok { ty := Ty.isNarrow, rnd := true, c := some Opd.isS, fl := fun n => decide (n ≤ 2) }
  | .pack _ f => f.ok { ty := Ty.packTy, b := some Opd.src }
  | .unpk _ f => f.ok ((sp1 Ty.packTy).flag bit0)
  | .lshuf _ f =>
    f.ok { d := fun o => o.isV || o.isZero, a := Opd.isV, ty := Ty.dfltOnly, b := some Opd.src, fl := fun n => decide (n < 4) }
  | .lbcast _ f => f.ok { ty := Ty.move, b := some (fun o => o.src && o.uniform), collective := true }
  | .lred _ f =>
    f.ok { ty := Ty.redTy, fl := fun n => decide (n ≤ 5), collective := true } && (f.ty != .f32 || decide (f.flags.toNat ≤ 2))
  | .lscan _ f =>
    f.ok { d := fun o => o.isV || o.isZero, ty := Ty.redTy, fl := fun n => decide (n % 8 ≤ 5) }
      && (f.ty != .f32 || decide (f.flags.toNat % 8 ≤ 2))
  | .lballot _ f => f.ok { d := Opd.vspz, a := fun o => o.src || o.isP, ty := Ty.dfltOnly, collective := true }
  | .lvote _ f =>
    f.ok { d := Opd.vspz, a := fun o => o.src || o.isP, ty := Ty.dfltOnly, fl := fun n => decide (n ≤ 2), collective := true }
  | .plog _ f =>
    f.ok { d := Opd.isP, a := fun o => o.isP || o == .exec || o.isZero, b := some (fun o => o.isP || o == .exec || o.isZero),
           ty := Ty.dfltOnly, fl := fun _ => true }
  | .pcnt _ f =>
    f.ok { a := fun o => o.isP || o == .exec, ty := Ty.dfltOnly, fl := bit0 } && (f.flags == 0 || !f.d.isS)
  | .mov _ f => movOk f
  | .movi _ f => f.d.vsz && f.a.unused
  | .movhi _ f =>
    f.d.vsz && f.a.src && (!f.d.isS || f.a.uniform) && (!f.d.isV || decide (f.imm.toNat < 2 ^ 16))
  | .rdspec _ f => f.d.vsz && f.a.unused && f.x == 0 && specIdx.contains f.idx.toNat
  | .wrspec _ f => f.d.unused && f.a.sz && f.x == 0 && f.idx == 0x070
  | .bra h f => if h.g == 0 && !h.gn then f.jn == 0 else f.jn != 0
  | .brx h f => h.g == 0 && !h.gn && f.plain none (some Opd.isS) none (· == 0)
  | .join _ f | .ret _ f | .exit _ f | .yield _ f => f.tgt == 0 && f.jn == 0
  | .call _ f => decide (f.jn.toNat ≤ 112)
  | .callx _ f => f.d.unused && f.a.isS && decide (f.imm.toNat ≤ 112)
  | .rgrow _ f | .rshrink _ f => f.d.sz && f.a.unused && decide (f.imm.toNat < 256)
  | .sleep _ f => f.d.unused && f.a.unused
  | .sleepuntil _ f => f.plain none (some Opd.isS) none bit0
  | .trap _ f => f.d.unused && f.a.unused && decide (0x40 ≤ f.imm.toNat ∧ f.imm.toNat ≤ 0x7F)
  | .bkpt _ f => f.d.unused && f.a.unused && decide (f.imm.toNat < 2 ^ 16)
  | .ld _ f => vData f.sz f.d && addrOk f && loadOrd f
  | .st _ f => (vData f.sz f.d || f.d.isZero || (f.d.isS && f.sz != .b16)) && addrOk f && storeOrd f
  | .ldu _ f => sData f.sz f.d && addrUni f && loadOrd f
  | .stu _ f => (sData f.sz f.d || f.d.isZero) && addrUni f && storeOrd f
  | .pref _ f =>
    f.d.unused && f.sz == .b1 && glRoot f && f.sc == .none && f.sem == .relaxed && f.col == 0 && addrOk f
  | .pagein _ f =>
    f.d.isS && f.sz == .b1 && f.sp == .gl && f.sc == .none && f.sem == .relaxed && f.col == 0 && addrOk f
  | .cctlIl1 _ f => cctlOk f 0
  | .cctlIl1all _ f => cctlOk f 1 && f.a.isZero && f.b.isZero
  | .cctlIl1rem _ f => cctlOk f 2 && f.a.isZero && f.b.isZero
  | .cctlEvl2 _ f => cctlOk f 3
  | .atom _ f => vData f.sz f.d && atomOk f
  | .atomcas _ f =>
    (match f.d, f.sz with
     | .v n, .b4 => n.toNat % 2 == 0
     | .v n, .b8 => n.toNat % 4 == 0
     | _, _ => false) && atomOk f && f.off == 0
  | .red _ f => (vData f.sz f.d || f.d.isS) && atomOk f && f.off != 8
  | .fence _ f =>
    f.d.unused && f.a.unused && f.b.unused && f.sz == .b1 && f.col == 0 && f.sc != .none
      && (f.sp == (if f.sc == .rt then .root else .gl)) && !f.off.getLsbD 8
      && (match f.sem with
          | .relaxed => f.off == 0xFF
          | .acq => f.off == 0
          | .rel | .ar => f.off != 0)
  | .nop _ => true
  | .barinit _ f => f.d.unused && f.b.sz && barOk f
  | .arrive _ f => f.d.sz && f.b.isS && barOk f
  | .waitb _ f | .arrwait _ f => f.d.unused && f.b.isS && barOk f
  | .wsync _ f => f.plain none (some fun o => o.isP || o == .exec || o.isS) none (· == 0)
  | .gsync _ => true
  | .launch _ f => f.regs (some Opd.sz) (some Opd.isS) none none && f.e == 0
  | .cwait _ f => f.regs (some Opd.sz) (some Opd.sz) none none && f.e == 0
  | .fetchwg _ f => f.regs (some Opd.sz) (some Opd.isS) (some Opd.isS) none && f.e == 0
  | .tload _ f | .tstore _ f => f.regs (some Opd.sz) (some Opd.isS) (some Opd.isT) (some Opd.isS) && decide (f.e.toNat < 4)
  | .tgather _ f | .tscatter _ f =>
    f.regs (some Opd.sz) (some Opd.isS) (some Opd.isT) (some Opd.isS) && (f.e == 0 || f.e == 2)
  | .tcopy _ f =>
    f.regs (some Opd.sz) (some Opd.isS) (some Opd.isS) (some Opd.isS) && decide (f.e.toNat < 64)
      && [0, 1, 3].contains (f.e.toNat % 8) && [0, 1, 3].contains (f.e.toNat / 8)
  | .tfill _ f => f.regs (some Opd.sz) (some Opd.isS) (some Opd.isT) none && f.e == 0
  | .tstat _ f => f.regs (some Opd.sz) (some Opd.isS) none none && f.e == 0
  | .mwld _ f =>
    f.regs (some Opd.isZero) (some Opd.isT) (some Opd.xz) none && decide (f.e.toNat < 2 ^ 9)
      && !f.e.getLsbD 0 && f.e.extractLsb' 1 2 != 3 && f.e.extractLsb' 3 2 != 3 && f.e.extractLsb' 7 2 != 3
  | .mma _ f => f.regs none (some Opd.isT) (some Opd.xz) (some Opd.sz) && decide (f.e.toNat < 2 ^ 7)
  | .mread _ f => f.regs none (some Opd.isT) none (some Opd.sz) && decide (f.e.toNat < 2 ^ 8) && f.e.extractLsb' 0 5 == 0
  | .mzero _ f => f.regs none none none none && decide (0 < f.e.toNat ∧ f.e.toNat < 16)
  | .mhad _ f => f.regs none (some Opd.isT) (some Opd.isT) none && decide (f.e.toNat ≤ 2)
  | .mbatch _ f => f.regs (some Opd.sz) none none none && f.e == 0
  | .mwait _ f => f.regs (some Opd.sz) (some Opd.isS) none none && f.e == 0
  | .mfuseNone _ d | .mfuseNpair _ d | .mfuseKpair _ d | .mfuseQuad _ d => d.sz
  | .mrelease _ f => f.regs none none none none && decide (f.e.toNat < 2)
  | .nmexp _ f | .nmred _ f => f.regs (some Opd.sz) (some Opd.isS) none none && f.e == 0
  | .xmov _ f =>
    f.plain (some fun o => o.isX || o.isV) (some fun o => o.isX || o.isV || o.isS) none (fun n => decide (n < 8))
      && (f.d.isX || f.a.isX) && (f.d.isV || f.a.isV || f.flags == 0)
  | .xadd _ f | .xsub _ f | .xmax _ f | .xmin _ f =>
    f.plain (some Opd.isX) (some Opd.isX) (some fun o => o.isX || o.isS) (· == 0)
  | .xcvt _ f => f.plain (some Opd.isX) (some Opd.isX) none bit0
  | .xbind _ f => f.plain (some Opd.isX) (some Opd.isT) none (· == 0)
  | .xunbind _ f | .xtag _ f => f.plain (some Opd.isX) none none (· == 0)
  | .xqnt _ f => f.regs (some Opd.sz) (some Opd.isT) (some Opd.isT) (some Opd.isX) && decide (f.e.toNat ≤ 5)
  | .xld _ f =>
    f.d.isX && addrUni f && f.sz == .b16 && (f.sp == .gl || f.sp == .sp || f.sp == .root) && loadOrd f
  | .xst _ f =>
    f.d.isX && addrUni f && f.sz == .b16 && (f.sp == .gl || f.sp == .sp || f.sp == .root) && storeOrd f
  | .fmtset _ f => f.plain (some Opd.isF) (some Opd.sz) none (· == 0)
  | .fmtget _ f => f.plain (some Opd.vsz) (some Opd.isF) none (· == 0)
  | .tdset _ f => f.plain (some Opd.isT) (some Opd.evenS) none (· == 0)
  | .tdget _ f => f.plain (some Opd.evenS) (some Opd.isT) none (· == 0)
  | .gcall _ _ n => decide (n.toNat ≤ 112)
  | .gret _ => true
  | .sysrd _ d idx no => d.sz && sysIdxOk idx.toNat && no.sz
  | .syswr _ d a idx no => d.sz && a.sz && sysIdxOk idx.toNat && no.sz
  | .tlbinvRange _ d a | .tlbinvDid _ d a | .tlbinvPart _ d a => d.sz && a.evenS
  | .ctxsave _ d a => d.sz && a.isS
  | .ctxrst _ d a => d.sz && a.evenS
  | .dpreempt _ d a => d.sz && a.isS
  | .eret _ _ _ | .eretSpill _ _ _ | .eretFill _ _ _ => true
  | .migrate _ f => f.regs (some Opd.sz) (some Opd.isS) (some Opd.isS) (some Opd.evenS) && f.e == 0
  | .pairWord _ s0 s1 => pairOk s0 s1
  | _ => true

end Sys2Proof
end

