-- ==== Sys2Proof/Decode.lean ====
section
/-! DEFINITION. The decoder, total on any bytes, and the encoder, both from the layouts of R19, R22, R35 and R44. -/

namespace Sys2Proof

/-! Codes (R24, R25, R26, R31, R36). -/

def Opd.toBits : Opd → BitVec 8
  | .v n => 0#1 ++ n
  | .s n => 0b10#2 ++ n
  | .p n => 0b11000#5 ++ n
  | .x n => 0b11001#5 ++ n
  | .t n => 0xD#4 ++ n
  | .f n => 0b11100#5 ++ n
  | .zero => 0xF0
  | .laneid => 0xF1
  | .exec => 0xF2
  | .nrm => 0xF3
  | .clock => 0xF4
  | .warpid => 0xF5
  | .wgid => 0xF6
  | .thstate => 0xF7

/-- An operand code; 0xE8-0xEF and 0xF8-0xFF are reserved (R31). -/
def Opd.ofBits (b : BitVec 8) : Option Opd :=
  let n := b.toNat
  if n < 0x80 then some (.v (b.setWidth 7))
  else if n < 0xC0 then some (.s (b.setWidth 6))
  else if n < 0xC8 then some (.p (b.setWidth 3))
  else if n < 0xD0 then some (.x (b.setWidth 3))
  else if n < 0xE0 then some (.t (b.setWidth 4))
  else if n < 0xE8 then some (.f (b.setWidth 3))
  else if n = 0xF0 then some .zero
  else if n = 0xF1 then some .laneid
  else if n = 0xF2 then some .exec
  else if n = 0xF3 then some .nrm
  else if n = 0xF4 then some .clock
  else if n = 0xF5 then some .warpid
  else if n = 0xF6 then some .wgid
  else if n = 0xF7 then some .thstate
  else none

def Ty.toBits : Ty → BitVec 5
  | .dflt => 0x00 | .s8 => 0x01 | .s16 => 0x02 | .s32 => 0x03 | .s64 => 0x04
  | .z8 => 0x05 | .z16 => 0x06 | .z32 => 0x07 | .z64 => 0x08
  | .f16 => 0x09 | .bf16 => 0x0A | .f32 => 0x0B | .f64 => 0x0C
  | .n k => 0b10#2 ++ k

/-- A type code (R24). -/
def Ty.ofBits (b : BitVec 5) : Option Ty :=
  match b.toNat with
  | 0x00 => some .dflt | 0x01 => some .s8 | 0x02 => some .s16 | 0x03 => some .s32 | 0x04 => some .s64
  | 0x05 => some .z8 | 0x06 => some .z16 | 0x07 => some .z32 | 0x08 => some .z64
  | 0x09 => some .f16 | 0x0A => some .bf16 | 0x0B => some .f32 | 0x0C => some .f64
  | c => if 0x10 ≤ c ∧ c ≤ 0x17 then some (.n (b.setWidth 3)) else none

def Rnd.toBits : Rnd → BitVec 3
  | .rne => 0 | .rz => 1 | .ru => 2 | .rd => 3 | .rna => 4 | .sr => 5

/-- A rounding code (R25). -/
def Rnd.ofBits (b : BitVec 3) : Option Rnd :=
  match b.toNat with
  | 0 => some .rne | 1 => some .rz | 2 => some .ru | 3 => some .rd | 4 => some .rna | 5 => some .sr
  | _ => none

def Size.toBits : Size → BitVec 3
  | .b1 => 0 | .b2 => 1 | .b4 => 2 | .b8 => 3 | .b16 => 4

def Size.ofBits (b : BitVec 3) : Option Size :=
  match b.toNat with
  | 0 => some .b1 | 1 => some .b2 | 2 => some .b4 | 3 => some .b8 | 4 => some .b16
  | _ => none

def Space.toBits : Space → BitVec 3
  | .gl => 0 | .sp => 1 | .rsp => 2 | .root => 3 | .ctx => 4

def Space.ofBits (b : BitVec 3) : Option Space :=
  match b.toNat with
  | 0 => some .gl | 1 => some .sp | 2 => some .rsp | 3 => some .root | 4 => some .ctx
  | _ => none

def Scope.toBits : Scope → BitVec 3
  | .none => 0 | .wg => 1 | .cl => 2 | .rt => 3 | .st => 4 | .pk => 5 | .sy => 6

def Scope.ofBits (b : BitVec 3) : Option Scope :=
  match b.toNat with
  | 0 => some .none | 1 => some .wg | 2 => some .cl | 3 => some .rt | 4 => some .st | 5 => some .pk | 6 => some .sy
  | _ => Option.none

def Sem.toBits : Sem → BitVec 2
  | .relaxed => 0 | .acq => 1 | .rel => 2 | .ar => 3

def Sem.ofBits (b : BitVec 2) : Sem :=
  match b.toNat with
  | 0 => .relaxed | 1 => .acq | 2 => .rel | _ => .ar

def Sop.toBits : Sop → BitVec 6
  | .snop => 0x00 | .iadd => 0x01 | .isub => 0x02 | .iand => 0x03 | .ior => 0x04 | .ixor => 0x05 | .ishl => 0x06
  | .ishr => 0x07 | .isra => 0x08 | .imin => 0x09 | .imax => 0x0A | .imul => 0x0B | .iaddi => 0x0C | .mov => 0x0D
  | .movi => 0x0E | .fadd => 0x0F | .fsub => 0x10 | .fmul => 0x11 | .fmin => 0x12 | .fmax => 0x13 | .fabs => 0x14
  | .fneg => 0x15

/-- A short opcode (R36). -/
def Sop.ofBits (b : BitVec 6) : Option Sop :=
  match b.toNat with
  | 0x00 => some .snop | 0x01 => some .iadd | 0x02 => some .isub | 0x03 => some .iand | 0x04 => some .ior
  | 0x05 => some .ixor | 0x06 => some .ishl | 0x07 => some .ishr | 0x08 => some .isra | 0x09 => some .imin
  | 0x0A => some .imax | 0x0B => some .imul | 0x0C => some .iaddi | 0x0D => some .mov | 0x0E => some .movi
  | 0x0F => some .fadd | 0x10 => some .fsub | 0x11 => some .fmul | 0x12 => some .fmin | 0x13 => some .fmax
  | 0x14 => some .fabs | 0x15 => some .fneg
  | _ => none

/-! Formats (R19, R22). -/

/-- The op field (R19). -/
def opOf (w : U64) : Nat := (w.extractLsb' 55 8).toNat

/-- The head (R19). -/
def Head.ofWord (w : U64) : Head := ⟨w.extractLsb' 52 3, w.getLsbD 51, w.extractLsb' 47 4⟩

def FmtA.ofWord (w : U64) : Option FmtA :=
  match Opd.ofBits (w.extractLsb' 39 8), Opd.ofBits (w.extractLsb' 31 8), Opd.ofBits (w.extractLsb' 23 8),
    Opd.ofBits (w.extractLsb' 12 8), Ty.ofBits (w.extractLsb' 7 5), Rnd.ofBits (w.extractLsb' 4 3) with
  | some d, some a, some b, some c, some ty, some rnd => some ⟨d, a, b, w.extractLsb' 20 3, c, ty, rnd, w.extractLsb' 0 4⟩
  | _, _, _, _, _, _ => none

def FmtI.ofWord (w : U64) : Option FmtI :=
  match Opd.ofBits (w.extractLsb' 39 8), Opd.ofBits (w.extractLsb' 31 8) with
  | some d, some a => some ⟨d, a, w.extractLsb' 0 31⟩
  | _, _ => none

def FmtM.ofWord (w : U64) : Option FmtM :=
  match Opd.ofBits (w.extractLsb' 39 8), Opd.ofBits (w.extractLsb' 31 8), Opd.ofBits (w.extractLsb' 23 8),
    Size.ofBits (w.extractLsb' 20 3), Space.ofBits (w.extractLsb' 17 3), Scope.ofBits (w.extractLsb' 14 3) with
  | some d, some a, some b, some sz, some sp, some sc =>
    some ⟨d, a, b, sz, sp, sc, w.extractLsb' 11 3, Sem.ofBits (w.extractLsb' 9 2), w.extractLsb' 0 9⟩
  | _, _, _, _, _, _ => none

def FmtE.ofWord (w : U64) : Option FmtE :=
  match Opd.ofBits (w.extractLsb' 39 8), Opd.ofBits (w.extractLsb' 31 8), Opd.ofBits (w.extractLsb' 23 8),
    Opd.ofBits (w.extractLsb' 15 8) with
  | some d, some a, some b, some c => some ⟨d, a, b, c, w.extractLsb' 0 15⟩
  | _, _, _, _ => none

def FmtB.ofWord (w : U64) : Option FmtB := some ⟨w.extractLsb' 23 24, w.extractLsb' 0 23⟩

def FmtS.ofWord (w : U64) : Option FmtS :=
  match Opd.ofBits (w.extractLsb' 39 8), Opd.ofBits (w.extractLsb' 31 8) with
  | some d, some a => some ⟨d, a, w.extractLsb' 15 16, w.extractLsb' 0 15⟩
  | _, _ => none

/-- One slot of a pair word (R35). -/
def Slot.ofBits (b : BitVec 30) : Option Slot :=
  match Sop.ofBits (b.extractLsb' 24 6), Opd.ofBits (b.extractLsb' 9 8) with
  | some sop, some o => some ⟨sop, b.extractLsb' 17 7, o, b.extractLsb' 7 2, b.extractLsb' 0 7⟩
  | _, _ => none

/-- CVT: c[4:0] is the source type, c[7:5] is reserved (R123). -/
def cvtOfWord (w : U64) : Option Instr :=
  match Opd.ofBits (w.extractLsb' 39 8), Opd.ofBits (w.extractLsb' 31 8), Opd.ofBits (w.extractLsb' 23 8),
    Ty.ofBits (w.extractLsb' 12 5), Ty.ofBits (w.extractLsb' 7 5), Rnd.ofBits (w.extractLsb' 4 3) with
  | some d, some a, some b, some src, some ty, some rnd =>
    if w.extractLsb' 17 3 = 0 then
      some (.cvt (Head.ofWord w) ⟨d, a, b, w.extractLsb' 20 3, .v 0, ty, rnd, w.extractLsb' 0 4⟩ src)
    else none
  | _, _, _, _, _, _ => none

/-- CCTL by its operation (R165). -/
def cctlOf (h : Head) (f : FmtM) : Option Instr :=
  match f.off.toNat with
  | 0 => some (.cctlIl1 h f)
  | 1 => some (.cctlIl1all h f)
  | 2 => some (.cctlIl1rem h f)
  | 3 => some (.cctlEvl2 h f)
  | _ => none

/-- MFUSE by its mode (R271, R290). -/
def mfuseOf (h : Head) (f : FmtE) : Option Instr :=
  if f.a.unused && f.b.unused && f.c.unused then
    match f.e.toNat with
    | 0 => some (.mfuseNone h f.d)
    | 1 => some (.mfuseNpair h f.d)
    | 2 => some (.mfuseKpair h f.d)
    | 3 => some (.mfuseQuad h f.d)
    | _ => none
  else none

/-- The system opcodes 0xC0 to 0xC8 (R305, R331). -/
def sysOf (op : Nat) (h : Head) (f : FmtS) : Option Instr :=
  let noD := f.d.unused
  let noA := f.a.unused
  let noX := f.x == 0
  let noIdx := f.idx == 0
  match op with
  | 0xC0 => if noD && noA && decide (f.idx.toNat < 1024) && decide (f.x.toNat < 128) then
      some (.gcall h (f.idx.setWidth 10) (f.x.setWidth 7)) else none
  | 0xC1 => if noD && noA && noIdx && noX then some (.gret h) else none
  | 0xC2 => if noA && decide (f.x.toNat < 256) then
      (Opd.ofBits (f.x.setWidth 8)).map (fun no => .sysrd h f.d f.idx no) else none
  | 0xC3 => if decide (f.x.toNat < 256) then
      (Opd.ofBits (f.x.setWidth 8)).map (fun no => .syswr h f.d f.a f.idx no) else none
  | 0xC4 => if noIdx then
      (match f.x.toNat with
       | 0 => some (.tlbinvRange h f.d f.a)
       | 1 => some (.tlbinvDid h f.d f.a)
       | 2 => some (.tlbinvPart h f.d f.a)
       | _ => none) else none
  | 0xC5 => if noIdx && noX then some (.ctxsave h f.d f.a) else none
  | 0xC6 => if noIdx && noX then some (.ctxrst h f.d f.a) else none
  | 0xC7 => if noIdx && noX then some (.dpreempt h f.d f.a) else none
  | 0xC8 => if noD && noA && noIdx && decide (f.x.toNat < 256) then
      (match (f.x.extractLsb' 5 2).toNat with
       | 0 => some (.eret h (f.x.extractLsb' 0 5) (f.x.getLsbD 7))
       | 1 => some (.eretSpill h (f.x.extractLsb' 0 5) (f.x.getLsbD 7))
       | 2 => some (.eretFill h (f.x.extractLsb' 0 5) (f.x.getLsbD 7))
       | _ => none) else none
  | _ => none

/-- A full word by its op, before the checks of each entry (R44). -/
def decodeFull (w : U64) : Option Instr :=
  match opOf w with
  | 0x01 => (FmtA.ofWord w).map (Instr.iadd (Head.ofWord w))
  | 0x02 => (FmtA.ofWord w).map (Instr.isub (Head.ofWord w))
  | 0x03 => (FmtA.ofWord w).map (Instr.imul (Head.ofWord w))
  | 0x04 => (FmtA.ofWord w).map (Instr.imulh (Head.ofWord w))
  | 0x05 => (FmtA.ofWord w).map (Instr.imad (Head.ofWord w))
  | 0x06 => (FmtA.ofWord w).map (Instr.idiv (Head.ofWord w))
  | 0x07 => (FmtA.ofWord w).map (Instr.irem (Head.ofWord w))
  | 0x08 => (FmtA.ofWord w).map (Instr.iabs (Head.ofWord w))
  | 0x09 => (FmtA.ofWord w).map (Instr.ineg (Head.ofWord w))
  | 0x0A => (FmtA.ofWord w).map (Instr.imin (Head.ofWord w))
  | 0x0B => (FmtA.ofWord w).map (Instr.imax (Head.ofWord w))
  | 0x0C => (FmtA.ofWord w).map (Instr.iand (Head.ofWord w))
  | 0x0D => (FmtA.ofWord w).map (Instr.ior (Head.ofWord w))
  | 0x0E => (FmtA.ofWord w).map (Instr.ixor (Head.ofWord w))
  | 0x0F => (FmtA.ofWord w).map (Instr.inot (Head.ofWord w))
  | 0x10 => (FmtA.ofWord w).map (Instr.ishl (Head.ofWord w))
  | 0x11 => (FmtA.ofWord w).map (Instr.ishr (Head.ofWord w))
  | 0x12 => (FmtA.ofWord w).map (Instr.isra (Head.ofWord w))
  | 0x13 => (FmtA.ofWord w).map (Instr.irot (Head.ofWord w))
  | 0x14 => (FmtA.ofWord w).map (Instr.ibfx (Head.ofWord w))
  | 0x15 => (FmtA.ofWord w).map (Instr.ibfi (Head.ofWord w))
  | 0x16 => (FmtA.ofWord w).map (Instr.ipopc (Head.ofWord w))
  | 0x17 => (FmtA.ofWord w).map (Instr.iclz (Head.ofWord w))
  | 0x18 => (FmtA.ofWord w).map (Instr.ibrev (Head.ofWord w))
  | 0x19 => (FmtA.ofWord w).map (Instr.icmp (Head.ofWord w))
  | 0x1A => (FmtA.ofWord w).map (Instr.isel (Head.ofWord w))
  | 0x1B => (FmtA.ofWord w).map (Instr.iaddc (Head.ofWord w))
  | 0x1C => (FmtA.ofWord w).map (Instr.idot4 (Head.ofWord w))
  | 0x1D => (FmtA.ofWord w).map (Instr.ilea (Head.ofWord w))
  | 0x1E => (FmtI.ofWord w).map (Instr.iaddi (Head.ofWord w))
  | 0x1F => (FmtI.ofWord w).map (Instr.icmpi (Head.ofWord w))
  | 0x20 => (FmtA.ofWord w).map (Instr.fadd (Head.ofWord w))
  | 0x21 => (FmtA.ofWord w).map (Instr.fsub (Head.ofWord w))
  | 0x22 => (FmtA.ofWord w).map (Instr.fmul (Head.ofWord w))
  | 0x23 => (FmtA.ofWord w).map (Instr.ffma (Head.ofWord w))
  | 0x24 => (FmtA.ofWord w).map (Instr.fmin (Head.ofWord w))
  | 0x25 => (FmtA.ofWord w).map (Instr.fmax (Head.ofWord w))
  | 0x26 => (FmtA.ofWord w).map (Instr.fabs (Head.ofWord w))
  | 0x27 => (FmtA.ofWord w).map (Instr.fneg (Head.ofWord w))
  | 0x28 => (FmtA.ofWord w).map (Instr.fcmp (Head.ofWord w))
  | 0x29 => (FmtA.ofWord w).map (Instr.frcp (Head.ofWord w))
  | 0x2A => (FmtA.ofWord w).map (Instr.frsq (Head.ofWord w))
  | 0x2B => (FmtA.ofWord w).map (Instr.fsqrt (Head.ofWord w))
  | 0x2C => (FmtA.ofWord w).map (Instr.fexp2 (Head.ofWord w))
  | 0x2D => (FmtA.ofWord w).map (Instr.flog2 (Head.ofWord w))
  | 0x2E => (FmtA.ofWord w).map (Instr.fsin (Head.ofWord w))
  | 0x2F => (FmtA.ofWord w).map (Instr.fcos (Head.ofWord w))
  | 0x30 => (FmtA.ofWord w).map (Instr.ftanh (Head.ofWord w))
  | 0x31 => (FmtA.ofWord w).map (Instr.fclass (Head.ofWord w))
  | 0x32 => (FmtA.ofWord w).map (Instr.fdiv (Head.ofWord w))
  | 0x33 => (FmtA.ofWord w).map (Instr.fdot2 (Head.ofWord w))
  | 0x34 => (FmtA.ofWord w).map (Instr.fscale (Head.ofWord w))
  | 0x35 => (FmtA.ofWord w).map (Instr.frnd (Head.ofWord w))
  | 0x36 => (FmtA.ofWord w).map (Instr.ffrac (Head.ofWord w))
  | 0x40 => cvtOfWord w
  | 0x41 => (FmtA.ofWord w).map (Instr.qnt (Head.ofWord w))
  | 0x42 => (FmtA.ofWord w).map (Instr.dqnt (Head.ofWord w))
  | 0x43 => (FmtA.ofWord w).map (Instr.pack (Head.ofWord w))
  | 0x44 => (FmtA.ofWord w).map (Instr.unpk (Head.ofWord w))
  | 0x45 => (FmtA.ofWord w).map (Instr.lshuf (Head.ofWord w))
  | 0x46 => (FmtA.ofWord w).map (Instr.lbcast (Head.ofWord w))
  | 0x47 => (FmtA.ofWord w).map (Instr.lred (Head.ofWord w))
  | 0x48 => (FmtA.ofWord w).map (Instr.lscan (Head.ofWord w))
  | 0x49 => (FmtA.ofWord w).map (Instr.lballot (Head.ofWord w))
  | 0x4A => (FmtA.ofWord w).map (Instr.lvote (Head.ofWord w))
  | 0x4B => (FmtA.ofWord w).map (Instr.plog (Head.ofWord w))
  | 0x4C => (FmtA.ofWord w).map (Instr.pcnt (Head.ofWord w))
  | 0x4D => (FmtA.ofWord w).map (Instr.mov (Head.ofWord w))
  | 0x4E => (FmtI.ofWord w).map (Instr.movi (Head.ofWord w))
  | 0x4F => (FmtI.ofWord w).map (Instr.movhi (Head.ofWord w))
  | 0x50 => (FmtS.ofWord w).map (Instr.rdspec (Head.ofWord w))
  | 0x51 => (FmtS.ofWord w).map (Instr.wrspec (Head.ofWord w))
  | 0x52 => (FmtB.ofWord w).map (Instr.bra (Head.ofWord w))
  | 0x53 => (FmtA.ofWord w).map (Instr.brx (Head.ofWord w))
  | 0x54 => (FmtB.ofWord w).map (Instr.join (Head.ofWord w))
  | 0x55 => (FmtB.ofWord w).map (Instr.call (Head.ofWord w))
  | 0x56 => (FmtI.ofWord w).map (Instr.callx (Head.ofWord w))
  | 0x57 => (FmtB.ofWord w).map (Instr.ret (Head.ofWord w))
  | 0x58 => (FmtI.ofWord w).map (Instr.rgrow (Head.ofWord w))
  | 0x59 => (FmtI.ofWord w).map (Instr.rshrink (Head.ofWord w))
  | 0x5A => (FmtB.ofWord w).map (Instr.exit (Head.ofWord w))
  | 0x5B => (FmtB.ofWord w).map (Instr.yield (Head.ofWord w))
  | 0x5C => (FmtI.ofWord w).map (Instr.sleep (Head.ofWord w))
  | 0x5D => (FmtA.ofWord w).map (Instr.sleepuntil (Head.ofWord w))
  | 0x5E => (FmtI.ofWord w).map (Instr.trap (Head.ofWord w))
  | 0x5F => (FmtI.ofWord w).map (Instr.bkpt (Head.ofWord w))
  | 0x60 => (FmtM.ofWord w).map (Instr.ld (Head.ofWord w))
  | 0x61 => (FmtM.ofWord w).map (Instr.st (Head.ofWord w))
  | 0x62 => (FmtM.ofWord w).map (Instr.ldu (Head.ofWord w))
  | 0x63 => (FmtM.ofWord w).map (Instr.stu (Head.ofWord w))
  | 0x64 => (FmtM.ofWord w).map (Instr.pref (Head.ofWord w))
  | 0x65 => (FmtM.ofWord w).map (Instr.pagein (Head.ofWord w))
  | 0x66 => (FmtM.ofWord w).bind fun f => cctlOf (Head.ofWord w) f
  | 0x67 => (FmtM.ofWord w).map (Instr.atom (Head.ofWord w))
  | 0x68 => (FmtM.ofWord w).map (Instr.atomcas (Head.ofWord w))
  | 0x69 => (FmtM.ofWord w).map (Instr.red (Head.ofWord w))
  | 0x6A => (FmtM.ofWord w).map (Instr.fence (Head.ofWord w))
  | 0x6F => if w.extractLsb' 0 47 = 0 then some (.nop (Head.ofWord w)) else none
  | 0x70 => (FmtM.ofWord w).map (Instr.barinit (Head.ofWord w))
  | 0x71 => (FmtM.ofWord w).map (Instr.arrive (Head.ofWord w))
  | 0x72 => (FmtM.ofWord w).map (Instr.waitb (Head.ofWord w))
  | 0x73 => (FmtM.ofWord w).map (Instr.arrwait (Head.ofWord w))
  | 0x74 => (FmtA.ofWord w).map (Instr.wsync (Head.ofWord w))
  | 0x75 => if w.extractLsb' 0 47 = 0 then some (.gsync (Head.ofWord w)) else none
  | 0x76 => (FmtE.ofWord w).map (Instr.launch (Head.ofWord w))
  | 0x77 => (FmtE.ofWord w).map (Instr.cwait (Head.ofWord w))
  | 0x78 => (FmtE.ofWord w).map (Instr.fetchwg (Head.ofWord w))
  | 0x80 => (FmtE.ofWord w).map (Instr.tload (Head.ofWord w))
  | 0x81 => (FmtE.ofWord w).map (Instr.tstore (Head.ofWord w))
  | 0x82 => (FmtE.ofWord w).map (Instr.tgather (Head.ofWord w))
  | 0x83 => (FmtE.ofWord w).map (Instr.tscatter (Head.ofWord w))
  | 0x84 => (FmtE.ofWord w).map (Instr.tcopy (Head.ofWord w))
  | 0x85 => (FmtE.ofWord w).map (Instr.tfill (Head.ofWord w))
  | 0x86 => (FmtE.ofWord w).map (Instr.tstat (Head.ofWord w))
  | 0x90 => (FmtE.ofWord w).map (Instr.mwld (Head.ofWord w))
  | 0x91 => (FmtE.ofWord w).map (Instr.mma (Head.ofWord w))
  | 0x92 => (FmtE.ofWord w).map (Instr.mread (Head.ofWord w))
  | 0x93 => (FmtE.ofWord w).map (Instr.mzero (Head.ofWord w))
  | 0x94 => (FmtE.ofWord w).map (Instr.mhad (Head.ofWord w))
  | 0x95 => (FmtE.ofWord w).map (Instr.mbatch (Head.ofWord w))
  | 0x96 => (FmtE.ofWord w).map (Instr.mwait (Head.ofWord w))
  | 0x97 => (FmtE.ofWord w).bind fun f => mfuseOf (Head.ofWord w) f
  | 0x98 => (FmtE.ofWord w).map (Instr.mrelease (Head.ofWord w))
  | 0xA0 => (FmtE.ofWord w).map (Instr.nmexp (Head.ofWord w))
  | 0xA1 => (FmtE.ofWord w).map (Instr.nmred (Head.ofWord w))
  | 0xB0 => (FmtA.ofWord w).map (Instr.xmov (Head.ofWord w))
  | 0xB1 => (FmtA.ofWord w).map (Instr.xadd (Head.ofWord w))
  | 0xB2 => (FmtA.ofWord w).map (Instr.xsub (Head.ofWord w))
  | 0xB3 => (FmtA.ofWord w).map (Instr.xmax (Head.ofWord w))
  | 0xB4 => (FmtA.ofWord w).map (Instr.xmin (Head.ofWord w))
  | 0xB5 => (FmtA.ofWord w).map (Instr.xcvt (Head.ofWord w))
  | 0xB6 => (FmtA.ofWord w).map (Instr.xbind (Head.ofWord w))
  | 0xB7 => (FmtA.ofWord w).map (Instr.xunbind (Head.ofWord w))
  | 0xB8 => (FmtA.ofWord w).map (Instr.xtag (Head.ofWord w))
  | 0xB9 => (FmtE.ofWord w).map (Instr.xqnt (Head.ofWord w))
  | 0xBA => (FmtM.ofWord w).map (Instr.xld (Head.ofWord w))
  | 0xBB => (FmtM.ofWord w).map (Instr.xst (Head.ofWord w))
  | 0xBC => (FmtA.ofWord w).map (Instr.fmtset (Head.ofWord w))
  | 0xBD => (FmtA.ofWord w).map (Instr.fmtget (Head.ofWord w))
  | 0xBE => (FmtA.ofWord w).map (Instr.tdset (Head.ofWord w))
  | 0xBF => (FmtA.ofWord w).map (Instr.tdget (Head.ofWord w))
  | 0xC0 => (FmtS.ofWord w).bind fun f => sysOf 0xC0 (Head.ofWord w) f
  | 0xC1 => (FmtS.ofWord w).bind fun f => sysOf 0xC1 (Head.ofWord w) f
  | 0xC2 => (FmtS.ofWord w).bind fun f => sysOf 0xC2 (Head.ofWord w) f
  | 0xC3 => (FmtS.ofWord w).bind fun f => sysOf 0xC3 (Head.ofWord w) f
  | 0xC4 => (FmtS.ofWord w).bind fun f => sysOf 0xC4 (Head.ofWord w) f
  | 0xC5 => (FmtS.ofWord w).bind fun f => sysOf 0xC5 (Head.ofWord w) f
  | 0xC6 => (FmtS.ofWord w).bind fun f => sysOf 0xC6 (Head.ofWord w) f
  | 0xC7 => (FmtS.ofWord w).bind fun f => sysOf 0xC7 (Head.ofWord w) f
  | 0xC8 => (FmtS.ofWord w).bind fun f => sysOf 0xC8 (Head.ofWord w) f
  | 0xC9 => (FmtE.ofWord w).map (Instr.migrate (Head.ofWord w))
  | _ => none

/-- A pair word, before its checks (R35). -/
def decodePair (w : U64) : Option Instr :=
  match Slot.ofBits (w.extractLsb' 30 30), Slot.ofBits (w.extractLsb' 0 30) with
  | some s0, some s1 => some (.pairWord (w.extractLsb' 60 3) s0 s1)
  | _, _ => none

/-- The instruction of a word; none is ILLOP (R18, R46, R47). -/
def decodeWord (w : U64) : Option Instr :=
  (if w.getLsbD 63 then decodePair w else decodeFull w).filter Instr.wf

/-- The instruction at the front of a byte sequence, and the rest (R9, R18). -/
def decodeBytes (bs : List Byte) : Option (Instr × List Byte) :=
  if bs.length < 8 then none
  else (decodeWord (BitVec.ofNat 64 (Machine.ofBytes (bs.take 8)))).map fun i => (i, bs.drop 8)

/-- The instruction whose bits are w, as the opcode table numbers them; bits from nbits up are 0. -/
def decodeTableWord (nbits w : Nat) : Option Instr :=
  (decodeBytes (Machine.toBytes 8 (w % 2 ^ nbits))).map (·.1)

/-! The encoder. -/

/-- A full word from its op, head and bits [46:0] (R19). -/
def fullWord (op : BitVec 8) (h : Head) (p : BitVec 47) : U64 :=
  0#1 ++ op ++ h.g ++ BitVec.ofBool h.gn ++ h.st ++ p

/-- Format A with its c field given as bits. -/
def FmtA.payloadC (f : FmtA) (c : BitVec 8) : BitVec 47 :=
  f.d.toBits ++ f.a.toBits ++ f.b.toBits ++ f.bp ++ c ++ f.ty.toBits ++ f.rnd.toBits ++ f.flags

def FmtA.payload (f : FmtA) : BitVec 47 := f.payloadC f.c.toBits

def FmtI.payload (f : FmtI) : BitVec 47 := f.d.toBits ++ f.a.toBits ++ f.imm

def FmtM.payload (f : FmtM) : BitVec 47 :=
  f.d.toBits ++ f.a.toBits ++ f.b.toBits ++ f.sz.toBits ++ f.sp.toBits ++ f.sc.toBits ++ f.col ++ f.sem.toBits ++ f.off

def FmtE.payload (f : FmtE) : BitVec 47 := f.d.toBits ++ f.a.toBits ++ f.b.toBits ++ f.c.toBits ++ f.e

def FmtB.payload (f : FmtB) : BitVec 47 := f.tgt ++ f.jn

def FmtS.payload (f : FmtS) : BitVec 47 := f.d.toBits ++ f.a.toBits ++ f.idx ++ f.x

/-- A slot's bits (R35). -/
def Slot.bits (s : Slot) : BitVec 30 := s.sop.toBits ++ s.d ++ s.b.toBits ++ s.g ++ s.x

/-- ERET's x field: count, request, .NEXT (R305). -/
def eretX (req : BitVec 2) (k : BitVec 5) (next : Bool) : BitVec 15 :=
  0#7 ++ BitVec.ofBool next ++ req ++ k

/-- The word of an instruction of the ISA; a step of the device or of the outside has none. -/
def encode : Instr → Option U64
  | .iadd h f => some (fullWord 0x01 h f.payload)
  | .isub h f => some (fullWord 0x02 h f.payload)
  | .imul h f => some (fullWord 0x03 h f.payload)
  | .imulh h f => some (fullWord 0x04 h f.payload)
  | .imad h f => some (fullWord 0x05 h f.payload)
  | .idiv h f => some (fullWord 0x06 h f.payload)
  | .irem h f => some (fullWord 0x07 h f.payload)
  | .iabs h f => some (fullWord 0x08 h f.payload)
  | .ineg h f => some (fullWord 0x09 h f.payload)
  | .imin h f => some (fullWord 0x0A h f.payload)
  | .imax h f => some (fullWord 0x0B h f.payload)
  | .iand h f => some (fullWord 0x0C h f.payload)
  | .ior h f => some (fullWord 0x0D h f.payload)
  | .ixor h f => some (fullWord 0x0E h f.payload)
  | .inot h f => some (fullWord 0x0F h f.payload)
  | .ishl h f => some (fullWord 0x10 h f.payload)
  | .ishr h f => some (fullWord 0x11 h f.payload)
  | .isra h f => some (fullWord 0x12 h f.payload)
  | .irot h f => some (fullWord 0x13 h f.payload)
  | .ibfx h f => some (fullWord 0x14 h f.payload)
  | .ibfi h f => some (fullWord 0x15 h f.payload)
  | .ipopc h f => some (fullWord 0x16 h f.payload)
  | .iclz h f => some (fullWord 0x17 h f.payload)
  | .ibrev h f => some (fullWord 0x18 h f.payload)
  | .icmp h f => some (fullWord 0x19 h f.payload)
  | .isel h f => some (fullWord 0x1A h f.payload)
  | .iaddc h f => some (fullWord 0x1B h f.payload)
  | .idot4 h f => some (fullWord 0x1C h f.payload)
  | .ilea h f => some (fullWord 0x1D h f.payload)
  | .iaddi h f => some (fullWord 0x1E h f.payload)
  | .icmpi h f => some (fullWord 0x1F h f.payload)
  | .fadd h f => some (fullWord 0x20 h f.payload)
  | .fsub h f => some (fullWord 0x21 h f.payload)
  | .fmul h f => some (fullWord 0x22 h f.payload)
  | .ffma h f => some (fullWord 0x23 h f.payload)
  | .fmin h f => some (fullWord 0x24 h f.payload)
  | .fmax h f => some (fullWord 0x25 h f.payload)
  | .fabs h f => some (fullWord 0x26 h f.payload)
  | .fneg h f => some (fullWord 0x27 h f.payload)
  | .fcmp h f => some (fullWord 0x28 h f.payload)
  | .frcp h f => some (fullWord 0x29 h f.payload)
  | .frsq h f => some (fullWord 0x2A h f.payload)
  | .fsqrt h f => some (fullWord 0x2B h f.payload)
  | .fexp2 h f => some (fullWord 0x2C h f.payload)
  | .flog2 h f => some (fullWord 0x2D h f.payload)
  | .fsin h f => some (fullWord 0x2E h f.payload)
  | .fcos h f => some (fullWord 0x2F h f.payload)
  | .ftanh h f => some (fullWord 0x30 h f.payload)
  | .fclass h f => some (fullWord 0x31 h f.payload)
  | .fdiv h f => some (fullWord 0x32 h f.payload)
  | .fdot2 h f => some (fullWord 0x33 h f.payload)
  | .fscale h f => some (fullWord 0x34 h f.payload)
  | .frnd h f => some (fullWord 0x35 h f.payload)
  | .ffrac h f => some (fullWord 0x36 h f.payload)
  | .qnt h f => some (fullWord 0x41 h f.payload)
  | .dqnt h f => some (fullWord 0x42 h f.payload)
  | .pack h f => some (fullWord 0x43 h f.payload)
  | .unpk h f => some (fullWord 0x44 h f.payload)
  | .lshuf h f => some (fullWord 0x45 h f.payload)
  | .lbcast h f => some (fullWord 0x46 h f.payload)
  | .lred h f => some (fullWord 0x47 h f.payload)
  | .lscan h f => some (fullWord 0x48 h f.payload)
  | .lballot h f => some (fullWord 0x49 h f.payload)
  | .lvote h f => some (fullWord 0x4A h f.payload)
  | .plog h f => some (fullWord 0x4B h f.payload)
  | .pcnt h f => some (fullWord 0x4C h f.payload)
  | .mov h f => some (fullWord 0x4D h f.payload)
  | .movi h f => some (fullWord 0x4E h f.payload)
  | .movhi h f => some (fullWord 0x4F h f.payload)
  | .rdspec h f => some (fullWord 0x50 h f.payload)
  | .wrspec h f => some (fullWord 0x51 h f.payload)
  | .bra h f => some (fullWord 0x52 h f.payload)
  | .brx h f => some (fullWord 0x53 h f.payload)
  | .join h f => some (fullWord 0x54 h f.payload)
  | .call h f => some (fullWord 0x55 h f.payload)
  | .callx h f => some (fullWord 0x56 h f.payload)
  | .ret h f => some (fullWord 0x57 h f.payload)
  | .rgrow h f => some (fullWord 0x58 h f.payload)
  | .rshrink h f => some (fullWord 0x59 h f.payload)
  | .exit h f => some (fullWord 0x5A h f.payload)
  | .yield h f => some (fullWord 0x5B h f.payload)
  | .sleep h f => some (fullWord 0x5C h f.payload)
  | .sleepuntil h f => some (fullWord 0x5D h f.payload)
  | .trap h f => some (fullWord 0x5E h f.payload)
  | .bkpt h f => some (fullWord 0x5F h f.payload)
  | .ld h f => some (fullWord 0x60 h f.payload)
  | .st h f => some (fullWord 0x61 h f.payload)
  | .ldu h f => some (fullWord 0x62 h f.payload)
  | .stu h f => some (fullWord 0x63 h f.payload)
  | .pref h f => some (fullWord 0x64 h f.payload)
  | .pagein h f => some (fullWord 0x65 h f.payload)
  | .atom h f => some (fullWord 0x67 h f.payload)
  | .atomcas h f => some (fullWord 0x68 h f.payload)
  | .red h f => some (fullWord 0x69 h f.payload)
  | .fence h f => some (fullWord 0x6A h f.payload)
  | .barinit h f => some (fullWord 0x70 h f.payload)
  | .arrive h f => some (fullWord 0x71 h f.payload)
  | .waitb h f => some (fullWord 0x72 h f.payload)
  | .arrwait h f => some (fullWord 0x73 h f.payload)
  | .wsync h f => some (fullWord 0x74 h f.payload)
  | .launch h f => some (fullWord 0x76 h f.payload)
  | .cwait h f => some (fullWord 0x77 h f.payload)
  | .fetchwg h f => some (fullWord 0x78 h f.payload)
  | .tload h f => some (fullWord 0x80 h f.payload)
  | .tstore h f => some (fullWord 0x81 h f.payload)
  | .tgather h f => some (fullWord 0x82 h f.payload)
  | .tscatter h f => some (fullWord 0x83 h f.payload)
  | .tcopy h f => some (fullWord 0x84 h f.payload)
  | .tfill h f => some (fullWord 0x85 h f.payload)
  | .tstat h f => some (fullWord 0x86 h f.payload)
  | .mwld h f => some (fullWord 0x90 h f.payload)
  | .mma h f => some (fullWord 0x91 h f.payload)
  | .mread h f => some (fullWord 0x92 h f.payload)
  | .mzero h f => some (fullWord 0x93 h f.payload)
  | .mhad h f => some (fullWord 0x94 h f.payload)
  | .mbatch h f => some (fullWord 0x95 h f.payload)
  | .mwait h f => some (fullWord 0x96 h f.payload)
  | .mrelease h f => some (fullWord 0x98 h f.payload)
  | .nmexp h f => some (fullWord 0xA0 h f.payload)
  | .nmred h f => some (fullWord 0xA1 h f.payload)
  | .xmov h f => some (fullWord 0xB0 h f.payload)
  | .xadd h f => some (fullWord 0xB1 h f.payload)
  | .xsub h f => some (fullWord 0xB2 h f.payload)
  | .xmax h f => some (fullWord 0xB3 h f.payload)
  | .xmin h f => some (fullWord 0xB4 h f.payload)
  | .xcvt h f => some (fullWord 0xB5 h f.payload)
  | .xbind h f => some (fullWord 0xB6 h f.payload)
  | .xunbind h f => some (fullWord 0xB7 h f.payload)
  | .xtag h f => some (fullWord 0xB8 h f.payload)
  | .xqnt h f => some (fullWord 0xB9 h f.payload)
  | .xld h f => some (fullWord 0xBA h f.payload)
  | .xst h f => some (fullWord 0xBB h f.payload)
  | .fmtset h f => some (fullWord 0xBC h f.payload)
  | .fmtget h f => some (fullWord 0xBD h f.payload)
  | .tdset h f => some (fullWord 0xBE h f.payload)
  | .tdget h f => some (fullWord 0xBF h f.payload)
  | .migrate h f => some (fullWord 0xC9 h f.payload)
  | .cvt h f src => some (fullWord 0x40 h (FmtA.payloadC f (0#3 ++ src.toBits)))
  | .cctlIl1 h f => some (fullWord 0x66 h f.payload)
  | .cctlIl1all h f => some (fullWord 0x66 h f.payload)
  | .cctlIl1rem h f => some (fullWord 0x66 h f.payload)
  | .cctlEvl2 h f => some (fullWord 0x66 h f.payload)
  | .nop h => some (fullWord 0x6F h 0)
  | .gsync h => some (fullWord 0x75 h 0)
  | .mfuseNone h d => some (fullWord 0x97 h (FmtE.payload ⟨d, .v 0, .v 0, .v 0, 0⟩))
  | .mfuseNpair h d => some (fullWord 0x97 h (FmtE.payload ⟨d, .v 0, .v 0, .v 0, 1⟩))
  | .mfuseKpair h d => some (fullWord 0x97 h (FmtE.payload ⟨d, .v 0, .v 0, .v 0, 2⟩))
  | .mfuseQuad h d => some (fullWord 0x97 h (FmtE.payload ⟨d, .v 0, .v 0, .v 0, 3⟩))
  | .gcall h gate n => some (fullWord 0xC0 h (FmtS.payload ⟨.v 0, .v 0, gate.setWidth 16, n.setWidth 15⟩))
  | .gret h => some (fullWord 0xC1 h (FmtS.payload ⟨.v 0, .v 0, 0, 0⟩))
  | .sysrd h d idx no => some (fullWord 0xC2 h (FmtS.payload ⟨d, .v 0, idx, no.toBits.setWidth 15⟩))
  | .syswr h d a idx no => some (fullWord 0xC3 h (FmtS.payload ⟨d, a, idx, no.toBits.setWidth 15⟩))
  | .tlbinvRange h d a => some (fullWord 0xC4 h (FmtS.payload ⟨d, a, 0, 0⟩))
  | .tlbinvDid h d a => some (fullWord 0xC4 h (FmtS.payload ⟨d, a, 0, 1⟩))
  | .tlbinvPart h d a => some (fullWord 0xC4 h (FmtS.payload ⟨d, a, 0, 2⟩))
  | .ctxsave h d a => some (fullWord 0xC5 h (FmtS.payload ⟨d, a, 0, 0⟩))
  | .ctxrst h d a => some (fullWord 0xC6 h (FmtS.payload ⟨d, a, 0, 0⟩))
  | .dpreempt h d a => some (fullWord 0xC7 h (FmtS.payload ⟨d, a, 0, 0⟩))
  | .eret h k next => some (fullWord 0xC8 h (FmtS.payload ⟨.v 0, .v 0, 0, eretX 0 k next⟩))
  | .eretSpill h k next => some (fullWord 0xC8 h (FmtS.payload ⟨.v 0, .v 0, 0, eretX 1 k next⟩))
  | .eretFill h k next => some (fullWord 0xC8 h (FmtS.payload ⟨.v 0, .v 0, 0, eretX 2 k next⟩))
  | .pairWord stall s0 s1 => some (1#1 ++ stall ++ s0.bits ++ s1.bits)
  | _ => none

end Sys2Proof
end

