-- ==== Sys2Proof/Machine/Float.lean ====
section
/-! DEFINITION. Exact values, rounding to a grid, the IEEE formats (02). -/

namespace Sys2Proof.Machine

/-- An exact real result before its one rounding (R66). A finite value is (m + d) * 2^e with d = 0, or 0 < d < 1 when
`sticky`; its sign is kept for zeros. -/
inductive Exact where
  | nan
  | inf (neg : Bool)
  | fin (neg : Bool) (m : Nat) (e : Int) (sticky : Bool)
  deriving DecidableEq, Repr

/-- Plus zero. -/
def Exact.zero : Exact := .fin false 0 0 false

/-- Is the value zero. -/
def Exact.isZero : Exact → Bool
  | .fin _ m _ st => m == 0 && !st
  | _ => false

/-- Is the value NaN. -/
def Exact.isNan : Exact → Bool
  | .nan => true
  | _ => false

/-- Sign flipped. -/
def Exact.neg : Exact → Exact
  | .nan => .nan
  | .inf n => .inf (!n)
  | .fin n m e st => .fin (!n) m e st

/-- The magnitude. -/
def Exact.abs : Exact → Exact
  | .nan => .nan
  | .inf _ => .inf false
  | .fin _ m e st => .fin false m e st

/-- The sign bit. -/
def Exact.isNeg : Exact → Bool
  | .nan => false
  | .inf n => n
  | .fin n _ _ _ => n

/-- m * 2^e as an integer at exponent e0 ≤ e. -/
def alignTo (neg : Bool) (m : Nat) (e e0 : Int) : Int :=
  let k : Int := ((m * 2 ^ (e - e0).toNat : Nat) : Int)
  if neg then -k else k

/-- The value of an integer times 2^e; the sign of zero is given. -/
def Exact.ofInt (zneg : Bool) (k : Int) (e : Int) : Exact :=
  if k = 0 then .fin zneg 0 0 false else .fin (decide (k < 0)) k.natAbs e false

/-- The exact sum (R65, R113): opposite infinities are invalid; an exact zero from opposite signs is -0 under RD. -/
def Exact.add (rd : Bool) : Exact → Exact → Exact
  | .nan, _ => .nan
  | _, .nan => .nan
  | .inf a, .inf b => if a = b then .inf a else .nan
  | .inf a, .fin .. => .inf a
  | .fin .., .inf b => .inf b
  | .fin n1 m1 e1 _, .fin n2 m2 e2 _ =>
    let e0 := min e1 e2
    let z := if m1 = 0 ∧ m2 = 0 ∧ n1 = n2 then n1 else rd
    Exact.ofInt z (alignTo n1 m1 e1 e0 + alignTo n2 m2 e2 e0) e0

/-- The exact product (R65: 0 * infinity is invalid). -/
def Exact.mul : Exact → Exact → Exact
  | .nan, _ => .nan
  | _, .nan => .nan
  | .inf a, .inf b => .inf (a != b)
  | .inf a, .fin n m _ _ => if m = 0 then .nan else .inf (a != n)
  | .fin n m _ _, .inf b => if m = 0 then .nan else .inf (n != b)
  | .fin n1 m1 e1 _, .fin n2 m2 e2 _ => .fin (n1 != n2) (m1 * m2) (e1 + e2) false

/-- The value times 2^n (R121). -/
def Exact.scale (n : Int) : Exact → Exact
  | .nan => .nan
  | .inf a => .inf a
  | .fin s m e st => .fin s m (e + n) st

/-- Bits kept of an inexact quotient or root: more than any format's fraction and the 32 bits of SR together. -/
def workBits : Nat := 160

/-- The quotient (R65, R119). -/
def Exact.div : Exact → Exact → Exact
  | .nan, _ => .nan
  | _, .nan => .nan
  | .inf _, .inf _ => .nan
  | .inf a, .fin n _ _ _ => .inf (a != n)
  | .fin n _ _ _, .inf b => .fin (n != b) 0 0 false
  | .fin n1 m1 e1 _, .fin n2 m2 e2 _ =>
    if m2 = 0 then (if m1 = 0 then .nan else .inf (n1 != n2))
    else if m1 = 0 then .fin (n1 != n2) 0 0 false
    else
      let s := workBits + Nat.log2 m2 + 1
      let num := m1 * 2 ^ s
      .fin (n1 != n2) (num / m2) (e1 - e2 - s) (num % m2 != 0)

/-- The integer square root, one bit at a time from bit `k - 1` down. -/
def isqrtBits (x : Nat) : Nat → Nat → Nat
  | 0, r => r
  | k + 1, r =>
    let t := r + 2 ^ k
    if t * t ≤ x then isqrtBits x k t else isqrtBits x k r

/-- floor (sqrt x). -/
def isqrt (x : Nat) : Nat := isqrtBits x (Nat.log2 x / 2 + 1) 0

/-- The square root (R119). -/
def Exact.sqrt : Exact → Exact
  | .nan => .nan
  | .inf n => if n then .nan else .inf false
  | .fin n m e _ =>
    if m = 0 then .fin n 0 0 false
    else if n then .nan
    else
      let k := workBits
      let odd : Nat := (e % 2).toNat
      let x := m * 2 ^ (odd + 2 * k)
      let r := isqrt x
      .fin false r ((e - (odd : Int)) / 2 - (k : Int)) (r * r != x)

/-- 1 / sqrt x (R119: +0 gives +infinity, -0 gives -infinity, +infinity gives +0). -/
def Exact.rsqrt : Exact → Exact
  | .nan => .nan
  | .inf n => if n then .nan else .fin false 0 0 false
  | .fin n m e _ =>
    if m = 0 then .inf n
    else if n then .nan
    else
      let odd : Nat := (e % 2).toNat
      let mm := m * 2 ^ odd
      let k := workBits + Nat.log2 mm + 1
      let big := 2 ^ (2 * k)
      let r := isqrt (big / mm)
      .fin false r (-((e - (odd : Int)) / 2) - (k : Int)) (r * r * mm != big)

/-- Order of two values that are not NaN; zeros are equal. -/
def Exact.cmp : Exact → Exact → Ordering
  | .fin n1 m1 e1 _, .fin n2 m2 e2 _ =>
    let e0 := min e1 e2
    compare (alignTo n1 m1 e1 e0) (alignTo n2 m2 e2 e0)
  | .inf a, .inf b => if a = b then .eq else if a then .lt else .gt
  | .inf a, _ => if a then .lt else .gt
  | _, .inf b => if b then .gt else .lt
  | _, _ => .eq

/-- floor (log2) of a finite non-zero value. -/
def Exact.ilog2 : Exact → Int
  | .fin _ m e _ => e + (Nat.log2 m : Int)
  | _ => 0

/-! Rounding (R66, R67, R69, R70). -/

/-- One step of a lane's stochastic generator (R70). -/
def genStep (s : U32) : U32 :=
  let s := s ^^^ (s <<< 13)
  let s := s ^^^ (s >>> 17)
  s ^^^ (s <<< 5)

/-- The seed of a lane's generator (R69). -/
def genSeed (launchid wgid : Nat) (wi l : Nat) : U32 :=
  let v : U32 := BitVec.ofNat 32 launchid ^^^ BitVec.ofNat 32 (wgid % 2 ^ 32 * 0x85EBCA6B)
    ^^^ BitVec.ofNat 32 ((16 * wi + l + 1) * 0x9E3779B9)
  if v = 0 then 1 else v

/-- A grid: fraction bits, the exponent of the smallest spacing, and whether the spacing is that one everywhere. -/
structure FGrid where
  man : Nat
  qmin : Int
  fixed : Bool
  deriving DecidableEq, Repr

/-- The exponent of the grid's spacing at (m, e). -/
def FGrid.quantum (g : FGrid) (m : Nat) (e : Int) : Int :=
  if g.fixed then g.qmin
  else if m = 0 then g.qmin
  else max (e + (Nat.log2 m : Int) - (g.man : Int)) g.qmin

/-- Rounding of |x| = (m + d) * 2^e to a multiple k of 2^q on the grid unbounded above (R66, R70): (k, q). `s` is the
generator's value after its step. With no fraction bit to be even (man = 0), a tie goes to the even multiple (PRESUMED, log 31). -/
def roundMag (g : FGrid) (r : Rnd) (s : U32) (neg : Bool) (m : Nat) (e : Int) (sticky : Bool) : Nat × Int :=
  let q := g.quantum m e
  if q ≤ e then (m * 2 ^ (e - q).toNat, q)
  else
    let far := (q - e).toNat
    -- a value far below the spacing is 0 with a tail
    let deep : Bool := decide (Nat.log2 m + 64 < far)
    let sticky := sticky || (deep && m != 0)
    let m := if deep then 0 else m
    let sh := if deep then 1 else far
    let k := m / 2 ^ sh
    let rem := m % 2 ^ sh
    let half := 2 ^ (sh - 1)
    let inexact := rem != 0 || sticky
    let up : Bool :=
      match r with
      | .rne => decide (half < rem) || (rem == half && (sticky || k % 2 == 1))
      | .rna => decide (half ≤ rem)
      | .rz => false
      | .ru => inexact && !neg
      | .rd => inexact && neg
      | .sr => decide (2 ^ 32 ≤ rem * 2 ^ 32 / 2 ^ sh + s.toNat)
    (if up then k + 1 else k, q)

/-- An IEEE format (R61): exponent bits, fraction bits. -/
structure IFmt where
  eb : Nat
  mb : Nat
  deriving DecidableEq, Repr

def f64 : IFmt := ⟨11, 52⟩
def f32 : IFmt := ⟨8, 23⟩
def f16 : IFmt := ⟨5, 10⟩
def bf16 : IFmt := ⟨8, 7⟩

def IFmt.bias (f : IFmt) : Int := (2 ^ (f.eb - 1) : Nat) - 1
def IFmt.width (f : IFmt) : Nat := f.eb + f.mb + 1
def IFmt.grid (f : IFmt) : FGrid := ⟨f.mb, 1 - f.bias - (f.mb : Int), false⟩
def IFmt.infBits (f : IFmt) (neg : Bool) : Nat := b2n neg * 2 ^ (f.eb + f.mb) + (2 ^ f.eb - 1) * 2 ^ f.mb
def IFmt.maxBits (f : IFmt) (neg : Bool) : Nat := f.infBits neg - 1

/-- The canonical NaN (R61, R64). -/
def IFmt.nanBits (f : IFmt) : Nat := (2 ^ f.eb - 1) * 2 ^ f.mb + 2 ^ (f.mb - 1)

/-- The value of a pattern (R61, R63). -/
def IFmt.decode (f : IFmt) (w : Nat) : Exact :=
  let neg := w.testBit (f.eb + f.mb)
  let ex := fld w f.mb f.eb
  let fr := fld w 0 f.mb
  if ex = 2 ^ f.eb - 1 then (if fr = 0 then .inf neg else .nan)
  else if ex = 0 then .fin neg fr (1 - f.bias - (f.mb : Int)) false
  else .fin neg (2 ^ f.mb + fr) ((ex : Int) - f.bias - (f.mb : Int)) false

/-- Whether an overflow takes the value above the largest finite one (R67); for SR the stochastic choice made `k`. -/
def overflowUp (r : Rnd) (neg : Bool) : Bool :=
  match r with
  | .rne | .rna | .sr => true
  | .rz => false
  | .ru => !neg
  | .rd => neg

/-- The biased pattern of k * 2^q with k < 2^(man+1) or k = 2^(man+1), spacing exponent q on the grid. -/
def packMag (man : Nat) (qmin : Int) (k : Nat) (q : Int) : Nat := (q - qmin).toNat * 2 ^ man + k

/-- round (x, mode) to an IEEE format (R66, R67, R70), given the stepped generator. -/
def IFmt.round (f : IFmt) (r : Rnd) (s : U32) : Exact → Nat
  | .nan => f.nanBits
  | .inf n => f.infBits n
  | .fin n m e st =>
    let kq := roundMag f.grid r s n m e st
    let p := packMag f.mb f.grid.qmin kq.1 kq.2
    if p ≤ (2 ^ f.eb - 1) * 2 ^ f.mb - 1 then b2n n * 2 ^ (f.eb + f.mb) + p
    else if overflowUp r n then f.infBits n else f.maxBits n

/-- Rounding of an exact value to an integer (R71, R122): a magnitude with its sign. -/
def roundToInt (r : Rnd) (s : U32) (n : Bool) (m : Nat) (e : Int) (st : Bool) : Nat :=
  let kq := roundMag ⟨0, 0, true⟩ r s n m e st
  kq.1

/-- Is the pattern a NaN. -/
def IFmt.isNan (f : IFmt) (w : Nat) : Bool := (f.decode w).isNan

/-- Sign bit cleared or flipped (R64, R116). -/
def IFmt.absBits (f : IFmt) (w : Nat) : Nat := w % 2 ^ (f.eb + f.mb)
def IFmt.negBits (f : IFmt) (w : Nat) : Nat := (w % 2 ^ f.width) ^^^ 2 ^ (f.eb + f.mb)

/-- FMIN and FMAX on patterns (R115): -0 below +0; `nanp` makes any NaN operand give the canonical NaN. -/
def IFmt.minmax (f : IFmt) (isMax nanp : Bool) (a b : Nat) : Nat :=
  let x := f.decode a
  let y := f.decode b
  if x.isNan || y.isNan then
    (if nanp then f.nanBits else if x.isNan && y.isNan then f.nanBits else if x.isNan then b else a)
  else
    match Exact.cmp x y with
    | .lt => if isMax then b else a
    | .gt => if isMax then a else b
    | .eq => if isMax then (if x.isNeg then b else a) else (if x.isNeg then a else b)

/-- F32 sum rounded RNE (R131, R132, R301). -/
def addF32 (a b : Nat) : Nat := f32.round .rne 0 (Exact.add false (f32.decode a) (f32.decode b))

end Sys2Proof.Machine
end

