-- ==== Sys2Proof/Machine/Narrow.lean ====
section
/-! DEFINITION. Narrow formats, block scales, the block-scale rule, Hadamard transforms, matrix groups (02). -/

namespace Sys2Proof.Machine

/-- The value an F register holds at admission: MXFP4 (R74). -/
def fReset : U32 := 0x00040115

/-- The fields of an F register (R74). -/
structure NFmt where
  sgn : Nat
  e : Nat
  m : Nat
  bias : Int
  pol : Nat
  blk32 : Bool
  e4m3 : Bool
  deriving DecidableEq, Repr

def NFmt.of (v : U32) : NFmt :=
  let x := v.toNat
  { sgn := fld x 0 1, e := fld x 1 3, m := fld x 4 3, bias := sextN 8 (fld x 8 8), pol := fld x 16 2,
    blk32 := x.testBit 18, e4m3 := x.testBit 19 }

def NFmt.w (f : NFmt) : Nat := f.sgn + f.e + f.m
def NFmt.blk (f : NFmt) : Nat := if f.blk32 then 32 else 16

/-- A legal format value (R75). -/
def fLegal (v : U32) : Bool :=
  let f := NFmt.of v
  decide (2 ≤ f.w ∧ f.w ≤ 8)
    && (f.e != 0 || (f.pol == 0 && decide (1 ≤ f.m)))
    && (f.pol != 1 || (decide (2 ≤ f.e) && decide (1 ≤ f.m)))
    && (f.pol != 2 || (decide (1 ≤ f.e) && decide (1 ≤ f.m)))
    && f.pol != 3 && !v.getLsbD 7 && decide (v.toNat < 2 ^ 20)

/-- Storage width in bits (R76). -/
def NFmt.sw (f : NFmt) : Nat := if f.w ≤ 4 then 4 else if f.w ≤ 6 then 6 else 8

/-- The value of a code (R77, R78). -/
def NFmt.decode (f : NFmt) (c : Nat) : Exact :=
  let c := c % 2 ^ f.w
  let mant := fld c 0 f.m
  let ex := fld c f.m f.e
  let neg := f.sgn == 1 && c.testBit (f.w - 1)
  if f.e = 0 then
    (if f.sgn = 1 then Exact.ofInt false (sextN f.w c) (-f.bias) else .fin false mant (-f.bias) false)
  else if f.pol = 1 ∧ ex = 2 ^ f.e - 1 then (if mant = 0 then .inf neg else .nan)
  else if f.pol = 2 ∧ ex = 2 ^ f.e - 1 ∧ mant = 2 ^ f.m - 1 then .nan
  else if ex = 0 then .fin neg mant (1 - f.bias - (f.m : Int)) false
  else .fin neg (2 ^ f.m + mant) ((ex : Int) - f.bias - (f.m : Int)) false

/-- The grid (R78: the two's-complement types have the spacing 2^-bias everywhere). -/
def NFmt.grid (f : NFmt) : FGrid :=
  if f.e = 0 then ⟨0, -f.bias, true⟩ else ⟨f.m, 1 - f.bias - (f.m : Int), false⟩

/-- The pattern, without sign, of the largest finite magnitude. -/
def NFmt.maxMag (f : NFmt) : Nat :=
  if f.e = 0 then 2 ^ f.m - 1
  else if f.pol = 1 then (2 ^ f.e - 1) * 2 ^ f.m - 1
  else if f.pol = 2 then 2 ^ (f.e + f.m) - 2
  else 2 ^ (f.e + f.m) - 1

/-- A magnitude pattern with its sign (R77: two's complement when e = 0). -/
def NFmt.signed (f : NFmt) (neg : Bool) (p : Nat) : Nat :=
  if f.e = 0 then (if neg then (2 ^ f.w - p) % 2 ^ f.w else p)
  else if neg then 2 ^ (f.w - 1) + p else p

/-- Conversion into the format (R78), given the stepped generator. -/
def NFmt.encode (f : NFmt) (r : Rnd) (s : U32) (x : Exact) : Nat :=
  if f.sgn = 0 ∧ (x.isNeg ∨ x.isNan) then 0
  else
    match x with
    | .nan => if f.pol = 1 then (2 ^ f.e - 1) * 2 ^ f.m + 2 ^ (f.m - 1) else if f.pol = 2 then 2 ^ (f.e + f.m) - 1 else 0
    | .inf n => if f.pol = 1 then f.signed n ((2 ^ f.e - 1) * 2 ^ f.m) else f.signed n f.maxMag
    | .fin n m e st =>
      let kq := roundMag f.grid r s n m e st
      let p := if f.e = 0 then kq.1 else packMag f.m f.grid.qmin kq.1 kq.2
      if p ≤ f.maxMag then f.signed n p
      else if f.pol = 1 ∧ overflowUp r n then f.signed n ((2 ^ f.e - 1) * 2 ^ f.m)
      else f.signed n f.maxMag

/-- The largest exponent (R79). -/
def NFmt.emax (f : NFmt) : Int :=
  if f.e = 0 then (f.m : Int) - 1 - f.bias
  else if f.pol = 1 then ((2 ^ f.e : Nat) : Int) - 2 - f.bias
  else ((2 ^ f.e : Nat) : Int) - 1 - f.bias

/-! Scales (R80). -/

/-- The E4M3 layout with bias 7 and policy 2. -/
def e4m3 : NFmt := ⟨1, 4, 3, 7, 2, true, false⟩

/-- The value of a scale code; E4M3's bit 7 is ignored (R80). -/
def scaleVal (isE4m3 : Bool) (c : Nat) : Exact :=
  if isE4m3 then e4m3.decode (c % 128)
  else if c % 256 = 255 then .nan else .fin false 1 ((c % 256 : Nat) - 127 : Int) false

/-- The scale code of 2^k, k clamped to the format's range (R83). -/
def scaleCode (isE4m3 : Bool) (k : Int) : Nat :=
  if isE4m3 then
    let k := max (-9) (min 8 k)
    if -6 ≤ k then (k + 7).toNat * 8 else 2 ^ (k + 9).toNat
  else (max (-127) (min 127 k) + 127).toNat

/-- The exponent that scaleCode encodes. -/
def scaleExp (isE4m3 : Bool) (k : Int) : Int :=
  if isE4m3 then max (-9) (min 8 k) else max (-127) (min 127 k)

/-- The NaN scale code. -/
def scaleNan (isE4m3 : Bool) : Nat := if isE4m3 then 0x7F else 0xFF

/-- An element under its block's scale (R81). -/
def scaled (elem scale : Exact) : Exact := Exact.mul elem scale

/-- The larger of two magnitudes. -/
def maxAbs (a b : Exact) : Exact := if Exact.cmp a.abs b.abs == .lt then b.abs else a.abs

/-- The scale exponent of a block, or none when an element is NaN or infinite (R83). -/
def blockExp (f : NFmt) (b : List Exact) : Option Int :=
  if b.any (fun x => match x with | .fin .. => false | _ => true) then none
  else
    let amax := b.foldl maxAbs Exact.zero
    some (scaleExp f.e4m3 (if amax.isZero then 0 else amax.ilog2 - f.emax))

/-- The scale code of a block (R83). -/
def blockScale (f : NFmt) (b : List Exact) : Nat :=
  match blockExp f b with
  | none => scaleNan f.e4m3
  | some k => scaleCode f.e4m3 k

/-- One element's code under its block's exponent (R83). -/
def blockCode (f : NFmt) (k : Option Int) (r : Rnd) (s : U32) (x : Exact) : Nat :=
  match k with
  | none => 0
  | some k => f.encode r s (x.scale (-k))

/-! Hadamard transforms (R85). -/

/-- The exponent of c_n. -/
def hadShift (n : Nat) : Int := if n = 16 then -2 else -3

/-- The exact sum of the signed terms of row i, times c_n; an exact zero is +0. -/
def hadamardRow (n i : Nat) (v : List Exact) : Exact :=
  let terms := (List.range n).map fun j =>
    let x := v.getD j Exact.zero
    if popN 8 (i &&& j) % 2 = 1 then x.neg else x
  match (terms.foldl (Exact.add false) Exact.zero).scale (hadShift n) with
  | .fin n m e st => if m = 0 then Exact.zero else .fin n m e st
  | x => x

/-! The matrix chain (R86, R87). -/

/-- The exact sum of one group's products; NaN rules of R87, a zero sum is +0. -/
def groupSum (terms : List (Exact × Exact)) : Exact :=
  match terms.foldl (fun acc t => Exact.add false acc (Exact.mul t.1 t.2)) Exact.zero with
  | .fin n m e st => if m = 0 then Exact.zero else .fin n m e st
  | x => x

/-- The running partial over groups of g products (R87); F32 patterns. -/
def chainP (g : Nat) : Nat → List (Exact × Exact) → Nat → Nat
  | 0, _, p => p
  | fuel + 1, ts, p =>
    if ts.isEmpty then p
    else
      let s := groupSum (ts.take g)
      chainP g fuel (ts.drop g) (f32.round .rne 0 (Exact.add false (f32.decode p) s))

end Sys2Proof.Machine
end

