-- ==== Sys2Proof/Config.lean ====
section
/-! DEFINITION. What one part fixes and what the manual leaves open: free values with no body. Nothing can be proved of
their values; a statement about one holds for every value. -/

namespace Sys2Proof.Config

/-- A free number for each value of the state's counter `free`: cycles and orders that the manual does not give
(DESIGN CHOICE, log 2). -/
opaque freeNat : Nat → Nat

/-- A free word for each value of the counter: data values that the manual does not give (DESIGN CHOICE, log 2). -/
opaque freeWord : Nat → BitVec 64

/-- DEVID.stepping, "per part" (R437, DESIGN CHOICE, log 4). -/
opaque stepping : BitVec 8

/-- SERIAL, "per part" (R437, DESIGN CHOICE, log 4). -/
opaque serial : BitVec 64

/-- The SHAKE256 digest, 64 bytes, of some bytes (R456, R457; named, not described: DESIGN CHOICE, log 15). -/
opaque shake256 : List (BitVec 8) → BitVec 512

/-- Whether an ML-DSA-65 signature verifies: key, message, signature (R456, DESIGN CHOICE, log 15). -/
opaque mlDsaVerify : List (BitVec 8) → List (BitVec 8) → List (BitVec 8) → Bool

/-- The ML-DSA-65 signature of a digest under the key derived inside the device (R457, DESIGN CHOICE, log 15). -/
opaque attestSign : BitVec 512 → List (BitVec 8)

/-- The digest of the vendor's public key that is fused into the part (R456, DESIGN CHOICE, log 15). -/
opaque vendorKeyDigest : BitVec 512

/-- What an image holds where, which the manual does not lay out (R456, DESIGN CHOICE, log 15): the header's security version and
digest, the bytes of its other fields that are signed, the signature, the vendor's public key, the body. -/
opaque imageVersion : List (BitVec 8) → Nat
opaque imageDigest : List (BitVec 8) → BitVec 512
opaque imageSigned : List (BitVec 8) → List (BitVec 8)
opaque imageSignature : List (BitVec 8) → List (BitVec 8)
opaque imageKey : List (BitVec 8) → List (BitVec 8)
opaque imageBody : List (BitVec 8) → List (BitVec 8)

/-- The column power estimate of a stack at a sample, in watts (R453, PHIST; how it is formed is not given: DESIGN CHOICE, log 15). -/
opaque columnPower : Nat → Nat → Nat

end Sys2Proof.Config
end

