-- ==== Sys2Proof/Machine/FMap.lean ====
section
/-! DEFINITION. Finite maps as sorted lists of key and value, memory as a canonical list of cells, lanes as lists. -/

namespace Sys2Proof.Machine

/-- A finite map by Nat key; the keys rise. An absent key reads as the default a reader names. -/
abbrev FMap (β : Type) := List (Nat × β)

/-- The value at a key, if any. -/
def FMap.get? {β : Type} : FMap β → Nat → Option β
  | [], _ => none
  | (k', v) :: r, k => if k = k' then some v else FMap.get? r k

/-- The value at a key, or the default. -/
def FMap.getD {β : Type} (m : FMap β) (k : Nat) (d : β) : β := (FMap.get? m k).getD d

/-- Put a value at a key. -/
def FMap.put {β : Type} : FMap β → Nat → β → FMap β
  | [], k, v => [(k, v)]
  | (k', v') :: r, k, v =>
    if k < k' then (k, v) :: (k', v') :: r
    else if k = k' then (k, v) :: r
    else (k', v') :: FMap.put r k v

/-- Drop a key. -/
def FMap.drop {β : Type} (m : FMap β) (k : Nat) : FMap β := m.filter (fun c => c.1 != k)

/-- The values in key order. -/
def FMap.vals {β : Type} (m : FMap β) : List β := m.map (·.2)

/-- Memory: the bytes that differ from what an unlisted byte reads as (0x00: DESIGN CHOICE, log 3), addresses rising. -/
abbrev Memory := List Host.Cell

/-- What a byte that nothing has written reads as (DESIGN CHOICE, log 3). -/
def Memory.blank : Byte := 0

/-- One byte (R241, R9). -/
def Memory.get (m : Memory) (a : Nat) : Byte := FMap.getD m a Memory.blank

/-- Write one byte, keeping the canonical form. -/
def Memory.set (m : Memory) (a : Nat) (b : Byte) : Memory :=
  if b = Memory.blank then FMap.drop m a else FMap.put m a b

/-- The canonical form: addresses strictly rising, no byte equal to the blank one. -/
def Memory.wf : Memory → Bool
  | [] => true
  | [c] => c.2 != Memory.blank
  | c :: d :: r => c.2 != Memory.blank && decide (c.1 < d.1) && Memory.wf (d :: r)

/-- n bytes from an address, ascending. -/
def Memory.read (m : Memory) (a : Nat) : Nat → List Byte
  | 0 => []
  | n + 1 => m.get a :: Memory.read m (a + 1) n

/-- Write bytes at ascending addresses. -/
def Memory.write (m : Memory) (a : Nat) : List Byte → Memory
  | [] => m
  | b :: r => Memory.write (m.set a b) (a + 1) r

/-- A list of 32 values, one a lane. -/
abbrev Lanes := List U32

/-- The lanes of a function. -/
def Lanes.build (f : Nat → U32) : Lanes := (List.range 32).map f

/-- The value of a lane; a lane not listed reads 0. -/
def Lanes.get (v : Lanes) (l : Nat) : U32 := v.getD l 0

/-- All lanes 0. -/
def Lanes.zero : Lanes := []

/-- The lanes of a mask from one list, the others from another. -/
def Lanes.merge (mask : U32) (new old : Lanes) : Lanes :=
  Lanes.build fun l => if mask.getLsbD l then new.get l else old.get l

end Sys2Proof.Machine
end

