-- ==== Sys2Proof/Machine/State.lean ====
section
/-! DEFINITION. The machine's state, as plain data, its faults and refusals, and the state after reset. -/

namespace Sys2Proof.Machine

/-- Why a run stops. -/
inductive Fault where
  /-- exec of an ISA instruction with no fragment selected: raised only by a call of exec outside step. Safe: step always
  selects the issuing fragment first (DESIGN CHOICE, log 1). -/
  | noIssuer
  deriving DecidableEq, Repr

/-- Why an instruction has no meaning here. -/
inductive Refusal where
  /-- An instruction this model has not reached: raised by an arm of exec. Safe. -/
  | notModelled (mnemonic : String)
  deriving DecidableEq, Repr

/-- A register a pending result names (R40 to R43). `v` is a physical register of the warp: 0-15 fixed, 16 + slot. -/
inductive Reg where
  | v (i : Nat)
  | rsv (i : Nat)
  | s (i : Nat)
  | p (i : Nat)
  | nrm
  | exec (frag : Nat)
  | x (i : Nat)
  | t (i : Nat)
  | f (i : Nat)
  deriving DecidableEq, Repr

/-- A fixed-latency result on its way (R40 to R43): lanes of a V register, or a uniform value; `mask` is the lanes, or
the bits of a P register, that it writes. -/
structure Pend where
  id : Nat
  reg : Reg
  mask : U32
  lanes : Lanes
  uni : U64
  issued : Nat
  lands : Nat
  deriving DecidableEq, Repr

/-- An interlocked register (R41, R308): held by the operation `owner` until it lands, in a V register in the lanes that it
writes (R128). -/
structure Lock where
  reg : Reg
  owner : Nat
  lanes : U32 := BitVec.allOnes 32
  deriving DecidableEq, Repr

/-- What a parked fragment waits for. -/
inductive Wait where
  /-- SLEEP, until a cycle (R150). -/
  | sleep (until_ : Nat)
  /-- SLEEPUNTIL on a ticket value (R151). -/
  | promise (ticket : U64) (early : Bool)
  /-- MWAIT for the batches up to one (R297); `beyond`: the number exceeded the latest closed batch. -/
  | mwait (batch : Nat) (beyond : Bool) (d : Opd)
  /-- CWAIT for children (R179). -/
  | cwait (ids : List Nat) (d : Opd)
  /-- An ARRIVE, ARRWAIT or BARINIT whose word's ALU has not answered (R173). -/
  | answer (id : Nat)
  /-- WAITB or ARRWAIT parked at a word: the waiting access, space, address, token, scope (R173). -/
  | barrier (id : Nat) (space : Nat) (va : U64) (token : Nat) (scope : Scope)
  /-- GSYNC (R177). -/
  | gsync
  /-- WSYNC over a mask (R176). -/
  | wsync (mask : U32)
  /-- Translations being walked before the instruction at PC is tried again (R263). -/
  | walks (ids : List Nat)
  deriving DecidableEq, Repr

/-- A fragment's state (R196). -/
inductive FragSt where
  | ready
  | parked (w : Wait)
  | arrived (split : Nat)
  deriving DecidableEq, Repr

/-- The record of a warp's latest trap (R139, R366). -/
structure TrapRec where
  cause : Nat := 0
  pc : U64 := 0
  addr : U64 := 0
  lanes : U32 := 0
  done : U32 := 0
  /-- words 4 and 6 of its park record (R373) -/
  pa : U64 := 0
  detail : U64 := 0
  deriving DecidableEq, Repr

/-- A fragment-table entry (R196) with its issue state (R39, R145, R186 to R188). `heldCall` is the call depth whose RET
frees it (R147); `heldTrap` marks a fragment held by a handler (R368). `word` is its fetched next word (R186), `fetching`
the id of a fetch on its way. -/
structure Frag where
  pc : U64 := 0
  exec : U32 := 0
  memb : U32 := 0
  prio : Nat := 0
  age : Nat := 0
  depth : Nat := 0
  wait : Nat := 0
  promoted : Bool := false
  yielded : Bool := false
  st : FragSt := .ready
  stall : Nat := 0
  word : Option U64 := none
  fetching : Bool := false
  /-- the word being fetched is the first of an admitted warp (R461) -/
  fresh : Bool := false
  heldCall : Option Nat := none
  heldTrap : Bool := false
  /-- DONELANES apply to the instruction at this PC (R160). -/
  replay : Option U64 := none
  /-- Outcomes of walks made for the instruction at PC: page, need, outcome code and IPA (R258). -/
  walked : List (Nat × Nat × Nat × Nat) := []
  /-- Acquires of the fragment whose reads had not returned, each with the EXEC lanes at its issue (R161, R220). -/
  acq : List (Nat × Nat) := []
  /-- Lanes that the store at this PC has performed, the others waiting for a buffer entry (R159, R245). -/
  stored : U32 := 0
  /-- The first token of an ARRWAIT whose arrival was made (R173). -/
  token : Option Nat := none
  /-- The trap of a SLEEPUNTIL whose test failed while the fragment could not take it (R397). -/
  missed : Option TrapRec := none
  deriving DecidableEq, Repr

/-- A split-table entry (R196): fragments by index. -/
structure Split where
  join : U64
  depth : Nat
  members : List Nat
  gone : List Nat
  outer : Option Nat
  deriving DecidableEq, Repr

/-- A reconvergence-stack entry (R197). -/
structure Recon where
  target : U64
  exec : U32
  memb : U32
  join : U64
  waiting : Bool
  deriving DecidableEq, Repr

/-- A frame record (R147, R382). -/
structure Frame where
  pc : U64
  n : Nat
  gate : Bool
  gateNo : Nat
  deriving DecidableEq, Repr

/-- A tile descriptor (R309). -/
structure TReg where
  base : BitVec 22 := 0
  rows : BitVec 13 := 0
  cols : BitVec 13 := 0
  fmt : BitVec 5 := 0
  valid : Bool := false
  pitch : BitVec 22 := 0
  gen : BitVec 12 := 0
  deriving DecidableEq, Repr

/-- A scale register: its bytes that are not 0x00, and its control word (R315). -/
structure XReg where
  bytes : Memory := []
  tix : BitVec 4 := 0
  bnd : Bool := false
  tag : BitVec 12 := 0
  sfmt : Bool := false
  blk : Bool := true
  deriving DecidableEq, Repr

/-- A resident warp. -/
structure Warp where
  uid : Nat := 0
  wg : Nat := 0
  wi : Nat := 0
  v : FMap Lanes := []
  reserve : FMap Lanes := []
  s : FMap U64 := []
  p : FMap U32 := []
  nrm : U64 := 0
  chk : Bool := false
  t : FMap TReg := []
  x : FMap XReg := []
  f : FMap U32 := []
  gen : Lanes := []
  trap : TrapRec := {}
  alloc : Nat := 32
  b : Nat := 0
  spilled : Nat := 0
  frames : List Frame := []
  spilledFrames : Nat := 0
  spillPtr : U64 := 0
  aslot : Nat := 0
  dslot : Nat := 0
  prio : Nat := 0
  age : Nat := 0
  frags : FMap Frag := []
  splits : FMap Split := []
  recon : List Recon := []
  reconOut : Nat := 0
  pend : List Pend := []
  locks : List Lock := []
  /-- The fragment running the trap handler (R368). -/
  handler : Option Nat := none
  /-- The fragment that raised the latest trap. -/
  trapFrag : Nat := 0
  /-- model: the results of the code that a handler interrupted have identities below this one (DEDUCED, log 48) -/
  trapId : Nat := 0
  /-- For a system warp in its handler for a park record: that record's slot (R374). -/
  serving : Option Nat := none
  gates : Nat := 0
  /-- Parked for a system cause, and whether that was an escalation (R373). -/
  parked : Bool := false
  esc : Bool := false
  norst : Bool := false
  /-- Issue stopped for a pre-emption (R332). -/
  stopped : Bool := false
  batch : Nat := 0
  /-- batches marked for a lost bank; 0 the open one (R358) -/
  lostBatches : List Nat := []
  /-- A trap that the warp's next issue takes: of a matrix operation that an error kept from starting (R386), or of a replay
  entry of a parked warp, in that entry's fragment (R379). -/
  pendingFail : Option (Option Nat × TrapRec) := none
  /-- Registers whose next read is a machine check (R386). -/
  bad : List Reg := []
  deriving DecidableEq, Repr

/-- An L1 line (R247): its data is kept only when its home is another stack. -/
structure L1Line where
  pa : Nat
  slot : Nat
  own : Bool
  data : List Byte
  filled : Nat
  /-- cycle its bytes were read at the home -/
  at_ : Nat
  used : Nat
  bad : Bool
  deriving DecidableEq, Repr

/-- A store that an access carries: its warp and fragment, its PC and its virtual address (R366). -/
structure StoreBy where
  uid : Nat
  frag : Nat
  pc : U64
  va : U64
  deriving DecidableEq, Repr

/-- A coalescing-buffer entry (R245): line, bytes by offset, domain slot, own; who put bytes there: warp uid, lane mask and
colour; and the stage-2 generations and virtual addresses its stores used (R261, R264). -/
structure Entry where
  id : Nat
  line : Nat
  bytes : List (Nat × Byte)
  dslot : Nat
  own : Bool
  by_ : List (Nat × Nat × Nat)
  leaves : Nat
  /-- identity of the latest merge -/
  seq : Nat
  shrd : Bool
  mt : Nat
  did : Nat
  part : Nat
  uses : List (Nat × Nat)
  uid : Nat
  ctx : Bool
  slack : Nat
  from_ : List StoreBy := []
  deriving DecidableEq, Repr

/-- A translation-cache entry (R263): kind 1 combined, 3 not-present-managed, 0 a table entry of a level, 4 host. -/
structure Tlb where
  kind : Nat
  part : Nat
  did : Nat
  g2 : Nat
  /-- first virtual address and size in bytes -/
  va : Nat
  size : Nat
  level : Nat
  /-- output physical address (kind 1, 4), or the entry's value (kind 0) -/
  pa : Nat
  w : Bool
  x : Bool
  dirty : Bool
  mt : Nat
  shrd : Bool
  rd : Bool
  deriving DecidableEq, Repr

/-- A copy engine's ticket record (R284): state 0 pending, 1 complete, 2 faulted. -/
structure Ticket where
  id : Nat
  wg : Nat
  state : Nat
  cause : Nat
  addr : U64
  order : Nat
  promise : Nat
  /-- of a fault: the IPA or physical address, and the detail of a machine check (R373, R388) -/
  pa : U64 := 0
  detail : U64 := 0
  deriving DecidableEq, Repr

/-- How a copy failed (R286): cause, address, the IPA or physical address, and a machine check's detail (R373, R388). -/
structure CopyFail where
  cause : Nat
  addr : Nat
  pa : Nat := 0
  detail : Nat := 0
  deriving DecidableEq, Repr

/-- A range-lock entry (R398); space 0, 1 or 3. -/
structure RangeLock where
  op : Nat
  space : Nat
  lo : Nat
  hi : Nat
  slot : Nat
  write : Bool
  deriving DecidableEq, Repr

/-- A weight latch (R287): the tile bytes by row, and what travels with them (R344). -/
structure Latch where
  valid : Bool := false
  did : Nat := 0
  cls : Nat := 0
  k : Nat := 0
  n : Nat := 0
  /-- element type code and F value -/
  fmt : Nat := 0
  fval : U32 := 0
  rows : List (List Byte) := []
  scales : List Byte := []
  hasScale : Bool := false
  sfmt : Bool := false
  /-- replay fields: T index, generation, X index, uid of the loader, the word and its PC -/
  tix : Nat := 0
  gen : BitVec 12 := 0
  xix : Nat := 0
  uid : Nat := 0
  word : U64 := 0
  pc : U64 := 0
  /-- the loader's workgroup and warp index (R357) -/
  wg : Nat := 0
  wi : Nat := 0
  deriving DecidableEq, Repr

/-- An engine operation: what it captured at issue (R278, R308, R342, R380). Kind: 0 TLOAD, 1 TSTORE, 2 TGATHER,
3 TSCATTER, 4 TCOPY, 5 TFILL, 6 XQNT; 10 MWLD, 11 MMA, 12 MREAD, 13 MZERO, 14 MHAD, 15 MRELEASE, 16 MFUSE; 20 an ARRIVE or
ARRWAIT taken back into its core for a save (R378). -/
structure EOp where
  id : Nat := 0
  kind : Nat
  uid : Nat
  slot : Nat
  frag : Nat
  wg : Nat
  did : Nat
  dslot : Nat
  pc : U64
  word : U64 := 0
  /-- the shape record (R273) -/
  rcd : Nat := 0
  /-- S values in the order of the fields a, b, c, c + 1, ... -/
  svals : List U64 := []
  ta : TReg := {}
  tai : Nat := 0
  tb : TReg := {}
  tbi : Nat := 0
  fa : U32 := 0
  fb : U32 := 0
  /-- scale registers it reads: index and bytes -/
  xs : List (Nat × Memory) := []
  /-- the X registers it writes, and the generation it tags them with -/
  xw : List Nat := []
  gen : BitVec 12 := 0
  /-- ranges it reads and writes (R285); of space 100 + warp slot: X registers -/
  rng : List RangeLock := []
  ticket : Nat := 0
  promise : Nat := 0
  /-- TSTORE or TLOAD with .SPLIT; MREAD with .CLR; MRELEASE with .BANKS -/
  flag : Bool := false
  /-- spaces read and written (R26) -/
  sp : Nat := 0
  sp2 : Nat := 0
  rnd : Rnd := .rne
  /-- matrix (R289, R291): bank or bank mask, member, latch class, row0, M, K, N, fusion mode -/
  bank : Nat := 0
  member : Nat := 0
  cls : Nat := 0
  row0 : Nat := 0
  m : Nat := 0
  k : Nat := 0
  n : Nat := 0
  mode : Nat := 0
  batch : Nat := 0
  d : Opd := .zero
  /-- MFUSE's d -/
  stat : Nat := 0
  issued : Nat
  /-- replayed at a restore, and its workgroup has not issued since (R359) -/
  again : Bool := false
  started : Bool := false
  start : Nat := 0
  /-- occupancy end and retirement of a started matrix operation; the cycle a copy means to complete in -/
  occ : Nat := 0
  retire : Nat := 0
  /-- a copy: all its translations were cached at issue and nothing has kept it since, so that its promise holds; its home
  stacks with their levels at issue (R396) -/
  cached : Bool := false
  homes : List (Nat × Nat) := []
  /-- a copy: parts done, whether the next one's row-port cycle is taken; a not-present-managed page was read; how it failed
  (R205, R286) -/
  part : Nat := 0
  port : Bool := false
  zeros : Bool := false
  fail : Option CopyFail := none
  /-- a matrix operation: the factor of its start (R296) -/
  lev : Nat := 0
  /-- rows or lists read so far -/
  snap : List (Nat × List Byte) := []
  /-- the members' working latches at an MMA's start (R343) -/
  lat : List Latch := []
  deriving DecidableEq, Repr

/-- A resident workgroup's identity (R189, R191, R381). -/
structure WG where
  grid : Nat := 0
  lin : Nat := 0
  did : Nat := 0
  slot : Nat := 0
  member : Nat := 0
  rowBase : Nat := 0
  scratch : Nat := 0
  warps : Nat := 1
  regs : Nat := 32
  scales : Bool := false
  /-- Grids it has withdrawn workgroups from by FETCHWG, one entry each: they retire with it (R180). -/
  withdrawn : List Nat := []
  /-- Children launched by it: LAUNCHID (R179). -/
  kids : List Nat := []
  /-- Ended by system software (R375). -/
  ended : Bool := false
  /-- Engine operations withdrawn for a save, in issue order (R357, R378). -/
  held : List EOp := []
  deriving DecidableEq, Repr

/-- Issued state of a quadrant (R342). -/
structure QIssued where
  valid : Bool := false
  did : Nat := 0
  cls : Nat := 0
  k : Nat := 0
  n : Nat := 0
  fmt : Nat := 0
  fval : U32 := 0
  stamps : FMap Nat := []
  /-- fusion group: mode 1 NPAIR, 2 KPAIR, 3 QUAD; leader's local core -/
  mode : Nat := 0
  leader : Nat := 0
  deriving DecidableEq, Repr

/-- A matrix quadrant (R287, R342, R343). Banks hold F32 patterns by bank * 32768 + row * 128 + column; unlisted is +0. -/
structure Quad where
  latch : Latch := {}
  issued : QIssued := {}
  banks : FMap Nat := []
  stamps : FMap Nat := []
  lost : List Nat := []
  mode : Nat := 0
  leader : Nat := 0
  /-- cluster group that formed the fusion: grid and first linear id -/
  group : Nat × Nat := (0, 0)
  /-- the end of the latest occupancy, and each bank's latest result cycle (R296, R345) -/
  occ : Nat := 0
  results : FMap Nat := []
  deriving DecidableEq, Repr

/-- One SIMT core (R184). -/
structure Core where
  warps : FMap Warp := []
  wgs : FMap WG := []
  scratch : Memory := []
  /-- the first free cycle of each bank-array port, and coming cycles of the row port that matrix operations have (R181, R205,
  R291) -/
  simtFree : Nat := 0
  rowFree : Nat := 0
  rowTaken : List Nat := []
  l1 : List L1Line := []
  l1ways : FMap (List Nat) := []
  bufs : FMap (List Entry) := []
  tlb : List Tlb := []
  /-- the instruction cache: words by physical address with the cycle they are there from, latest filled first (R253) -/
  icache : List (Nat × U64 × Nat) := []
  nextTicket : Nat := 0
  tickets : List Ticket := []
  rlocks : List RangeLock := []
  hz : Nat := 0
  ops : List EOp := []
  quad : Quad := {}
  /-- per quarter: the fragment that issued in this or the previous eligible cycle: (cycle, slot, frag, promoted) (R187) -/
  last : FMap (Nat × Nat × Nat × Bool) := []
  f64Free : FMap Nat := []
  sfuFree : FMap Nat := []
  /-- park records held while DSCTX is 0 (R419), and slots of pending records in parking order (R374) -/
  parkHeld : List (Nat × List U64) := []
  pendingRecs : List Nat := []
  fetchOut : Nat := 0
  nmOut : Nat := 0
  /-- scratchpad words with an uncorrectable error (R386) -/
  badScratch : List Nat := []
  deriving DecidableEq, Repr

/-- An L2 line (R249, R422, R423). -/
structure L2Line where
  pa : Nat
  way : Nat
  did : Nat
  part : Nat
  shared : Bool
  dirty : Bool
  used : Nat
  /-- the cycle its bytes reach the slice -/
  ready : Nat
  deriving DecidableEq, Repr

/-- One stack. -/
structure Stack where
  level : Nat := 0
  low : Bool := false
  cause : Nat := 0
  since : U32 := 0
  /-- model: the cycle up to which THTIME counts (R453) -/
  thFrom : Nat := 0
  frc : Bool := false
  reading : U64 := 0
  real : U64 := 0
  dprev : BitVec 16 := 0
  sampled : Bool := false
  atLevel : FMap Nat := []
  /-- the sensors' present values (an input) -/
  sensors : U64 := 0
  /-- units that have reported ready: R437's bits; those that ever have since package reset (R439) -/
  ready : U64 := 0
  seen : U64 := 0
  /-- model: while a stack reset fails what is in flight, every line of the stack counts as lost (R440) -/
  cut : Bool := false
  /-- on-die links that have failed, and those out of use since the latest reroute (R435) -/
  linkDown : List Nat := []
  linkOut : List Nat := []
  netState : Nat := 0
  reroutes : Nat := 0
  lastPause : Nat := 0
  drainUntil : Nat := 0
  pausedUntil : Nat := 0
  lostMsgs : FMap Nat := []
  refresh : FMap Nat := []
  l2 : List L2Line := []
  /-- the DID that last filled each line (R387) -/
  filled : FMap Nat := []
  tlb : List Tlb := []
  walkers : Nat := 0
  /-- the first free cycle of each Trowel unit (R393) -/
  units : FMap Nat := []
  /-- the lost-line table (R387): line, the DID that filled it, source (R388), bytes given since -/
  lost : List (Nat × Nat × Nat × List Nat) := []
  sysfault : Nat := 0
  faultCause : Nat := 0
  faultCore : Nat := 0
  deriving DecidableEq, Repr

/-- One lane's part of a memory operation: lane, physical or scratchpad address, virtual address, bytes. -/
structure LaneAcc where
  lane : Nat
  pa : Nat
  va : U64
  /-- 0 memory, 1 kind-3 page (zeros), 2 scratchpad, 3 host window, 4 peer -/
  kind : Nat
  /-- store bytes, or an atomic's operand -/
  data : List Byte
  /-- ATOMCAS's new value -/
  new : List Byte
  /-- the pass that serves it (R162, R207) -/
  pass : Nat
  deriving DecidableEq, Repr

/-- A load, atomic or barrier operation of a fragment that has not landed (R157, R168, R173). -/
structure LoadOp where
  id : Nat
  core : Nat
  slot : Nat
  uid : Nat
  frag : Nat
  /-- 0 LD, 1 LDU, 2 XLD, 3 ATOM or ATOMCAS, 4 barrier, 5 LAUNCH's record, 6 NMEXP's or NMRED's record, 7 FETCHWG's
  mailbox -/
  kind : Nat
  pc : U64
  /-- destination registers as they were named at issue -/
  regs : List Reg
  /-- lanes written; lanes it counts as an access of (R208) -/
  mask : U32
  cover : U32
  size : Nat
  accs : List LaneAcc
  /-- requests still out -/
  left : Nat
  /-- bytes read: key 16 * lane + i; an XLD's 1,024 bytes by offset -/
  got : Memory
  nrm : U64
  acq : Scope
  /-- no earlier than this cycle does it land -/
  lands : Nat
  dslot : Nat
  wg : Nat := 0
  /-- lanes whose peer is down (R450) -/
  failed : List Nat := []
  /-- a barrier operation: its word and S values (R380) -/
  word : U64 := 0
  svals : List U64 := []
  /-- a record's read: the buffered and flying stores it comes after, and how its page is cached (R178, R390, R423) -/
  after : List Nat := []
  shrd : Bool := false
  mt : Nat := 0
  /-- a record's read leaves no earlier: the cycles of its translation (R263) -/
  from_ : Nat := 0
  deriving DecidableEq, Repr

/-- Something on its way to its home (R460). Kind: 0 a load's line, 1 a buffered store, 2 an atomic's line, 3 a scratchpad
load, 4 a scratchpad store, 5 a scratchpad atomic, 6 a host read, 7 a host write, 8 a host atomic, 9 a barrier operation,
10 a peer's read, 11 a peer's write, 12 a peer's atomic, 13 the host's BAR2 read, 14 its BAR2 write, 15 an inbound peer
request, 16 a barrier operation in space 1, 17 one in space 2, 18 a line request of an engine, a walk or a unit. Kind 14 with accs
is an atomic of the device itself. -/
structure Fly where
  id : Nat
  kind : Nat
  op : Nat
  core : Nat
  slot : Nat
  uid : Nat
  frag : Nat
  /-- who put bytes there: uid, lane mask, colour -/
  by_ : List (Nat × Nat × Nat)
  /-- first address: a line's, a scratchpad access's target core, or a peer's or the host's -/
  pa : Nat
  accs : List LaneAcc
  /-- store bytes by offset in the line; a read's line as it was performed -/
  bytes : List (Nat × Byte)
  data : List Byte
  size : Nat
  /-- atomic or barrier operation; arrival count -/
  code : Nat
  arg : Nat
  /-- latest merge of a store -/
  seq : Nat
  left_ : Nat
  arrives : Nat
  /-- cycles from performance to answer -/
  back : Nat
  performed : Bool
  answered : Bool
  did : Nat
  dslot : Nat
  part : Nat
  g2 : Nat
  shrd : Bool
  mt : Nat
  own : Bool
  /-- the first byte's virtual address -/
  va : U64
  /-- 0 on its way, 1 admitted at the port, 2 its line is at the slice, 3 looked up in L1, 4 in passes at a bank ALU, 5
  waiting to set out, 6 in passes for another core, 7 waiting at a barrier word, 8 on its way back from one, 9 without a
  way -/
  phase : Nat
  /-- the store is a system-domain one in space 4 (R387) -/
  ctx : Bool
  /-- an acquire or a CCTL came between: the line does not enter L1 (R170) -/
  nofill : Bool
  slack : Nat
  entered : Nat
  /-- the generations and virtual addresses that a merged store used beside its own (R261, R264) -/
  uses : List (Nat × Nat) := []
  from_ : List StoreBy := []
  deriving DecidableEq, Repr

/-- A translation request at a stack's walkers (R263). -/
structure Walk where
  id : Nat
  stack : Nat
  core : Nat
  slot : Nat
  frag : Nat
  uid : Nat
  dslot : Nat
  did : Nat
  part : Nat
  va : Nat
  /-- 0 read, 1 write, 2 fetch -/
  need : Nat
  born : Nat
  aged : Bool
  running : Bool
  waitsAts : Bool
  /-- the table's root, as the walk's domain was named when it was asked for (R421) -/
  root : Nat := 0
  /-- its outcome enters the core's cache too (R263, R395) -/
  fills : Bool := true
  /-- where a running walk stands: its level, the table's IPA; 0 a table read is to leave, 1 it is on its way, 2 the entry has been
  read (R257) -/
  level : Nat := 0
  base : Nat := 0
  hop : Nat := 0
  entry : Nat := 0
  /-- a walk of an engine, a record or the device that ended in a fault: its code and IPA, for a moment -/
  fault : Option (Nat × Nat) := none
  deriving DecidableEq, Repr

/-- A grid, queued or running (R399 to R407). The record is its 1,024 bits (R189). -/
structure Grid where
  id : Nat
  rcd : Nat
  did : Nat
  part : Nat
  fn : Option Nat
  /-- launching grid, core and workgroup key -/
  parent : Option (Nat × Nat × Nat)
  depth : Nat
  /-- entry taken: 0 general, else the reserve of that depth -/
  pool : Nat
  dep0 : Bool
  dep1 : Bool
  readyAt : Nat
  lastRead : Nat
  next : Nat
  withdrawn : List Nat
  exited : Nat
  placed : Nat
  ended : Bool
  skips : Nat
  nmOut : Nat
  /-- GSYNCs that its warps have completed -/
  gsync : Nat := 0
  /-- the done word's add, once it has set out (R400, R446) -/
  done : Option Nat := none
  deriving DecidableEq, Repr

/-- A partition's arbiter and stage-2 generation (R261, R401). -/
structure Part where
  g2 : Nat := 0
  /-- the grids that hold its reservation (R401) -/
  reserve : List Nat := []
  lastPlace : Nat := 0
  /-- the L2 ways it holds in every slice (R422) -/
  ways : List Nat := []
  running : Option Nat := none
  turnEnd : Nat := 0
  /-- the function whose turn has ended and whose workgroups are being saved (R430) -/
  after : Option Nat := none
  deriving DecidableEq, Repr

/-- A function (R411, R428, R429, R443). -/
structure Func where
  slots : FMap U64 := []
  pend : U64 := 0
  invva : Nat := 0
  busy : Bool := false
  lost : Bool := false
  done : Nat := 0
  retired : Nat := 0
  msix : Nat := 0
  saved : List Nat := []
  deriving DecidableEq, Repr

/-- A page being asked of the host by PAGEIN (R164, R268): page, state 0 waiting, 1 asked, 2 answered, and the answer; the
request's intents, 1 to read and 2 to write. -/
structure PageReq where
  page : Nat
  state : Nat
  answer : Nat
  intent : Nat := 3
  deriving DecidableEq, Repr

structure PageIn where
  id : Nat
  core : Nat
  did : Nat
  part : Option Nat
  root : Nat
  dslot : Nat
  fn : Nat
  addr : Nat
  /-- pages of the set that are resident already, and that are neither resident nor asked for -/
  resident : Nat
  refused : Nat
  pages : List PageReq
  /-- the completion word, once it is to be written -/
  word : Option Nat := none
  deriving DecidableEq, Repr

/-- A stage-1 invalidation under way (R264, R444): what it names, and who waits. -/
structure Inval where
  id : Nat
  /-- 0 range, 1 DID, 2 partition, 3 host pages -/
  kind : Nat
  did : Nat
  part : Nat
  page : Nat
  count : Nat
  fn : Option Nat
  req : Nat
  mig : Option Nat
  /-- flies and walks it waits for -/
  until_ : List Nat
  /-- kind 3: the host's tag of the request -/
  tag : Nat := 0
  deriving DecidableEq, Repr

/-- A SYSWR, TLBINV, CTXSAVE, DPREEMPT, CTXRST or MIGRATE whose d has not landed: who waits for which status. -/
structure Req where
  id : Nat
  core : Nat
  slot : Nat
  uid : Nat
  d : Opd
  idx : Nat
  no : Nat
  value : U64
  status : Nat
  deriving DecidableEq, Repr

/-- A stage-2 write under way (R261). -/
structure S2Write where
  id : Nat
  part : Nat
  req : Nat
  until_ : List Nat
  deriving DecidableEq, Repr

/-- A page migration (R269): phase 0 copy, 1 recopy, 2 hold, 3 commit, 4 release, while what it held is performed at the new
home in the queue's order. -/
structure Mig where
  id : Nat
  src : Nat
  did : Nat
  part : Nat
  vpage : Nat
  oldPa : Nat
  newPa : Nat
  entryPa : Nat
  expected : U64
  newOa : Nat
  phase : Nat
  nextLine : Nat
  dirty : List Nat
  pass : Nat
  todo : List Nat
  copied : Nat
  held : List Nat
  req : Nat
  committed : Bool
  deriving DecidableEq, Repr

/-- A Trowel command (R299 to R304, R393), with the domain that issued it. An item is one NMEXP element, or one NMRED term of
an output element. -/
structure Cmd where
  id : Nat
  core : Nat
  dslot : Nat
  did : Nat
  part : Option Nat
  root : Nat
  grid : Nat
  /-- 1 NMEXP, 2 NMRED -/
  kind : Nat
  rcd : Nat
  /-- the lowest output element that is not done, the elements, those done ahead -/
  next : Nat
  total : Nat
  ahead : List Nat
  /-- what is on its way to an output element: F32 patterns in the order they are added -/
  partials : FMap (List Nat)
  /-- terms of elements under way: list entry, and its unit and F32 pattern unless it is skipped -/
  terms : FMap (List (Nat × Option (Nat × Nat))) := []
  /-- the item under way: its list entry; 0 it goes to its unit, 1 the unit has given it a turn, 2 its operands have been read (R393) -/
  entry : Option Nat := none
  stage : Nat := 0
  /-- index entries and offsets as read -/
  idxs : FMap Nat
  offs : FMap Nat
  skipped : Nat
  err : Nat
  faultva : Nat
  /-- bytes 8-15 of the completion record are written; the write of the record that is on its way -/
  half : Bool
  put : Option Nat := none
  deriving DecidableEq, Repr

/-- A pre-emption or save under way (R332, R333, R378, R430). Kind 0 DPREEMPT, 1 CTXSAVE, 2 time slice, 3 CWAIT. -/
structure Preempt where
  id : Nat
  kind : Nat
  did : Nat
  /-- cores whose warps are yet to stop issuing, and when -/
  stops : List (Nat × Nat)
  /-- workgroups still to save: (core, workgroup key) -/
  todo : List (Nat × Nat)
  /-- the workgroup that CTXSAVE names, or CWAIT's -/
  named : Nat × Nat
  found : Bool
  saved : Nat
  full : Bool
  addr : Nat
  req : Nat
  part : Nat
  fn : Nat
  deriving DecidableEq, Repr

/-- A context record the device has placed (R418): 8 * core + slot of its area, its address and length; and what the
device keeps of the workgroup beside the record: its work, whether all its warps wait in GSYNC, and for which (R177); whether
it follows another member's (R385); per warp index its marked batches and the trap due at its next issue (R358, R379). -/
structure CtxRec where
  place : Nat
  addr : Nat
  len : Nat
  wg : WG
  gs : Bool
  gen : Nat
  inner : Bool := false
  warps : List (Nat × List Nat × Option (Option Nat × TrapRec)) := []
  deriving DecidableEq, Repr

/-- A restore under way (R335): the record, the core or the stack, who asked. -/
structure Restore where
  id : Nat
  addr : Nat
  core : Nat
  any : Bool
  stack : Nat
  req : Nat
  deriving DecidableEq, Repr

/-- A workgroup group that went to the context area in CWAIT (R179): its records and the children it awaits. -/
structure Parked where
  id : Nat
  grid : Nat
  did : Nat
  part : Nat
  /-- members in order: core, domain slot, record address -/
  members : List (Nat × Nat × Nat)
  kids : List Nat
  /-- the cycle in which its children had retired, if they have -/
  due : Option Nat
  deriving DecidableEq, Repr

/-- A token bucket (R425, R426): level in 1/1,024 byte at a cycle, latest request, borrowed in a window. -/
structure Bucket where
  level : Nat
  at_ : Nat
  lastReq : Option Nat
  window : Nat
  borrowed : Nat
  deriving DecidableEq, Repr

/-- A request at a slice port (R425, R434). -/
structure PortReq where
  fly : Nat
  did : Nat
  cost : Nat
  born : Nat
  slack : Nat
  aged : Bool
  deriving DecidableEq, Repr

/-- An Ethernet port's dealings with one peer (R450). -/
structure Link where
  port : Nat
  peer : Nat
  nextSeq : Nat
  /-- outstanding requests: sequence, packet, resends, the access that sent it -/
  out : List (Nat × Packet × Nat × Nat)
  down : Bool
  expect : Nat
  /-- performed inbound requests: sequence and answer -/
  record : List (Nat × Packet)
  /-- inbound requests on their way to their home: access and packet -/
  inq : List (Nat × Packet)
  deriving DecidableEq, Repr

/-- Something the outside world does at a cycle. -/
inductive Input where
  | act (i : Instr)
  /-- the sensors of a stack take new values -/
  | heat (stack : Nat) (reading : U64)
  /-- the host writes its own memory -/
  | hostStore (addr : Nat) (bytes : List Byte)
  /-- the host reads bytes of a function's BAR0, 512 the physical function's (R428, R442, R443, R448, R456) -/
  | hostRead (fn off size : Nat)
  deriving DecidableEq, Repr

/-- The machine. -/
structure State where
  clock : Nat
  /-- model: counter that feeds the free values (DESIGN CHOICE, log 2) -/
  free : Nat
  /-- model: identities (DESIGN CHOICE, log 1) -/
  nextId : Nat
  /-- model: what the outside does next (DESIGN CHOICE, log 1) -/
  inbox : List (Nat × Input)
  /-- model: the device's own pending steps in time order (DESIGN CHOICE, log 1): at 2c before cycle c's issue, at 2c + 1 after it -/
  agenda : List (Nat × Instr)
  /-- model: the fragment selected to issue: core, slot, fragment (DESIGN CHOICE, log 1) -/
  issuer : Option (Nat × Nat × Nat)
  /-- model: quarters that have had this cycle's opportunity (DESIGN CHOICE, log 1) -/
  turn : Nat
  mem : Memory
  hostMem : Memory
  sys : FMap U64
  fuseCore : List Nat
  fuseSlice : List Nat
  fuseChan : List Nat
  cores : FMap Core
  stackMap : FMap Stack
  grids : FMap Grid
  /-- retired grids that a CWAIT may still ask about: id and whether ended by system software -/
  retired : FMap Bool
  nextLaunch : Nat
  parts : FMap Part
  funcs : FMap Func
  winBase2 : U64
  winCtl : Bool
  peerLocal : U64
  routes : FMap U64
  inb : FMap U64
  mailCmd : U64
  mailStatus : U64
  mailBuf : List Byte
  staged : Option (List Byte)
  running : List Byte
  minVersion : Nat
  links : List Link
  outPackets : List (Nat × Packet)
  /-- peer writes that were discarded (R450): who covers them, and the virtual address -/
  dropped : List (List (Nat × Nat × Nat) × U64)
  loads : FMap LoadOp
  fly : FMap Fly
  walks : FMap Walk
  pageins : FMap PageIn
  invals : FMap Inval
  s2writes : FMap S2Write
  reqs : FMap Req
  migs : FMap Mig
  cmds : FMap Cmd
  preempts : FMap Preempt
  parkedWgs : FMap Parked
  /-- context records placed, oldest first (R418) -/
  ctxRecs : List CtxRec
  restores : FMap Restore
  buckets : FMap Bucket
  portQ : FMap (List PortReq)
  counters : FMap Nat
  nvCounters : FMap Nat
  /-- tags of the ATS invalidations whose completion has been sent (R267) -/
  atsDone : List Nat
  /-- what the host's reads returned: of BAR2 the physical address, of BAR0 2^60 + 65536 * function + offset, and the bytes
  (R443, R447) -/
  hostGot : List (Nat × List Byte)
  lastPlaceAny : Nat
  deriving DecidableEq, Repr

/-- The cycle 4 s after reset at 3.3 GHz (R2, R439). -/
def readyLimit : Nat := 13200000000

/-- The machine right after package reset (R439). Registers the spec gives no reset value for: logs 3 to 7. -/
def State.reset : State where
  clock := 0
  free := 0
  nextId := 1
  inbox := []
  agenda := [(0, .clocheSample), (2 * 3300000000, .counterWriteback), (2 * readyLimit, .readyTimeout)]
  issuer := none
  turn := 0
  mem := []
  hostMem := []
  sys := []
  fuseCore := []
  fuseSlice := []
  fuseChan := []
  cores := []
  stackMap := []
  grids := []
  retired := []
  nextLaunch := 1
  parts := []
  funcs := []
  winBase2 := 0
  winCtl := false
  peerLocal := 0
  routes := []
  inb := []
  mailCmd := 0
  mailStatus := 0
  mailBuf := []
  staged := none
  running := []
  minVersion := 0
  links := []
  outPackets := []
  dropped := []
  loads := []
  fly := []
  walks := []
  pageins := []
  invals := []
  s2writes := []
  reqs := []
  migs := []
  cmds := []
  preempts := []
  parkedWgs := []
  ctxRecs := []
  restores := []
  buckets := []
  portQ := []
  counters := []
  nvCounters := []
  atsDone := []
  hostGot := []
  lastPlaceAny := 0

end Sys2Proof.Machine
end

