-- ==== Sys2Proof/Machine/Ops.lean ====
section
/-! DEFINITION. The named operations over the state: places, registers, time, traps and the return from one. -/

namespace Sys2Proof.Machine

/-! Places. -/

def State.core (s : State) (c : Nat) : Core := FMap.getD s.cores c {}
def State.setCore (s : State) (c : Nat) (k : Core) : State := { s with cores := FMap.put s.cores c k }
def State.modCore (s : State) (c : Nat) (f : Core → Core) : State := s.setCore c (f (s.core c))
def State.stack (s : State) (k : Nat) : Stack := FMap.getD s.stackMap k {}
def State.modStack (s : State) (k : Nat) (f : Stack → Stack) : State :=
  { s with stackMap := FMap.put s.stackMap k (f (s.stack k)) }
def State.warp? (s : State) (c w : Nat) : Option Warp := FMap.get? (s.core c).warps w
def State.warp (s : State) (c w : Nat) : Warp := FMap.getD (s.core c).warps w {}
def State.setWarp (s : State) (c w : Nat) (k : Warp) : State :=
  s.modCore c fun co => { co with warps := FMap.put co.warps w k }
def State.modWarp (s : State) (c w : Nat) (f : Warp → Warp) : State := s.setWarp c w (f (s.warp c w))
def State.frag (s : State) (c w g : Nat) : Frag := FMap.getD (s.warp c w).frags g {}
def State.modFrag (s : State) (c w g : Nat) (f : Frag → Frag) : State :=
  s.modWarp c w fun k => { k with frags := FMap.put k.frags g (f (FMap.getD k.frags g {})) }
def State.wg (s : State) (c : Nat) (k : Nat) : WG := FMap.getD (s.core c).wgs k {}
def State.modWg (s : State) (c k : Nat) (f : WG → WG) : State :=
  s.modCore c fun co => { co with wgs := FMap.put co.wgs k (f (FMap.getD co.wgs k {})) }
def State.part (s : State) (p : Nat) : Part := FMap.getD s.parts p {}
def State.modPart (s : State) (p : Nat) (f : Part → Part) : State :=
  { s with parts := FMap.put s.parts p (f (s.part p)) }
def State.func (s : State) (n : Nat) : Func := FMap.getD s.funcs n {}
def State.modFunc (s : State) (n : Nat) (f : Func → Func) : State :=
  { s with funcs := FMap.put s.funcs n (f (s.func n)) }

/-- A step put into the device's pending order, after those of the same time (DESIGN CHOICE, log 1). -/
def agendaPut (t : Nat) (i : Instr) : List (Nat × Instr) → List (Nat × Instr)
  | [] => [(t, i)]
  | (t', i') :: r => if t < t' then (t, i) :: (t', i') :: r else (t', i') :: agendaPut t i r

/-- A step before the issue of a cycle; of the present cycle, at once. -/
def State.schedule (s : State) (t : Nat) (i : Instr) : State := { s with agenda := agendaPut (2 * t) i s.agenda }

/-- A step after the issue of a cycle: a row-port access comes after the SIMT pass of its cycle (R206). -/
def State.scheduleLate (s : State) (t : Nat) (i : Instr) : State :=
  { s with agenda := agendaPut (2 * t + 1) i s.agenda }

/-- A fresh identity (DESIGN CHOICE, log 1). -/
def State.fresh (s : State) : Nat × State := (s.nextId, { s with nextId := s.nextId + 1 })

/-- A free number below n (DESIGN CHOICE, log 2). -/
def State.freeBelow (s : State) (n : Nat) : Nat × State :=
  (Config.freeNat s.free % max n 1, { s with free := s.free + 1 })

/-- A free word (DESIGN CHOICE, log 2). -/
def State.freeWord (s : State) : U64 × State := (Config.freeWord s.free, { s with free := s.free + 1 })

/-- A saturating lifetime counter goes up (R453). -/
def State.count (s : State) (idx no n : Nat) : State :=
  let k := idx * 2 ^ 20 + no
  { s with counters := FMap.put s.counters k (min (FMap.getD s.counters k 0 + n) (2 ^ 64 - 1)) }

/-! Geography (R5, R7, R241 to R244, R252). -/

def stackOf (core : Nat) : Nat := core / 16
def quarterOf (slot : Nat) : Nat := slot / 16

/-- Pseudo-channels disabled on a stack (R244). -/
def State.lostChans (s : State) (k : Nat) : List Nat :=
  (s.fuseChan.filter fun i => decide (64 * k ≤ i ∧ i < 64 * k + 64)).map (· - 64 * k)

/-- Where a physical address lies: 0 DRAM, 1 root SRAM, 2 host window, 3 absent (R241, R244). -/
def State.region (s : State) (pa : Nat) : Nat :=
  if pa < 0xC000000000 then
    (if fld pa 30 6 < 64 - (s.lostChans (fld pa 36 4)).length then 0 else 3)
  else if 0x10000000000 ≤ pa ∧ pa < 0x10000000000 + 12 * 0x10000000 then 1
  else if 0x100000000000 ≤ pa ∧ pa < 0x200000000000 then 2
  else 3

/-- The home stack of a device address (R241). -/
def homeOf (pa : Nat) : Nat := if pa < 0xC000000000 then fld pa 36 4 else (pa - 0x10000000000) / 0x10000000

/-- The logical channel of a DRAM address within its stack (R242). -/
def chanOf (pa : Nat) : Nat := fld pa 8 6 ^^^ fld pa 14 6 ^^^ fld pa 20 6 ^^^ fld pa 26 6

/-- The channel address (R242). -/
def caddrOf (pa : Nat) : Nat := fld pa 14 22 * 256 + fld pa 0 8

/-- The physical channel that serves an address (R244, R438). -/
def State.physChan (s : State) (pa : Nat) : Nat :=
  let k := homeOf pa
  let dis := s.lostChans k
  let c := chanOf pa
  if dis.contains c then
    ((List.range 64).filter fun i => !dis.contains i).getD (fld (caddrOf pa) 24 6) c
  else c

/-- Package slices disabled on a stack. -/
def State.lostSlices (s : State) (k : Nat) : List Nat :=
  (s.fuseSlice.filter fun i => decide (32 * k ≤ i ∧ i < 32 * k + 32)).map (· - 32 * k)

/-- The substitute of a disabled slice: the lowest enabled one above it, wrapping, not yet a substitute (R438). -/
def substitute (dis : List Nat) : List Nat → List Nat → Nat → Nat
  | [], _, sl => sl
  | d :: r, used, sl =>
    let pick := ((List.range 32).map fun i => (d + 1 + i) % 32).find? fun x => !dis.contains x && !used.contains x
    let p := pick.getD d
    if d = sl then p else substitute dis r (p :: used) sl

/-- The home slice within its stack (R242, R244, R438). -/
def State.sliceOf (s : State) (pa : Nat) : Nat :=
  let sl := chanOf pa / 2
  let dis := s.lostSlices (homeOf pa)
  if dis.contains sl then substitute dis dis [] sl else sl

/-- The link from stack a upward is trained at both ends (R439). -/
def State.linkOk (s : State) (a : Nat) : Bool :=
  let b := (a + 1) % 12
  (s.stack a).ready.getLsbD 5 && (s.stack b).ready.getLsbD 4

/-- Every link on the way of n hops upward from a works. -/
def State.pathOk (s : State) (a n : Nat) : Bool := (List.range n).all fun i => s.linkOk ((a + i) % 12)

/-- The ring distance a request travels, or none while it has no way (R252, R439). -/
def State.ringDist (s : State) (a b : Nat) : Option Nat :=
  let up := (b + 12 - a) % 12
  let dn := (a + 12 - b) % 12
  if up = 0 then some 0
  else if up ≤ dn then
    (if s.pathOk a up then some up else if s.pathOk b dn then some dn else none)
  else
    (if s.pathOk b dn then some dn else if s.pathOk a up then some up else none)

/-- The shorter ring distance, whatever the links do. -/
def ringShort (a b : Nat) : Nat := min ((b + 12 - a) % 12) ((a + 12 - b) % 12)

/-- The ring distance of a way: the one open, or the shorter one while none is (R252, R439). -/
def State.ringWay (s : State) (a b : Nat) : Nat := (s.ringDist a b).getD (ringShort a b)

/-- Cycles added one way by a distance (R250, R460). -/
def hopCost (d : Nat) : Nat := if d = 0 then 0 else 20 + 12 * d

/-! System registers held as values (R328). -/

def sysKey (idx no : Nat) : Nat := idx * 2 ^ 20 + no
def State.sysReg (s : State) (idx no : Nat) : U64 := FMap.getD s.sys (sysKey idx no) 0
def State.setSys (s : State) (idx no : Nat) (v : U64) : State := { s with sys := FMap.put s.sys (sysKey idx no) v }

/-- DSCFG and DSLIM of slot 0 are fixed (R416). -/
def State.dscfg (s : State) (c slot : Nat) : Nat :=
  if slot = 0 then 2 ^ 63 else (s.sysReg 0x300 (8 * c + slot)).toNat
def State.dslim (s : State) (c slot : Nat) : Nat :=
  if slot = 0 then 1 + 4 * 2 ^ 8 else (s.sysReg 0x301 (8 * c + slot)).toNat
def State.dsDid (s : State) (c slot : Nat) : Nat := fld (s.dscfg c slot) 0 10
def State.dsPart (s : State) (c slot : Nat) : Nat := fld (s.dscfg c slot) 12 6
def State.dsClass (s : State) (c slot : Nat) : Nat := fld (s.dscfg c slot) 24 6
def State.dsValid (s : State) (c slot : Nat) : Bool := (s.dscfg c slot).testBit 63
def State.dsRoot (s : State) (c slot : Nat) : Nat := fld (s.sysReg 0x302 (8 * c + slot)).toNat 0 57
def State.dsSpill (s : State) (c slot : Nat) : Nat := fld (s.sysReg 0x303 (8 * c + slot)).toNat 0 57
def State.dsHnd (s : State) (c slot : Nat) : Nat := fld (s.sysReg 0x304 (8 * c + slot)).toNat 0 57
def State.dsCtx (s : State) (c slot : Nat) : Nat := fld (s.sysReg 0x305 (8 * c + slot)).toNat 0 57

/-- The partition is active (R409). -/
def State.partActive (s : State) (p : Nat) : Bool := (s.sysReg 0x274 p).getLsbD 63

/-- A quadrant of a partition's mask (R409). -/
def State.inPart (s : State) (p c : Nat) : Bool :=
  (s.sysReg (0x270 + c / 64) p).getLsbD (c % 64)

/-- The slot of the core that holds a DID, valid (R191, R324). -/
def State.slotOf (s : State) (c did : Nat) : Option Nat :=
  if did = 0 then some 0 else (List.range 8).find? fun k => k != 0 && s.dsValid c k && s.dsDid c k == did

/-! Memory: bytes at physical addresses; a write inside a page being migrated marks its line (R270). -/

def State.rd (s : State) (pa n : Nat) : List Byte := s.mem.read pa n
def State.rdN (s : State) (pa n : Nat) : Nat := ofBytes (s.rd pa n)

/-- Mark a line of a page that a migration has read (R269, R270). -/
def markMig (pa : Nat) (g : Mig) : Mig :=
  if g.phase ≤ 3 ∧ g.oldPa ≤ pa ∧ pa < g.oldPa + 65536 ∧ !g.dirty.contains ((pa - g.oldPa) / 128) then
    { g with dirty := ((pa - g.oldPa) / 128) :: g.dirty }
  else g

/-- Write bytes of device memory. -/
def State.wr (s : State) (pa : Nat) (b : List Byte) : State :=
  { s with mem := s.mem.write pa b,
           migs := if s.migs.isEmpty then s.migs else s.migs.map fun kv => (kv.1, markMig pa kv.2) }

def State.wrN (s : State) (pa n v : Nat) : State := s.wr pa (toBytes n v)

/-! Cloche and time (R337, R350). -/

def State.level (s : State) (k : Nat) : Nat := (s.stack k).level

/-- The array factor f of a level (R296). -/
def levelF (l : Nat) : Nat := if l ≤ 1 then 1 else if l = 2 then 2 else 4

/-- Whether a cycle is eligible at a level (R186, R350). -/
def eligible (l t : Nat) : Bool :=
  if l ≤ 1 then true else if l = 2 then t % 2 == 0 else if l = 3 then t % 4 == 0 else false

/-! Registers of a warp. -/

/-- The window slot V(16 + i) names, as a physical register; inside a handler V16-V31 is the reserve and V32 up the
interrupted window (R200, R369). -/
def Warp.physV (k : Warp) (n : Nat) : Reg :=
  if n < 16 then .v n
  else if k.handler.isSome then (if n < 32 then .rsv (n - 16) else .v (16 + k.b + (n - 32)))
  else .v (16 + k.b + (n - 16))

/-- A V register's lanes. A slot outside the allocation reads 0 (R369). -/
def Warp.getV (k : Warp) : Reg → Lanes
  | .v i => FMap.getD k.v i []
  | .rsv i => FMap.getD k.reserve i []
  | _ => []

def Warp.getS (k : Warp) (i : Nat) : U64 := FMap.getD k.s i 0

/-- P0 reads as all ones (R20). -/
def Warp.getP (k : Warp) (i : Nat) : U32 := if i = 0 then BitVec.allOnes 32 else FMap.getD k.p i 0

def Warp.getT (k : Warp) (i : Nat) : TReg := FMap.getD k.t i {}
def Warp.getX (k : Warp) (i : Nat) : XReg := FMap.getD k.x i {}
def Warp.getF (k : Warp) (i : Nat) : U32 := FMap.getD k.f i fReset

/-! Tiles, formats and scales as they land (R309 to R315). -/

/-- The range of a tile: first byte and the byte after the last (R309). -/
def TReg.lo (t : TReg) : Nat := t.base.toNat
def TReg.hi (t : TReg) : Nat := t.base.toNat + t.rows.toNat * t.pitch.toNat

/-- A generation goes up by one; a wrap unbinds what is bound to the tile (R313). -/
def Warp.bumpT (k : Warp) (i : Nat) : Warp :=
  let t := k.getT i
  let g := t.gen + 1
  let k := { k with t := FMap.put k.t i { t with gen := g } }
  if g = 0 then
    { k with x := k.x.map fun p =>
        if p.2.bnd && p.2.tix.toNat == i then (p.1, { p.2 with bnd := false, tag := 0 }) else p }
  else k

/-- A tile's generation and the binding fields of a scale register, as a control word holds them (R315). -/
def XReg.ctl (x : XReg) : Nat :=
  x.tix.toNat + b2n x.bnd * 2 ^ 4 + x.tag.toNat * 2 ^ 8 + b2n x.sfmt * 2 ^ 20 + b2n x.blk * 2 ^ 21

/-- The scale bytes in 256 words. -/
def XReg.words (x : XReg) : List U32 := (List.range 256).map fun i => BitVec.ofNat 32 (ofBytes (x.bytes.read (4 * i) 4))

/-- What lands in a scale register: bit 0 of the mask its bytes, bit 1 sfmt and blk, bit 2 tix, bnd and tag. -/
def XReg.land (x : XReg) (mask : U32) (ws : List U32) (ctl : Nat) : XReg :=
  let x := if mask.getLsbD 0 then { x with bytes := Memory.write [] 0 (ws.flatMap fun w => toBytes 4 w.toNat) } else x
  let x := if mask.getLsbD 1 then { x with sfmt := ctl.testBit 20, blk := ctl.testBit 21 } else x
  if mask.getLsbD 2 then
    { x with tix := BitVec.ofNat 4 ctl, bnd := ctl.testBit 4, tag := BitVec.ofNat 12 (ctl / 2 ^ 8) }
  else x

/-- A descriptor's fields from its two words, its generation apart (R309). -/
def TReg.ofWords (lo hi : Nat) (gen : BitVec 12) : TReg :=
  { base := BitVec.ofNat 22 lo, rows := BitVec.ofNat 13 (fld lo 24 13), cols := BitVec.ofNat 13 (fld lo 40 13),
    fmt := BitVec.ofNat 5 (fld lo 56 5), valid := lo.testBit 63, pitch := BitVec.ofNat 22 hi, gen }

/-- A descriptor's two words (R309). -/
def TReg.word0 (t : TReg) : Nat :=
  t.base.toNat + t.rows.toNat * 2 ^ 24 + t.cols.toNat * 2 ^ 40 + t.fmt.toNat * 2 ^ 56 + b2n t.valid * 2 ^ 63
def TReg.word1 (t : TReg) : Nat := t.pitch.toNat + t.gen.toNat * 2 ^ 32

/-- The valid tiles whose format is F n (R312). -/
def Warp.tilesOfF (k : Warp) (n : Nat) : List Nat :=
  (k.t.filter fun p => p.2.valid && p.2.fmt.toNat == 16 + n).map (·.1)

/-- NRM's writable bits (R158). -/
def nrmMask : U64 := 0x3FFFFFFFF

/-- Write a register as it lands, the lanes of a mask where it has lanes: P0 and slots outside the allocation take nothing (R31, R369); EXEC keeps only
the fragment's membership (R33). A write ends a register's error (R386). -/
def Warp.land (k : Warp) (r : Reg) (mask : U32) (lanes : Lanes) (uni : U64) : Warp :=
  let k := if k.bad.isEmpty then k else { k with bad := k.bad.filter (· != r) }
  match r with
  | .v i =>
    if i < 16 ∨ i < k.alloc then { k with v := FMap.put k.v i (Lanes.merge mask lanes (FMap.getD k.v i [])) } else k
  | .rsv i => { k with reserve := FMap.put k.reserve i (Lanes.merge mask lanes (FMap.getD k.reserve i [])) }
  | .s i => { k with s := FMap.put k.s i uni }
  | .p i =>
    if i = 0 then k
    else { k with p := FMap.put k.p i ((FMap.getD k.p i 0 &&& ~~~mask) ||| (uni.setWidth 32 &&& mask)) }
  | .nrm => { k with nrm := uni &&& nrmMask }
  | .exec g =>
    match FMap.get? k.frags g with
    | some f => { k with frags := FMap.put k.frags g { f with exec := uni.setWidth 32 &&& f.memb } }
    | none => k
  | .t i =>
    let hi := (Lanes.get lanes 0).toNat + 2 ^ 32 * (Lanes.get lanes 1).toNat
    Warp.bumpT { k with t := FMap.put k.t i (TReg.ofWords uni.toNat hi (k.getT i).gen) } i
  | .f i => (k.tilesOfF i).foldl Warp.bumpT { k with f := FMap.put k.f i (uni.setWidth 32) }
  | .x i => { k with x := FMap.put k.x i ((k.getX i).land mask lanes uni.toNat) }

/-- Send a fixed-latency result (R40); an earlier result of the register that would land no earlier is dropped for the
lanes both write (R43). -/
def Warp.send (k : Warp) (p : Pend) : Warp :=
  { k with pend := (k.pend.map fun q =>
      if q.reg = p.reg ∧ p.lands ≤ q.lands then { q with mask := q.mask &&& ~~~p.mask } else q) ++ [p] }

/-- The register is interlocked (R41). -/
def Warp.locked (k : Warp) (r : Reg) : Bool := k.locks.any fun l => l.reg == r

/-- The register is interlocked in one of some lanes (R41, R128). -/
def Warp.lockedIn (k : Warp) (r : Reg) (lanes : U32) : Bool := k.locks.any fun l => l.reg == r && l.lanes &&& lanes != 0

/-- Lock registers for an operation, in the lanes that it writes. -/
def Warp.lock (k : Warp) (owner : Nat) (rs : List Reg) (lanes : U32 := BitVec.allOnes 32) : Warp :=
  { k with locks := k.locks ++ rs.map fun r => ⟨r, owner, lanes⟩ }

/-- Free the registers an operation held. -/
def Warp.unlock (k : Warp) (owner : Nat) : Warp := { k with locks := k.locks.filter fun l => l.owner != owner }

/-! The register pool (R146, R191, R201). -/

/-- Registers that warps of a domain slot hold, trap reserves included. -/
def State.regsUsed (s : State) (c slot : Nat) : Nat :=
  (FMap.vals (s.core c).warps).foldl (fun a k => if k.aslot = slot then a + k.alloc + 16 else a) 0

/-- Registers the core's pool has free for a domain slot. -/
def State.regsFree (s : State) (c slot : Nat) : Nat :=
  let share := fld (s.dslim c slot) 8 9 * 8
  let all := (FMap.vals (s.core c).warps).foldl (fun a k => if k.aslot = 0 then a else a + k.alloc + 16) 0
  let pool := if slot = 0 then 32 else 2048 - 32 - all
  min (share - s.regsUsed c slot) pool

/-- An allocation grown by units of 8 to cover a stack slot, or none (R146). -/
def State.growTo (s : State) (c w slot : Nat) : Option Nat :=
  let k := s.warp c w
  if slot + 16 < k.alloc then some k.alloc
  else
    let need := ceilDiv (slot + 17 - k.alloc) 8 * 8
    if need ≤ s.regsFree c k.aslot ∧ k.alloc + need ≤ 1024 then some (k.alloc + need) else none

/-! Traps (R366 to R376). -/

def cIllop : Nat := 0x01
def cStallShort : Nat := 0x03
def cWinOver : Nat := 0x04
def cWinUnder : Nat := 0x05
def cMisalign : Nat := 0x07
def cTranslation : Nat := 0x09
def cNonresStore : Nat := 0x0A
def cRangeLock : Nat := 0x0B
def cPromiseMissed : Nat := 0x0C
def cStaleGraft : Nat := 0x0D
def cBarrierMismatch : Nat := 0x0E
def cGridNotCoop : Nat := 0x0F
def cDomain : Nat := 0x10
def cGate : Nat := 0x11
def cFuse : Nat := 0x12
def cBkpt : Nat := 0x15
def cMachineCheck : Nat := 0x16

/-- FAULTADDR of a GATE trap (R324). -/
def gateAddr (gate reason : Nat) : U64 := BitVec.ofNat 64 (gate + reason * 2 ^ 16)

/-- System causes park the warp; the others are user causes (R366). -/
def sysCause (c : Nat) : Bool :=
  c == cIllop || c == cDomain || c == cGate || c == cFuse || c == cBkpt || c == cMachineCheck

/-- Put a step into the agenda unless it is there. -/
def State.scheduleOnce (s : State) (t : Nat) (i : Instr) : State :=
  if s.agenda.contains (2 * t, i) then s else s.schedule t i

/-- What a trap records, and what a park record adds (R366, R373). -/
structure Trap where
  cause : Nat
  pc : U64
  addr : U64 := 0
  lanes : U32 := 0
  done : U32 := 0
  pa : U64 := 0
  detail : U64 := 0
  norst : Bool := false
  deriving DecidableEq, Repr

/-- The trap of a record, and the record of a trap. -/
def TrapRec.toTrap (r : TrapRec) : Trap :=
  { cause := r.cause, pc := r.pc, addr := r.addr, lanes := r.lanes, done := r.done, pa := r.pa, detail := r.detail }
def Trap.rec_ (t : Trap) : TrapRec :=
  { cause := t.cause, pc := t.pc, addr := t.addr, lanes := t.lanes, done := t.done, pa := t.pa, detail := t.detail }

/-- A warp's running region in its context area (R418). -/
def State.runRegion (s : State) (c w : Nat) : Nat := s.dsCtx c (s.warp c w).aslot + 262144 * w

/-- The trap frame's place (R418). -/
def State.trapFrame (s : State) (c w : Nat) : Nat := s.runRegion c w + 131072

/-- Bytes of the uniform registers of a frame: P1-P7, then S0-S63, with the offsets of R383. -/
def Warp.bytesP (k : Warp) : List Byte := (List.range 7).flatMap fun i => toBytes 4 (k.getP (i + 1)).toNat
def Warp.bytesS (k : Warp) : List Byte := (List.range 64).flatMap fun i => toBytes 8 (k.getS i).toNat

/-- Write a trap frame for a fragment (R368, R383). -/
def State.saveFrame (s : State) (c w g : Nat) (pc : U64) : State :=
  let k := s.warp c w
  let f := s.frag c w g
  let a := s.trapFrame c w
  let s := s.wr a (toBytes 8 pc.toNat ++ toBytes 4 f.exec.toNat ++ toBytes 4 f.memb.toNat ++ toBytes 8 k.nrm.toNat
    ++ toBytes 8 (b2n k.chk))
  (s.wr (a + 32) (k.bytesP ++ toBytes 4 0)).wr (a + 64) (k.bytesS ++ List.replicate 64 0)

/-- A result of the interrupted code that lands while a handler runs reaches the trap frame too, from which ERET restores
(R368, R372; DEDUCED, log 48). -/
def State.toFrame (s : State) (c w owner : Nat) (r : Reg) (mask : U32) (uni : U64) : State :=
  let k := s.warp c w
  if k.handler.isNone ∨ k.trapId ≤ owner then s
  else
    let a := s.trapFrame c w
    match r with
    | .s i => s.wrN (a + 64 + 8 * i) 8 uni.toNat
    | .p i =>
      if i = 0 then s
      else
        let old := BitVec.ofNat 32 (s.rdN (a + 28 + 4 * i) 4)
        s.wrN (a + 28 + 4 * i) 4 ((old &&& ~~~mask) ||| (uni.setWidth 32 &&& mask)).toNat
    | .nrm => s.wrN (a + 16) 8 (uni &&& nrmMask).toNat
    | .exec g =>
      if k.handler = some g then s.wrN (a + 8) 4 (uni.setWidth 32 &&& BitVec.ofNat 32 (s.rdN (a + 12) 4)).toNat else s
    | _ => s

/-- A result lands in its register (R40). -/
def State.landReg (s : State) (c w owner : Nat) (r : Reg) (mask : U32) (lanes : Lanes) (uni : U64) : State :=
  (s.modWarp c w fun k => k.land r mask lanes uni).toFrame c w owner r mask uni

/-- NRM marks that a load of the interrupted code brings while a handler runs (R158, DEDUCED, log 48). -/
def State.nrmToFrame (s : State) (c w owner : Nat) (marks : U64) : State :=
  if marks = 0 then s
  else s.toFrame c w owner .nrm 0 (BitVec.ofNat 64 (s.rdN (s.trapFrame c w + 16) 8) ||| marks)

/-- The owner of what a fragment's own wait brings: the handler's, or the interrupted code's. -/
def State.waiterOf (s : State) (c w g : Nat) : Nat :=
  if (s.warp c w).handler = some g then (s.warp c w).trapId else 0

/-- Ask for a fragment's next word (R186, R253): a word at hand comes in the same cycle. -/
def State.startFetch (s : State) (c w g : Nat) : State :=
  (s.modFrag c w g fun f => { f with word := none, fetching := true }).schedule s.clock (.instructionFetch c w g)

/-- The handler's entry proper: frame saved, the other fragments held, a fresh trap reserve, the entry's PC, 40 cycles
(R368). -/
def State.enterFrame (s : State) (c w g : Nat) (entry : Nat) (pc : U64) : State :=
  let s := s.saveFrame c w g pc
  let s := s.modWarp c w fun k =>
    { k with reserve := [], handler := some g, trapId := s.nextId,
             frags := k.frags.map fun kv => (kv.1, if kv.1 = g then kv.2 else { kv.2 with heldTrap := true }) }
  let s := s.modFrag c w g fun f =>
    { f with pc := BitVec.ofNat 64 entry, st := .ready, stall := s.clock + 40, walked := [], token := none }
  s.startFetch c w g

/-- The words of a park record (R373). -/
def State.parkWords (s : State) (c w : Nat) (t : Trap) (esc : Bool) (state : Nat) : List U64 :=
  let k := s.warp c w
  let w0 : Nat := t.cause + w * 2 ^ 8 + k.dslot * 2 ^ 16 + b2n esc * 2 ^ 20 + b2n k.handler.isSome * 2 ^ 21
    + k.gates * 2 ^ 22 + b2n (t.norst || k.norst) * 2 ^ 25 + state * 2 ^ 28 + s.dsDid c k.dslot * 2 ^ 32
  [BitVec.ofNat 64 w0, t.pc, t.addr, BitVec.ofNat 64 (t.lanes.toNat + t.done.toNat * 2 ^ 32), t.pa, 0, t.detail, 0]

/-- Put a park record where it belongs and ask for the system handler (R373, R374, R419). -/
def State.postRecord (s : State) (c rs : Nat) (ws : List U64) : State :=
  let base := s.dsCtx c 0
  if base = 0 then
    s.modCore c fun k => { k with parkHeld := k.parkHeld.filter (fun r => r.1 != rs) ++ [(rs, ws)] }
  else
    let s := s.wr (base + 64 * rs) (ws.flatMap fun x => toBytes 8 x.toNat)
    let s := s.modCore c fun k => { k with pendingRecs := k.pendingRecs.filter (· != rs) ++ [rs] }
    s.schedule s.clock .systemHandlerEntry

/-- The system warp stops; the core's fault state says why (R376, R437). -/
def State.stopSystemWarp (s : State) (c w : Nat) (cause : Nat) : State :=
  let s := s.modWarp c w fun k => { k with stopped := true, parked := true }
  s.modStack (stackOf c) fun k =>
    { k with sysfault := k.sysfault ||| 2 ^ (c % 16), faultCause := cause, faultCore := c % 16 }

/-- A system or escalated cause parks the whole warp and writes a park record; a trap of the system warp that it cannot
take stops it (R370, R373, R376, R419). -/
def State.parkWarp (s : State) (c w : Nat) (t : Trap) (esc : Bool) : State :=
  if w = 63 then s.stopSystemWarp c w t.cause
  else
    let s := s.modWarp c w fun k => { k with parked := true, esc := esc, norst := k.norst || t.norst }
    s.postRecord c w (s.parkWords c w t esc 1)

/-- The line of an address. -/
def lineOf (pa : Nat) : Nat := pa / 128 * 128

/-- The line is in its stack's lost-line table (R387). -/
def State.isLost (s : State) (pa : Nat) : Bool :=
  decide (s.region pa ≤ 1)
    && ((s.stack (homeOf pa)).cut || (s.stack (homeOf pa)).lost.any fun l => l.1 == lineOf pa)

/-- The first lost line of n bytes that the device itself reads or writes for a warp (R387). -/
def State.lostIn (s : State) (a n : Nat) : Option Nat :=
  ((List.range (ceilDiv (a % 128 + n) 128)).map fun i => lineOf a + 128 * i).find? s.isLost

/-- Stands for the physical address of a machine check that is about no memory line: an error in core c's own units. -/
def spPa (c : Nat) : Nat := 2 ^ 63 + c

/-- Source and unit of a line of memory that cannot be had: lost, by its home's table, or without a way to it (R387, R388,
R435, R440). -/
def State.lostDetail (s : State) (pa : Nat) : Nat :=
  let k := homeOf pa
  let src := (((s.stack k).lost.find? fun l => l.1 == pa / 128 * 128).map (·.2.2.1)).getD 0xF
  if 1 < s.region pa then src else src + (if src = 5 ∨ src = 0xF then 32 * k + s.sliceOf pa else if src = 7 then 128 * k + fld pa 7 7 else 64 * k + s.physChan pa) * 2 ^ 4

/-- The detail word of a machine check, its syndrome free, and the address its park record holds (R373, R388): a lost line
of memory by its home's table, a unit of a core, or as the trap says. -/
def State.checkDetail (s : State) (t : Trap) : Trap × State :=
  let pa := t.pa.toNat
  let own := decide (2 ^ 63 ≤ pa)
  let d := if t.detail ≠ 0 then t.detail.toNat else if own then 4 + fld pa 0 8 * 2 ^ 4 else s.lostDetail pa
  let syn := s.freeBelow (2 ^ 16)
  ({ t with pa := if own then 0 else t.pa, detail := BitVec.ofNat 64 (d + syn.1 * 2 ^ 16) }, syn.2)

/-- Enter a handler in a fragment (R368). A trap frame in a lost line cannot be written: MACHINE_CHECK in the warp instead
(R387; DEDUCED, log 39). -/
def State.enterHandler (s : State) (c w g : Nat) (entry : Nat) (pc : U64) : State :=
  match s.lostIn (s.trapFrame c w) 640 with
  | none => s.enterFrame c w g entry pc
  | some l =>
    let r := s.checkDetail { cause := cMachineCheck, pc, pa := BitVec.ofNat 64 l }
    let s := r.2.modWarp c w fun k => { k with trap := r.1.rec_, trapFrag := g }
    (s.modFrag c w g fun f => { f with pc }).parkWarp c w r.1 false

/-- Deliver a trap in fragment g of a warp (R366 to R376): record it, then deliver it to the user handler, or escalate it, or
deliver it to the system domain. -/
def State.deliverTrap (s : State) (c w g : Nat) (t : Trap) : State :=
  let s := s.modWarp c w fun k =>
    { k with trap := t.rec_, trapFrag := g }
  let s := s.modFrag c w g fun f => { f with walked := [], replay := none, token := none, stored := 0 }
  let k := s.warp c w
  let entry := s.dsHnd c k.dslot
  let stay (esc : Bool) : State := (s.modFrag c w g fun f => { f with pc := t.pc }).parkWarp c w t esc
  if sysCause t.cause then
    stay (k.handler.isSome && t.cause == cIllop && (t.addr == 0x14 || t.addr == 0x16))
  else if k.handler.isSome ∨ entry = 0 then stay true
  else if w = 63 ∧ s.dsCtx c k.aslot = 0 then s.stopSystemWarp c w t.cause
  else s.enterHandler c w g entry t.pc

/-- Take a trap in fragment g of a warp (R366 to R376). -/
def State.takeTrap (s : State) (c w g : Nat) (t : Trap) : State :=
  if t.cause = cMachineCheck then (s.checkDetail t).2.deliverTrap c w g (s.checkDetail t).1 else s.deliverTrap c w g t

/-- The registers that ERET restores (R372). -/
def Reg.restored : Reg → Bool
  | .s _ | .p _ | .nrm | .exec _ => true
  | _ => false

/-- Restore the trapped fragment and its uniform registers from the trap frame, and free the held fragments (R372). The handler's own results that have
not landed in them are the earlier writes and are dropped (R43). -/
def State.leaveHandler (s : State) (c w g : Nat) (pc : U64) (delay : Nat) : State :=
  let a := s.trapFrame c w
  let s := s.modWarp c w fun k =>
    { k with
      nrm := BitVec.ofNat 64 (s.rdN (a + 16) 8) &&& nrmMask
      chk := (s.rdN (a + 24) 1) % 2 == 1
      p := (List.range 7).foldl (fun m i => FMap.put m (i + 1) (BitVec.ofNat 32 (s.rdN (a + 32 + 4 * i) 4))) k.p
      s := (List.range 64).foldl (fun m i => FMap.put m i (BitVec.ofNat 64 (s.rdN (a + 64 + 8 * i) 8))) k.s
      handler := none
      serving := none
      pend := k.pend.filter fun p => !(decide (k.trapId ≤ p.id) && p.reg.restored)
      frags := k.frags.map fun kv => (kv.1, { kv.2 with heldTrap := false }) }
  let s := s.modFrag c w g fun f =>
    { f with pc := pc, exec := BitVec.ofNat 32 (s.rdN (a + 8) 4), memb := BitVec.ofNat 32 (s.rdN (a + 12) 4),
             stall := s.clock + 40 + delay }
  s.startFetch c w g

end Sys2Proof.Machine
end

