-- ==== Sys2Proof/Machine/Addr.lean ====
section
/-! DEFINITION. Address translation: stage 1, stage 2, the translation caches (R254 to R266). -/

namespace Sys2Proof.Machine

/-- The domain slot in whose name an access is made (R416, R462): slot 0 has no partition. -/
structure Dom where
  dslot : Nat
  did : Nat
  part : Option Nat
  root : Nat
  g2 : Nat
  deriving DecidableEq, Repr

def State.dom (s : State) (c dslot : Nat) : Dom :=
  { dslot, did := s.dsDid c dslot, part := if dslot = 0 then none else some (s.dsPart c dslot),
    root := s.dsRoot c dslot, g2 := if dslot = 0 then 0 else (s.part (s.dsPart c dslot)).g2 }

/-- A domain as it was named by a slot earlier: its tables, with the present stage 2 of its partition (R395, R421). -/
def State.keptDom (s : State) (dslot did root : Nat) (part : Option Nat) : Dom :=
  { dslot, did, part, root, g2 := match part with
      | some p => (s.part p).g2
      | none => 0 }

/-- The tag of a partition in a translation cache; 64 for none. -/
def Dom.ptag (d : Dom) : Nat := d.part.getD 64

/-- What stage 2 gives for an IPA (R259, R260). -/
structure S2 where
  pa : Nat
  rd : Bool
  wr : Bool
  ex : Bool
  shrd : Bool
  /-- the IPA range about it in which no entry of a lower number applies -/
  lo : Nat
  hi : Nat
  deriving DecidableEq, Repr

/-- Words of a stage-2 entry. -/
def State.s2word (s : State) (p e w : Nat) : Nat := (s.sysReg (0x200 + 3 * e + w) p).toNat

/-- Stage 2 of an IPA: the lowest-numbered valid entry that covers it (R260). DID 0 has none (R416). -/
def State.stage2 (s : State) (d : Dom) (ipa : Nat) : Option S2 :=
  match d.part with
  | none => if s.region ipa = 3 then none else some ⟨ipa, true, true, true, false, 0, 2 ^ 57⟩
  | some p =>
    let page := ipa / 65536
    match (List.range 32).find? (fun e =>
        (s.s2word p e 0).testBit 0 && decide (fld (s.s2word p e 0) 16 41 ≤ page)
          && decide (page ≤ fld (s.s2word p e 1) 16 41)) with
    | none => none
    | some e =>
      let w0 := s.s2word p e 0
      let base := fld w0 16 41
      let before := ((List.range e).filter fun i => (s.s2word p i 0).testBit 0).map fun i =>
        (fld (s.s2word p i 0) 16 41, fld (s.s2word p i 1) 16 41 + 1)
      let lo := before.foldl (fun m r => if r.1 < r.2 ∧ r.2 ≤ page then max m r.2 else m) base
      let hi := before.foldl (fun m r => if r.1 < r.2 ∧ page < r.1 then min m r.1 else m) (fld (s.s2word p e 1) 16 41 + 1)
      some { pa := fld (s.s2word p e 2) 16 32 * 65536 + (ipa - base * 65536)
             rd := w0.testBit 1, wr := w0.testBit 2, ex := w0.testBit 3, shrd := w0.testBit 4
             lo := lo * 65536, hi := hi * 65536 }

/-- Bytes at a physical address of the device or of the host window (R241). -/
def State.physRead (s : State) (pa n : Nat) : Nat :=
  if s.region pa = 2 then ofBytes (s.hostMem.read (pa - 0x100000000000) n) else s.rdN pa n

/-! Stage-1 entries (R255). -/

/-- The index of a level and what an entry of it covers (R254). -/
def vaIndex (level va : Nat) : Nat :=
  if level = 0 then fld va 39 18 else if level = 1 then fld va 30 9 else if level = 2 then fld va 21 9 else fld va 16 5
def levelSize (level : Nat) : Nat :=
  if level = 0 then 2 ^ 39 else if level = 1 then 2 ^ 30 else if level = 2 then 2 ^ 21 else 2 ^ 16

/-- What an entry says: invalid, a table, a leaf, not present. -/
inductive Pte where
  | invalid
  | table (ipa : Nat)
  | leaf (ipa : Nat)
  | absent
  deriving DecidableEq, Repr

def pteOf (level e : Nat) : Pte :=
  let kind := fld e 0 2
  let oa := fld e 12 45 * 4096
  if e.testBit 63 then .invalid
  else if kind = 0 then .invalid
  else if kind = 3 then (if level = 0 then .invalid else .absent)
  else if fld e 8 4 ≠ 0 then .invalid
  else if kind = 1 ∧ level < 3 then .table oa
  else if kind = 2 ∧ (level = 0 ∨ level = 3) then .invalid
  else if fld e 6 2 = 3 ∨ oa % levelSize level ≠ 0 then .invalid
  else .leaf oa

/-- The outcome of a walk (R258): need 0 read, 1 write, 2 fetch. -/
inductive WalkOut where
  | ok (t : Tlb)
  | zeros (t : Tlb)
  | translation
  | domain (ipa : Nat)
  | lost (pa : Nat)
  deriving DecidableEq, Repr

/-- The size of a combined translation: the largest of 1 GiB, 2 MiB and 64 KiB inside the leaf and the stage-2 range
(R263). -/
def combinedSize (leafSize lo hi ipa : Nat) : Nat :=
  let fits (z : Nat) : Bool := decide (z ≤ leafSize) && decide (lo ≤ ipa / z * z) && decide (ipa / z * z + z ≤ hi)
  if fits (2 ^ 30) then 2 ^ 30 else if fits (2 ^ 21) then 2 ^ 21 else 2 ^ 16

/-- A blank cache entry of a domain. -/
def Dom.entry (d : Dom) (kind va size level pa : Nat) : Tlb :=
  { kind, part := d.ptag, did := d.did, g2 := d.g2, va, size, level, pa, w := false, x := false, dirty := false,
    mt := 0, shrd := false, rd := false }

/-! The caches (R263). -/

/-- The entry of its like in a cache goes. -/
def tlbLess (l : List Tlb) (t : Tlb) : List Tlb :=
  l.filter fun u => !(u.kind == t.kind && u.part == t.part && u.did == t.did && u.level == t.level
    && u.va == t.va && u.size == t.size)

/-- The set of an entry among the 1,024 of a stack's cache: by its page or block (DESIGN CHOICE, log 52). -/
def Tlb.set (t : Tlb) : Nat := (if t.kind = 4 then t.level else t.va / max 1 t.size) % 1024

/-- The first n entries of a set, and all of the others. -/
def keepWays (i : Nat) : Nat → List Tlb → List Tlb
  | _, [] => []
  | n, t :: r =>
    if t.set ≠ i then t :: keepWays i n r
    else match n with
      | 0 => keepWays i 0 r
      | n + 1 => t :: keepWays i n r

/-- A core's cache holds 64 entries, a stack's 16 in each of 1,024 sets; the latest filled stand first (R263). -/
def State.coreTlb (s : State) (c : Nat) (t : Tlb) : State :=
  s.modCore c fun k => { k with tlb := (t :: tlbLess k.tlb t).take 64 }
def State.stackTlb (s : State) (k : Nat) (t : Tlb) : State :=
  s.modStack k fun st => { st with tlb := t :: keepWays t.set 15 (tlbLess st.tlb t) }

/-- A combined or not-present entry that answers a need. -/
def tlbFind (l : List Tlb) (d : Dom) (va need : Nat) : Option Tlb :=
  l.find? fun t => t.part == d.ptag && t.did == d.did && decide (t.va ≤ va) && decide (va < t.va + t.size)
    && t.g2 == d.g2 && ((t.kind == 3) || (t.kind == 1 && (if need = 0 then t.rd else if need = 1 then t.w else t.x)))

/-- The route table's entry that takes a host-window address to a peer (R448); the table is kept by register: 2e + word. -/
def State.routeOf (s : State) (pa : Nat) : Option Nat :=
  if s.region pa = 2 then
    let e := (pa - 0x100000000000) / 2 ^ 40
    if (FMap.getD s.routes (2 * e) 0).getLsbD 0 then some e else none
  else none

/-- An address in the host window that PCIe serves: it takes ATS (R266, R448). -/
def State.viaHost (s : State) (pa : Nat) : Bool := s.region pa == 2 && (s.routeOf pa).isNone

/-- The function that a domain's requests to the host name: its lowest-numbered enabled one; the PF for a domain with none (R268,
R441). -/
def State.fnOf (s : State) (did : Nat) : Nat :=
  ((List.range 512).find? fun f =>
    let v := (s.sysReg 0x400 f).toNat
    did != 0 && v.testBit 63 && fld v 0 10 == did).getD 512

/-- The host page's ATS answer to a function on a stack, if cached: reads and writes allowed (R266, R441). -/
def State.atsAnswer (s : State) (k fn pa : Nat) : Option (Bool × Bool) :=
  ((s.stack k).tlb.find? fun t => t.kind == 4 && t.did == fn && t.pa == (pa - 0x100000000000) / 65536).map fun t =>
    (t.rd, t.w)

/-- The translation of one address: the physical address with its cache entry and added cycles, zeros of a
not-present-managed page, a fault with its IPA, or a walk to be made. -/
inductive Tr where
  | ok (pa : Nat) (t : Tlb) (extra : Nat)
  | zeros (extra : Nat)
  | fault (cause : Nat) (ipa : Nat)
  | miss
  deriving DecidableEq, Repr

/-- Bits [63:57] are copies of bit 56 (R153). -/
def canonical (va : Nat) : Bool := fld va 57 7 == (if va.testBit 56 then 127 else 0)

/-- A cached entry's meaning for a need, host pages with their ATS answer (R266). -/
def State.trEntry (s : State) (k va need extra : Nat) (t : Tlb) : Tr :=
  if t.kind = 3 then .zeros extra
  else
    let pa := t.pa + (va - t.va)
    if s.viaHost pa then
      match s.atsAnswer k (s.fnOf t.did) pa with
      | none => .miss
      | some (rd, wr) => if (if need = 1 then wr else rd) then .ok pa t extra else .fault cTranslation 0
    else .ok pa t extra

/-- A translation by a stack's own cache alone (R263, R395). -/
def State.translateStack (s : State) (k : Nat) (d : Dom) (va need : Nat) : Tr :=
  if !canonical va then .fault cTranslation 0
  else
    match tlbFind (s.stack k).tlb d (va % 2 ^ 57) need with
    | some t => s.trEntry k (va % 2 ^ 57) need 24 t
    | none => .miss

/-- Translate an address for a core; faults found by walks made for this instruction count (R258). -/
def State.translate (s : State) (c : Nat) (d : Dom) (walked : List (Nat × Nat × Nat × Nat)) (va need : Nat) : Tr :=
  if !canonical va then .fault cTranslation 0
  else
    let v := va % 2 ^ 57
    match walked.find? fun r => r.1 == v / 65536 && r.2.1 == need with
    | some (_, _, code, ipa) => .fault code ipa
    | none =>
      match tlbFind (s.core c).tlb d v need with
      | some t => s.trEntry (stackOf c) v need 0 t
      | none =>
        match tlbFind (s.stack (stackOf c)).tlb d v need with
        | some t => s.trEntry (stackOf c) v need 24 t
        | none => .miss

/-- A hit of the stack's cache fills the core's (R263). -/
def State.refillCore (s : State) (c : Nat) (d : Dom) (va need : Nat) : State :=
  let v := va % 2 ^ 57
  match tlbFind (s.core c).tlb d v need with
  | some _ => s
  | none =>
    match tlbFind (s.stack (stackOf c)).tlb d v need with
    | some t => s.coreTlb c t
    | none => s

/-- The rights the host's address translation grants a page: its own affair (DESIGN CHOICE, log 17). -/
def State.hostRights (s : State) : (Bool × Bool) × State :=
  ((Config.freeNat s.free % 2 == 1, Config.freeNat s.free / 2 % 2 == 1), { s with free := s.free + 1 })

/-- A cached answer of the host to a function for a page (R266, R441). -/
def hostEntry (fn page : Nat) (rd wr : Bool) : Tlb :=
  { kind := 4, part := 0, did := fn, g2 := 0, va := 0, size := 65536, level := page, pa := page, w := wr, x := false,
    dirty := false, mt := 0, shrd := false, rd := rd }

end Sys2Proof.Machine
end

