-- ==== Sys2Proof/Machine/Routes.lean ====
section
/-! DEFINITION. The base die's network: routers, links, paths, what a set of links out of use cuts off (R432, R433, R435). -/

namespace Sys2Proof.Machine

/-- The router of a position. -/
def routerAt (x y : Nat) : Nat := 8 * y + x

/-- A local core's router (R432). -/
def coreRouter (c : Nat) : Nat :=
  routerAt (1 + 4 * (c / 4 % 2) + c % 2) (1 + 2 * (c / 8) + c % 4 / 2)

/-- The routers of the L2 slices in their order: every position without a core. -/
def sliceRouters : List Nat := (List.range 48).filter fun r => !((List.range 16).any fun c => coreRouter c == r)

def sliceRouter (sl : Nat) : Nat := sliceRouters.getD sl 0

/-- The Trellis ports toward the stack below and the stack above; the host and Ethernet ports. -/
def portDown : Nat := routerAt 0 3
def portUp : Nat := routerAt 7 3
def portExt : Nat := routerAt 3 0

/-- The two routers a link joins. -/
def linkEnds (i : Nat) : Nat × Nat :=
  if i < 48 then (i, routerAt ((i + 1) % 8) (i / 8)) else (i - 48, (i - 48 + 8) % 48)

/-- One step outward from a set of routers over the links in use. -/
def reachStep (out : List Nat) (l : List Nat) : List Nat :=
  (List.range 96).foldl (fun l i =>
    let e := linkEnds i
    if out.contains i then l
    else if l.contains e.1 && !l.contains e.2 then e.2 :: l
    else if l.contains e.2 && !l.contains e.1 then e.1 :: l else l) l

/-- The routers that a router reaches. -/
def reachFrom (out : List Nat) (r : Nat) : List Nat := (List.range 48).foldl (fun l _ => reachStep out l) [r]

/-- Every router reaches every other. -/
def netWhole (out : List Nat) : Bool := decide ((reachFrom out 0).length = 48)

/-- The links of a packet's way along a row, then along a column, in a network with every link in use (R433). -/
def pathLinks (a b : Nat) : List Nat :=
  let (ax, ay, bx, by_) := (a % 8, a / 8, b % 8, b / 8)
  let dx := (bx + 8 - ax) % 8
  let dy := (by_ + 6 - ay) % 6
  let row := if dx ≤ 4 then (List.range dx).map fun i => routerAt ((ax + i) % 8) ay
    else (List.range (8 - dx)).map fun i => routerAt ((ax + 7 - i) % 8) ay
  let col := if dy ≤ 3 then (List.range dy).map fun i => 48 + routerAt bx ((ay + i) % 6)
    else (List.range (6 - dy)).map fun i => 48 + routerAt bx ((ay + 5 - i) % 6)
  row ++ col

/-- The stack of an Ethernet port (R5). -/
def portStack (port : Nat) : Nat := [1, 2, 3, 4, 7, 8, 9, 10].getD port 0

/-- The stack to which a request travels: its home's, or in the host window that of the port it leaves by (R5, R241, R448). -/
def State.exitStack (s : State) (pa : Nat) : Nat :=
  if s.region pa = 2 then
    (match s.routeOf pa with
      | some e => portStack (fld (FMap.getD s.routes (2 * e) 0).toNat 2 3)
      | none => 0)
  else homeOf pa

/-- The routers at which a request to an address enters and leaves a stack's network: a core's enters at its router, one of the
host or a peer at its port (R432). -/
def State.ends (s : State) (k core pa : Nat) (ext : Bool := false) : Nat × Nat :=
  let a := stackOf core
  let h := s.exitStack pa
  let up := decide ((h + 12 - a) % 12 ≤ 6)
  (if k = a then (if ext then portExt else coreRouter (core % 16)) else if up then portDown else portUp,
    if k = h then (if s.region pa = 2 then portExt else sliceRouter (s.sliceOf pa)) else if up then portUp else portDown)

/-- A request has a way through the networks of its core's stack and of its home or its port (R432, R435). -/
def State.routable (s : State) (core pa : Nat) (ext : Bool := false) : Bool :=
  [stackOf core, s.exitStack pa].all fun k =>
    (s.stack k).netState != 3 ||
      (let e := s.ends k core pa ext
       let l := reachFrom (s.stack k).linkOut e.1
       l.contains e.2 || (e.2 == portExt && l.contains (routerAt 4 0)))

/-- A stack's network takes in packets again from this cycle on (R435). -/
def State.netOpen (s : State) (k : Nat) : Nat := max s.clock (s.stack k).pausedUntil

/-- The cycle in which a request of a stack to an address may be tried: both networks take packets in, and the ring has a way (R252,
R435, R439). -/
def State.wayFrom (s : State) (k pa : Nat) : Nat :=
  if (s.ringDist k (s.exitStack pa)).isNone then s.clock + 1
  else max (s.netOpen k) (s.netOpen (s.exitStack pa))

/-! When a home can be read (R249, R251, R269, R437, R439). -/

/-- The cycle in which a stack may have left H4: the next sample. -/
def State.nextSample (s : State) : Nat := (s.clock / 4096 + 1) * 4096

/-- The DRAM or root SRAM behind an address has reported ready (R437, R439). -/
def State.homeReady (s : State) (pa : Nat) : Bool :=
  if s.region pa = 0 then (s.stack (homeOf pa)).ready.getLsbD 1
  else if s.region pa = 1 then (s.stack (homeOf pa)).ready.getLsbD 2
  else true

/-- The migration that holds new accesses to the page of an address: the old page's, and from the commit to the release those that
already find the new one, which come after what the old home has queued (R269, R270). -/
def State.holder (s : State) (pa : Nat) : Option Nat :=
  (s.migs.find? fun m => (m.2.phase == 2 || m.2.phase == 3) && m.2.oldPa / 65536 == pa / 65536
    || m.2.phase == 3 && m.2.committed && m.2.newPa / 65536 == pa / 65536).map (·.1)
def State.pageHeld (s : State) (pa : Nat) : Bool := (s.holder pa).isSome

/-- Whether the home slice holds a line. -/
def State.l2Has (s : State) (pa : Nat) : Bool :=
  (s.stack (homeOf pa)).l2.any fun l => l.pa == pa / 128 * 128

/-- A read that a core makes of a place in device memory or the host's must wait: its way is shut, a migration holds the page, the
home is not ready, or its line is in DRAM at H4 (R251, R269, R351, R435, R439). -/
def State.shut (s : State) (c pa : Nat) : Bool :=
  decide (s.clock < s.wayFrom (stackOf c) pa) || s.pageHeld pa || !s.homeReady pa
    || s.region pa == 0 && decide (4 ≤ s.level (homeOf pa)) && !s.l2Has pa

end Sys2Proof.Machine
end

