-- ==== Sys2Proof/Machine/Operands.lean ====
section
/-! DEFINITION. Operands: what an instruction reads at its issue, and how its results set out for their registers
(R31 to R34, R59, R62, R90 to R94). -/

namespace Sys2Proof.Machine

/-- What an issuing instruction sees: where it issues, its head, its PC, the warp and the fragment as they stand, the
acting lanes (R20), and whether it acts for a fragment with no lane in EXEC (R21). -/
structure Ctx where
  c : Nat
  w : Nat
  g : Nat
  h : Head
  pc : U64
  clock : Nat
  k : Warp
  fr : Frag
  act : U32
  whole : Bool
  wgid : Nat
  th : Nat
  /-- the shape record of a replayed copy (R380) -/
  rcd : Option Nat := none
  deriving DecidableEq, Repr

/-- The guard's lanes (R20). -/
def Warp.guardMask (k : Warp) (h : Head) : U32 := if h.gn then ~~~(k.getP h.g.toNat) else k.getP h.g.toNat

/-- The lanes that DONELANES takes out of the instruction at a PC (R160). -/
def replayMask (k : Warp) (f : Frag) : U32 := (if f.replay = some f.pc then k.trap.done else 0) ||| f.stored

/-- The issue context of a fragment. -/
def Ctx.of (s : State) (c w g : Nat) (h : Head) (whole : Bool) : Ctx :=
  let k := s.warp c w
  let f := s.frag c w g
  { c, w, g, h, pc := f.pc, clock := s.clock, k, fr := f,
    act := f.exec &&& k.guardMask h &&& ~~~(replayMask k f),
    whole := whole && h.g == 0 && !h.gn && f.exec == 0,
    wgid := (s.wg c k.wg).lin, th := s.level (stackOf c) }

/-- The instruction acts (R20, R21). -/
def Ctx.acts (x : Ctx) : Bool := x.act != 0 || x.whole

/-- The lane of a value formed once on the uniform path: the lowest-numbered acting lane (R92). -/
def Ctx.low (x : Ctx) : Nat := (lowLane x.act).getD 0

/-! Reading (R31, R90). -/

/-- 64 bits of an operand in a lane. -/
def Ctx.wide (x : Ctx) (o : Opd) (l : Nat) : Nat :=
  match o with
  | .v n => ((x.k.getV (x.k.physV n.toNat)).get l).toNat + 2 ^ 32 * ((x.k.getV (x.k.physV (n.toNat + 1))).get l).toNat
  | .s n => (x.k.getS n.toNat).toNat
  | .p n => (x.k.getP n.toNat).toNat
  | .f n => (x.k.getF n.toNat).toNat
  | .laneid => l % 32
  | .exec => x.fr.exec.toNat
  | .nrm => x.k.nrm.toNat
  | .clock => x.clock % 2 ^ 64
  | .warpid => x.w % 64
  | .wgid => x.wgid % 2 ^ 64
  | .thstate => x.th % 8
  | .x _ | .t _ | .zero => 0

/-- Bits [31:0] of an operand in a lane (R90: cnt). -/
def Ctx.cnt (x : Ctx) (o : Opd) (l : Nat) : Nat :=
  match o with
  | .v n => ((x.k.getV (x.k.physV n.toNat)).get l).toNat
  | _ => x.wide o l % 2 ^ 32

/-- A V register and its successors as they stand: the word i of a data register in a lane. -/
def Ctx.vword (x : Ctx) (n i l : Nat) : Nat := ((x.k.getV (x.k.physV (n + i))).get l).toNat

/-- A uniform operand's 64 bits. -/
def Ctx.uni (x : Ctx) (o : Opd) : U64 := BitVec.ofNat 64 (x.wide o x.low)

/-- The source lane that bp selects (R34). -/
def srcLane (bp : BitVec 3) (l : Nat) : Nat :=
  match bp.toNat with
  | 0 => l
  | 6 => 31 - l
  | 7 => 0
  | n => l ^^^ 2 ^ (n - 1)

/-- The width of a type (R58, R61). -/
def tyWidth : Ty → Nat
  | .s8 | .z8 => 8
  | .s16 | .z16 | .f16 | .bf16 => 16
  | .s64 | .z64 | .f64 => 64
  | _ => 32

/-- Signed integer types. -/
def tySigned : Ty → Bool
  | .s8 | .s16 | .s32 | .s64 => true
  | _ => false

/-- The default type of an opcode in place of code 0x00 (R96). -/
def tyOr (t dflt : Ty) : Ty := if t = .dflt then dflt else t

/-- The w-bit pattern of an operand in a lane. -/
def Ctx.pat (x : Ctx) (t : Ty) (o : Opd) (l : Nat) : Nat :=
  if t.is64 then x.wide o l else x.cnt o l % 2 ^ tyWidth t

/-- Operand b under its lane pattern. -/
def Ctx.patB (x : Ctx) (t : Ty) (f : FmtA) (l : Nat) : Nat := x.pat t f.b (srcLane f.bp l)
def Ctx.cntB (x : Ctx) (f : FmtA) (l : Nat) : Nat := x.cnt f.b (srcLane f.bp l)

/-- A pattern read as an integer of its type. -/
def intOf (t : Ty) (p : Nat) : Int := if tySigned t then sextN (tyWidth t) p else (p : Int)

/-- A w-bit result extended to n bits (R59, R62). -/
def extTo (n : Nat) (t : Ty) (r : Nat) : Nat :=
  if tySigned t then wrapN n (sextN (tyWidth t) r) else r % 2 ^ tyWidth t

/-! Sending results (R40 to R43). -/

/-- Send one register's result, to land after a latency. -/
def State.send (s : State) (c w : Nat) (r : Reg) (mask : U32) (lanes : Lanes) (uni : U64) (lat : Nat) : State :=
  let id := s.nextId
  let s := { s with nextId := id + 1 }
  let s := s.modWarp c w fun k => k.send ⟨id, r, mask, lanes, uni, s.clock, s.clock + lat⟩
  s.schedule (s.clock + lat) (.fixedLatencyLand c w id)

/-- A value per acting lane, or once, to a destination: 64 bits when `wide` (R59, R94). -/
def Ctx.put (x : Ctx) (s : State) (d : Opd) (wide : Bool) (lat : Nat) (v : Nat → Nat) (u : Nat) : State :=
  match d with
  | .v n =>
    let s := s.send x.c x.w (x.k.physV n.toNat) x.act (Lanes.build fun l => BitVec.ofNat 32 (v l)) 0 lat
    if wide then
      s.send x.c x.w (x.k.physV (n.toNat + 1)) x.act (Lanes.build fun l => BitVec.ofNat 32 (v l / 2 ^ 32)) 0 lat
    else s
  | .s n => s.send x.c x.w (.s n.toNat) (BitVec.allOnes 32) [] (BitVec.ofNat 64 u) lat
  | .exec => s.send x.c x.w (.exec x.g) (BitVec.allOnes 32) [] (BitVec.ofNat 64 u) lat
  | .nrm => s.send x.c x.w .nrm (BitVec.allOnes 32) [] (BitVec.ofNat 64 u) lat
  | .p n => if n = 0 then s else s.send x.c x.w (.p n.toNat) x.act [] (BitVec.ofNat 64 u) lat
  | _ => s

/-- The registers behind a destination that interlocks until its value lands (R41). -/
def Warp.destRegs (k : Warp) (d : Opd) (n : Nat) : List Reg :=
  match d with
  | .v m => (List.range n).map fun i => k.physV (m.toNat + i)
  | .s m => (List.range n).map fun i => Reg.s (m.toNat + i)
  | _ => []

/-- Send one register's result interlocked (R41): readers and writers wait until it lands. -/
def State.sendLocked (s : State) (c w : Nat) (r : Reg) (mask : U32) (lanes : Lanes) (uni : U64) (lat : Nat) : State :=
  let id := s.nextId
  (s.modWarp c w fun k => k.lock id [r] mask).send c w r mask lanes uni lat

/-- A uniform or per-lane 32-bit result whose latency is the device's: 64 bits to an S register (R41, R139). -/
def Ctx.putLocked (x : Ctx) (s : State) (d : Opd) (lat : Nat) (v : U64) : State :=
  match d with
  | .v n =>
    s.sendLocked x.c x.w (x.k.physV n.toNat) x.act (Lanes.build fun _ => v.setWidth 32) 0 lat
  | .s n => s.sendLocked x.c x.w (.s n.toNat) (BitVec.allOnes 32) [] v lat
  | _ => s

/-- A latency of at least n cycles that the spec leaves open (DESIGN CHOICE, log 2). -/
def State.freeLat (s : State) (n : Nat) : Nat × State :=
  (n + Config.freeNat s.free, { s with free := s.free + 1 })

/-- A typed result: f gives the w-bit pattern of a lane (R90: wr). -/
def Ctx.wr (x : Ctx) (s : State) (d : Opd) (t : Ty) (lat : Nat) (f : Nat → Nat) : State :=
  x.put s d t.is64 lat (fun l => extTo (if t.is64 then 64 else 32) t (f l)) (extTo 64 t (f x.low))

/-- A test's result (R94). -/
def Ctx.wrTest (x : Ctx) (s : State) (d : Opd) (lat : Nat) (p : Nat → Bool) : State :=
  x.put s d false lat (fun l => b2n (p l)) (if d.isP then (maskOf p).toNat else b2n (p x.low))

/-- The lanes whose generators round an element: the acting lanes; for an S destination, which R113 speaks of no lane for, the
lowest acting one (DESIGN CHOICE, log 50). -/
def Ctx.genLanes (x : Ctx) (d : Opd) : U32 := if d.isS then maskOf (fun l => l == x.low) else x.act

/-- The generators of lanes stepped n times (R70). -/
def stepGens (gen : Lanes) (mask : U32) (n : Nat) : Lanes :=
  Lanes.build fun l => if mask.getLsbD l then (List.range n).foldl (fun g _ => genStep g) (gen.get l) else gen.get l

/-- A rounded result of n elements a lane (R66, R70): f takes the lane and the generator's value before the element. -/
def Ctx.wrRound (x : Ctx) (s : State) (d : Opd) (t : Ty) (lat : Nat) (r : Rnd) (n : Nat) (f : Nat → U32 → Nat) : State :=
  let gen := x.k.gen
  let s := x.wr s d t lat (fun l => f l (gen.get l))
  if r = .sr then s.modWarp x.c x.w fun k => { k with gen := stepGens gen (x.genLanes d) n } else s

end Sys2Proof.Machine
end

