-- ==== Sys2Proof/Machine/Scratch.lean ====
section
/-! DEFINITION. The scratchpad: passes of its bank array, generations of the tiles in it, atomic values (R162, R166, R204
to R207, R312, R313). -/

namespace Sys2Proof.Machine

/-- Bytes of an access size (R26). -/
def szBytes : Size → Nat
  | .b1 => 1
  | .b2 => 2
  | .b4 => 4
  | .b8 => 8
  | .b16 => 16

/-! Passes (R162, R207). -/

/-- The words an access touches. -/
def laneWords (size a : Nat) : List Nat := (List.range (max 1 (size / 4))).map (a / 4 + ·)

/-- The group of a lane. -/
def laneGroup (size l : Nat) : Nat := if size ≤ 4 then 0 else if size = 8 then l / 16 else l / 8

/-- The place of a key among those seen in its bank. -/
def bankIdx (seen : List (Nat × Nat)) (b key : Nat) : Nat := (seen.filter (·.1 == b)).findIdx (·.2 == key)

/-- Passes of a group's lanes in ascending order: in each bank one pass a distinct word, or one a lane for atomics. -/
def placeGroup (atomic : Bool) (size : Nat) : List LaneAcc → List (Nat × Nat) → List LaneAcc × Nat
  | [], _ => ([], 0)
  | a :: r, seen =>
    let keys := (laneWords size a.pa).map fun w => (w % 32, if atomic then a.lane else w)
    let seen := keys.foldl (fun l k => if l.contains k then l else l ++ [k]) seen
    let p := keys.foldl (fun m k => max m (bankIdx seen k.1 k.2)) 0
    let q := placeGroup atomic size r seen
    ({ a with pass := p } :: q.1, max (p + 1) q.2)

/-- Every lane with its pass, and the number of passes. -/
def placePasses (atomic : Bool) (size : Nat) (accs : List LaneAcc) : List LaneAcc × Nat :=
  (List.range 4).foldl (fun r g =>
    let q := placeGroup atomic size (accs.filter fun a => laneGroup size a.lane == g) []
    (r.1 ++ q.1.map (fun a => { a with pass := a.pass + r.2 }), r.2 + q.2)) ([], 0)

/-! Atomic values (R166, R167). -/

/-- The new value of an atomic of n bytes: code, old value, operand, and ATOMCAS's new value (code 16). -/
def atomNew (code n m v c : Nat) : Nat :=
  let w := 8 * n
  let sm := sextN w m
  let sv := sextN w v
  let f : IFmt := if n = 8 then f64 else f32
  match code with
  | 0 => (m + v) % 2 ^ w
  | 1 => if sm ≤ sv then m else v
  | 2 => if sm ≤ sv then v else m
  | 3 => min m v
  | 4 => max m v
  | 5 => m &&& v
  | 6 => m ||| v
  | 7 => m ^^^ v
  | 8 => v
  | 9 => f.round .rne 0 (Exact.add false (f.decode m) (f.decode v))
  | 10 => f.minmax false false m v
  | 11 => f.minmax true false m v
  | 12 => if f.isNan m || f.isNan v then f.nanBits else max (f.absBits m) (f.absBits v)
  | 16 => if m = v then c else m
  | _ => m

/-! Generations of tiles (R309, R312, R313). -/

/-- The valid tiles of a warp whose range meets one of some intervals. -/
def Warp.tilesIn (k : Warp) (iv : List (Nat × Nat)) : List Nat :=
  (k.t.filter fun p => p.2.valid && iv.any fun r => decide (r.1 < p.2.hi) && decide (p.2.lo < r.2)).map (·.1)

/-- One event that writes intervals of a workgroup's allocation: every valid tile that holds a byte of it goes up by one,
in every warp of the workgroup (R312). -/
def Core.bumpTiles (k : Core) (wg : Nat) (iv : List (Nat × Nat)) : Core :=
  { k with warps := k.warps.map fun p =>
      if p.2.wg = wg then (p.1, (p.2.tilesIn iv).foldl Warp.bumpT p.2) else p }

/-- The first physical byte of a workgroup's allocation (R204). -/
def WG.first (g : WG) : Nat := g.rowBase * 1024

/-- Bytes of a core's scratchpad, by physical byte. -/
def State.spRd (s : State) (c a n : Nat) : List Byte := (s.core c).scratch.read a n
def State.spWr (s : State) (c a : Nat) (b : List Byte) : State :=
  s.modCore c fun k =>
    let m := k.scratch.write a b
    if k.badScratch.isEmpty then { k with scratch := m }
    else { k with scratch := m,
                  badScratch := k.badScratch.filter fun w => !(decide (a ≤ 4 * w) && decide (4 * w + 4 ≤ a + b.length)) }

/-- A write into a workgroup's allocation by one event, at offsets of the allocation: bytes and generations. -/
def State.spEvent (s : State) (c wg : Nat) (ws : List (Nat × List Byte)) : State :=
  let base := (s.wg c wg).first
  let s := ws.foldl (fun s w => s.spWr c (base + w.1) w.2) s
  s.modCore c fun k => k.bumpTiles wg (ws.map fun w => (w.1, w.1 + w.2.length))

end Sys2Proof.Machine
end

