-- ==== Sys2Proof/Machine/Flags.lean ====
section
/-! DEFINITION. Tests and masks: the conditions of comparisons, saturation, float classes, truth tables (R95, R118,
R133 to R136). -/

namespace Sys2Proof.Machine

/-- An integer wrapped or saturated to a type's pattern (R60, R98). -/
def narrowInt (t : Ty) (sat : Bool) (r : Int) : Nat :=
  let w := tyWidth t
  if sat then
    (if tySigned t then
      wrapN w (max (-((2 ^ (w - 1) : Nat) : Int)) (min (((2 ^ (w - 1) : Nat) : Int) - 1) r))
     else wrapN w (max 0 (min (((2 ^ w : Nat) : Int) - 1) r)))
  else wrapN w r

/-- The integer conditions of R95 on w-bit patterns. -/
def condInt (t : Ty) (code x y : Nat) : Bool :=
  match code with
  | 0 => x == y
  | 1 => x != y
  | 2 => decide (intOf t x < intOf t y)
  | 3 => decide (intOf t x ≤ intOf t y)
  | 4 => decide (intOf t y < intOf t x)
  | 5 => decide (intOf t y ≤ intOf t x)
  | 6 => decide (x < y)
  | 7 => decide (x ≤ y)
  | 8 => decide (y < x)
  | _ => decide (y ≤ x)

/-- The float conditions of R95. -/
def condFlt (code : Nat) (x y : Exact) : Bool :=
  let un := x.isNan || y.isNan
  let o := Exact.cmp x y
  match code with
  | 0 => !un && o == .eq
  | 1 => un || o != .eq
  | 2 => !un && o == .lt
  | 3 => !un && o != .gt
  | 4 => !un && o == .gt
  | 5 => !un && o != .lt
  | 6 => un
  | _ => !un

/-- The format of a float type. -/
def tyFmt : Ty → IFmt
  | .f16 => f16
  | .bf16 => bf16
  | .f64 => f64
  | _ => f32

/-- FCLASS's mask (R118). -/
def fclass (f : IFmt) (p : Nat) : Nat :=
  let neg := p.testBit (f.eb + f.mb)
  let ex := fld p f.mb f.eb
  let fr := fld p 0 f.mb
  if ex = 2 ^ f.eb - 1 then
    (if fr = 0 then (if neg then 2 ^ 0 else 2 ^ 7) else if fr.testBit (f.mb - 1) then 2 ^ 9 else 2 ^ 8)
  else if ex = 0 then
    (if fr = 0 then (if neg then 2 ^ 3 else 2 ^ 4) else (if neg then 2 ^ 2 else 2 ^ 5))
  else (if neg then 2 ^ 1 else 2 ^ 6)

/-- A 32-bit mask operand: P, EXEC or ZERO (R135). -/
def Ctx.mask (x : Ctx) (o : Opd) : U32 := BitVec.ofNat 32 (x.wide o 0)

/-- LBALLOT's test (R133). -/
def Ctx.test (x : Ctx) (o : Opd) (l : Nat) : Bool :=
  if o.isP || o == .exec then (x.mask o).getLsbD l else x.cnt o l != 0

end Sys2Proof.Machine
end

