-- ==== Sys2Proof/Machine/Uses.lean ====
section
/-! DEFINITION. Which registers each instruction reads and writes: what the scoreboard, the interlocks and the register
window look at (R36, R41, R42, R96, R128, R138, R146, R271, R305). -/

namespace Sys2Proof.Machine

/-- The lanes of a V register that a read takes (R42, R128). -/
inductive Sel where
  | act
  | pat (bp : BitVec 3)
  | shuf (mode : Nat) (b : Opd) (bp : BitVec 3)
  | pick (b : Opd)
  deriving DecidableEq, Repr

/-- A read: an operand, how many registers from it, which lanes. -/
structure Use where
  o : Opd
  n : Nat := 1
  sel : Sel := .act
  deriving DecidableEq, Repr

/-- Registers an operand of a type takes. -/
def wn (t : Ty) (o : Opd) : Nat := if t.is64 && o.isV then 2 else 1

/-- V registers of an access size (R156); S registers. -/
def szV : Size → Nat
  | .b8 => 2
  | .b16 => 4
  | _ => 1
def szS : Size → Nat
  | .b16 => 2
  | _ => 1
def szN (sz : Size) (o : Opd) : Nat := if o.isV then szV sz else szS sz

/-- Base and index of a memory operand (R153). -/
def addrUses (f : FmtM) : List Use :=
  [{ o := f.a, n := if f.a.isV && !(f.sp == .sp || f.sp == .rsp) then 2 else 1 }, { o := f.b }]

def use1 (t : Ty) (f : FmtA) : List Use := [{ o := f.a, n := wn t f.a }]
def use2 (t : Ty) (f : FmtA) : List Use := [{ o := f.a, n := wn t f.a }, { o := f.b, n := wn t f.b, sel := .pat f.bp }]
def use3 (t : Ty) (f : FmtA) : List Use := use2 t f ++ [{ o := f.c, n := wn t f.c }]
def useCnt (t : Ty) (f : FmtA) : List Use := [{ o := f.a, n := wn t f.a }, { o := f.b, sel := .pat f.bp }]

/-- The reads of a slot (R36). -/
def Slot.uses (q : Slot) : List Use :=
  (if q.readsD then [{ o := .v q.d }] else [])
    ++ (match q.sop with
        | .snop | .iaddi | .movi => []
        | _ => [{ o := q.b }])

/-- The registers an ATOMCAS takes (R167). -/
def casN : Size → Nat
  | .b8 => 4
  | _ => 2

/-- The S registers from an operand on. -/
def usesS (o : Opd) (n : Nat) : List Use := [{ o := o, n := n }]

/-- The reads of an instruction, its guard apart; the coordinates of TLOAD and TSTORE, whose number the record gives, are
`State.coords`. -/
def Instr.reads : Instr → List Use
  | .iadd _ f | .isub _ f | .imul _ f | .imulh _ f | .idiv _ f | .irem _ f | .imin _ f | .imax _ f | .iand _ f
  | .ior _ f | .ixor _ f | .icmp _ f | .fadd _ f | .fsub _ f | .fmul _ f | .fmin _ f | .fmax _ f | .fcmp _ f
  | .fdiv _ f => use2 f.ty f
  | .imad _ f | .ffma _ f => use3 f.ty f
  | .iabs _ f | .ineg _ f | .inot _ f | .ipopc _ f | .iclz _ f | .ibrev _ f | .fabs _ f | .fneg _ f | .frcp _ f
  | .frsq _ f | .fsqrt _ f | .fexp2 _ f | .flog2 _ f | .fsin _ f | .fcos _ f | .ftanh _ f | .fclass _ f | .frnd _ f
  | .ffrac _ f | .unpk _ f | .lred _ f | .lscan _ f | .lballot _ f | .lvote _ f | .pcnt _ f | .mov _ f => use1 f.ty f
  | .ishl _ f | .ishr _ f | .isra _ f | .irot _ f | .fscale _ f | .pack _ f => useCnt f.ty f
  | .plog _ f => [{ o := f.a }, { o := f.b }]
  | .ibfx _ f => useCnt f.ty f ++ [{ o := f.c }]
  | .ibfi _ f => use2 f.ty f ++ [{ o := f.c }]
  | .isel _ f | .iaddc _ f => use2 f.ty f ++ [{ o := f.c }]
  | .idot4 _ f | .fdot2 _ f => useCnt .dflt f ++ [{ o := f.c }]
  | .ilea _ f => [{ o := f.a, n := if f.a.isV then 2 else 1 }, { o := f.b, sel := .pat f.bp }]
  | .iaddi _ f | .icmpi _ f | .movhi _ f => [{ o := f.a }]
  | .cvt _ f src => [{ o := f.a, n := wn src f.a }]
  | .qnt _ f => [{ o := f.a }]
  | .dqnt _ f => [{ o := f.a }, { o := f.c }]
  | .lshuf _ f => [{ o := f.a, sel := .shuf f.flags.toNat f.b f.bp }, { o := f.b, sel := .pat f.bp }]
  | .lbcast _ f => [{ o := f.a, n := wn f.ty f.a, sel := .pick f.b }, { o := f.b }]
  | .movi _ _ => []
  | .wrspec _ f => [{ o := f.a }]
  | .brx _ f | .sleepuntil _ f | .wsync _ f => [{ o := f.a }]
  | .callx _ f => [{ o := f.a }]
  | .ld _ f | .ldu _ f | .xld _ f | .pref _ f | .cctlIl1 _ f | .cctlEvl2 _ f => addrUses f
  | .st _ f | .stu _ f => addrUses f ++ [{ o := f.d, n := szN f.sz f.d }]
  | .xst _ f => addrUses f ++ [{ o := f.d }]
  | .pagein _ f => addrUses f ++ [{ o := f.d }]
  | .atom _ f | .red _ f => addrUses f ++ [{ o := f.d, n := szN f.sz f.d }]
  | .atomcas _ f => addrUses f ++ [{ o := f.d, n := casN f.sz }]
  | .barinit _ f | .arrive _ f | .waitb _ f | .arrwait _ f => [{ o := f.a }, { o := f.b }]
  | .launch _ f | .cwait _ f | .tstat _ f | .mwait _ f | .nmexp _ f | .nmred _ f => [{ o := f.a }]
  | .fetchwg _ f => [{ o := f.a }, { o := f.b }]
  | .tload _ f | .tstore _ f => [{ o := f.a }, { o := f.b }]
  | .tgather _ f | .tscatter _ f => [{ o := f.a }, { o := f.b }, { o := f.c, n := if f.c = .s 63 then 1 else 2 }]
  | .tcopy _ f => [{ o := f.a }, { o := f.b }, { o := f.c }]
  | .tfill _ f => [{ o := f.a }, { o := f.b }]
  | .mwld _ f => [{ o := f.a }, { o := f.b }]
  | .mma _ f => [{ o := f.a }, { o := f.b }, { o := f.c }]
  | .mread _ f => [{ o := f.a }, { o := f.c }]
  | .mhad _ f => [{ o := f.a }, { o := f.b }]
  | .xmov _ f | .xcvt _ f | .xbind _ f => [{ o := f.a }]
  | .xadd _ f | .xsub _ f | .xmax _ f | .xmin _ f => [{ o := f.a }, { o := f.b }]
  | .xqnt _ f => [{ o := f.a }, { o := f.b }]
  | .fmtset _ f | .fmtget _ f => [{ o := f.a }]
  | .tdset _ f => [{ o := f.a, n := 2 }]
  | .tdget _ f => [{ o := f.a }]
  | .sysrd _ _ _ no => [{ o := no }]
  | .syswr _ _ a _ no => [{ o := a }, { o := no }]
  | .tlbinvRange _ _ a | .tlbinvDid _ _ a | .tlbinvPart _ _ a | .ctxrst _ _ a => [{ o := a, n := 2 }]
  | .ctxsave _ _ a | .dpreempt _ _ a => [{ o := a }]
  | .migrate _ f => [{ o := f.a }, { o := f.b }, { o := f.c, n := 2 }]
  | .pairWord _ s0 s1 => Slot.uses s0 ++ Slot.uses s1
  | _ => []

/-- The registers an instruction writes: an operand and how many from it. -/
def Instr.writes : Instr → List (Opd × Nat)
  | .iadd _ f | .isub _ f | .imul _ f | .imulh _ f | .idiv _ f | .irem _ f | .imin _ f | .imax _ f | .iand _ f
  | .ior _ f | .ixor _ f | .fadd _ f | .fsub _ f | .fmul _ f | .fmin _ f | .fmax _ f | .fdiv _ f
  | .imad _ f | .ffma _ f | .iabs _ f | .ineg _ f | .inot _ f | .ipopc _ f | .iclz _ f | .ibrev _ f | .fabs _ f
  | .fneg _ f | .frcp _ f | .frsq _ f | .fsqrt _ f | .fexp2 _ f | .flog2 _ f | .fsin _ f | .fcos _ f | .ftanh _ f
  | .frnd _ f | .ffrac _ f | .ishl _ f | .ishr _ f | .isra _ f | .irot _ f | .fscale _ f | .ibfx _ f | .ibfi _ f
  | .isel _ f | .lbcast _ f | .mov _ f | .cvt _ f _ => [(f.d, wn f.ty f.d)]
  | .iaddc _ f => [(f.d, wn f.ty f.d), (f.c, 1)]
  | .icmp _ f | .fcmp _ f | .fclass _ f | .idot4 _ f | .fdot2 _ f | .dqnt _ f | .pack _ f | .unpk _ f | .lshuf _ f
  | .lred _ f | .lscan _ f | .lballot _ f | .lvote _ f | .plog _ f | .pcnt _ f => [(f.d, 1)]
  | .ilea _ f => [(f.d, if f.d.isV then 2 else 1)]
  | .qnt _ f => [(f.d, 1), (f.c, 1)]
  | .iaddi _ f | .icmpi _ f | .movi _ f | .movhi _ f | .rgrow _ f | .rshrink _ f => [(f.d, 1)]
  | .rdspec _ f => [(f.d, 1)]
  | .ld _ f | .ldu _ f | .atom _ f => [(f.d, szN f.sz f.d)]
  | .atomcas _ f => [(f.d, casN f.sz)]
  | .xld _ f => [(f.d, 1)]
  | .arrive _ f => [(f.d, 1)]
  | .launch _ f | .cwait _ f | .fetchwg _ f | .tload _ f | .tstore _ f | .tgather _ f | .tscatter _ f | .tcopy _ f
  | .tfill _ f | .tstat _ f | .mbatch _ f | .mwait _ f | .nmexp _ f | .nmred _ f => [(f.d, 1)]
  | .mfuseNone _ d | .mfuseNpair _ d | .mfuseKpair _ d | .mfuseQuad _ d => [(d, 1)]
  | .xmov _ f | .xadd _ f | .xsub _ f | .xmax _ f | .xmin _ f | .xcvt _ f | .xbind _ f | .xunbind _ f | .xtag _ f
  | .fmtset _ f | .fmtget _ f | .tdset _ f => [(f.d, 1)]
  | .tdget _ f => [(f.d, 2)]
  | .xqnt _ f => [(f.d, 1), (f.c, 1)]
  | .sysrd _ d _ _ | .syswr _ d _ _ _ | .tlbinvRange _ d _ | .tlbinvDid _ d _ | .tlbinvPart _ d _ | .ctxsave _ d _
  | .ctxrst _ d _ | .dpreempt _ d _ => [(d, 1)]
  | .migrate _ f => [(f.d, 1)]
  | .pairWord _ s0 s1 =>
    (if s0.sop = .snop then [] else [(.v s0.d, 1)]) ++ (if s1.sop = .snop then [] else [(.v s1.d, 1)])
  | _ => []

/-- The registers behind an operand and its successors. -/
def Warp.regsOf (k : Warp) (g : Nat) (o : Opd) (n : Nat) : List Reg :=
  (List.range n).flatMap fun i =>
    match o with
    | .v m => [k.physV (m.toNat + i)]
    | .s m => [Reg.s (m.toNat + i)]
    | .p m => if m = 0 then [] else [Reg.p m.toNat]
    | .x m => [Reg.x m.toNat]
    | .t m => [Reg.t m.toNat]
    | .f m => [Reg.f m.toNat]
    | .exec => [Reg.exec g]
    | .nrm => [Reg.nrm]
    | _ => []

/-- The format register of type code .N (R24). -/
def tyF : Ty → List Opd
  | .n k => [.f k]
  | _ => []

/-- The F registers an instruction reads through its type code. -/
def Instr.fmtUses : Instr → List Opd
  | .cvt _ f src => tyF f.ty ++ tyF src
  | .qnt _ f | .dqnt _ f | .pack _ f | .unpk _ f => tyF f.ty
  | _ => []

/-- The F register behind a tile's format (R24, R272). -/
def Warp.tileF (k : Warp) (o : Opd) : List Reg :=
  match o with
  | .t n => let c := (k.getT n.toNat).fmt.toNat
            if 16 ≤ c then [.f (c - 16)] else []
  | _ => []

/-- X registers after a named one that a tile's scales run on into (R277). -/
def Warp.tileXs (k : Warp) (t : Opd) (first : Nat) : List Reg :=
  match t with
  | .t n =>
    let d := k.getT n.toNat
    let blk := if (k.getF (d.fmt.toNat - 16)).getLsbD 18 then 32 else 16
    (List.range (ceilDiv (d.rows.toNat * d.cols.toNat / blk) 1024)).map fun i => .x (first + i)
  | _ => []

/-- The X registers bound to a tile that its scale stream reads or writes (R277). -/
def Warp.streamXs (k : Warp) (t : Opd) : List Reg :=
  match t with
  | .t n =>
    match firstIdx 8 fun j => (k.getX j).bnd && (k.getX j).tix.toNat == n.toNat with
    | some j => k.tileXs t j
    | none => []
  | _ => []

/-- Registers of class X, T and F that an instruction reads or writes without naming them (R272, R277, R308). -/
def Instr.implicit (k : Warp) : Instr → List Reg
  | .tload _ f | .tstore _ f => k.tileF f.b ++ (if f.e.getLsbD 0 then k.streamXs f.b else [])
  | .tgather _ f | .tscatter _ f | .tfill _ f => k.tileF f.b
  | .mwld _ f | .mma _ f =>
    k.tileF f.a ++ (match f.b with
      | .x j => k.tileXs f.a j.toNat
      | _ => [])
  | .mread _ f | .xbind _ f => k.tileF f.a
  | .mhad _ f => k.tileF f.a ++ k.tileF f.b
  | .xqnt _ f => k.tileF f.a ++ k.tileF f.b ++ (match f.c with
      | .x j => k.tileXs f.b j.toNat
      | _ => [])
  | .xtag _ f => (match f.d with
      | .x j => .t (k.getX j.toNat).tix.toNat :: k.tileF (.t (k.getX j.toNat).tix)
      | _ => [])
  | .tdget _ f => k.tileF f.a
  | .tdset _ f => k.tileF f.d ++ (match f.a with
      | .s n => let c := fld (k.getS n.toNat).toNat 56 5
                if 16 ≤ c then [.f (c - 16)] else []
      | _ => [])
  | _ => []

/-- What an instruction reads without naming it as a source: the registers that it uses and does not write (R272, R277, R317). -/
def Instr.implicitReads (k : Warp) : Instr → List Reg
  | .tload _ f => k.tileF f.b
  | .xqnt _ f => k.tileF f.a ++ k.tileF f.b
  | .xtag h f => k.regsOf 0 f.d 1 ++ Instr.implicit k (.xtag h f)
  | i => Instr.implicit k i

/-- The guards of a word: of a pair, its slots' (R20, R38). -/
def Instr.guards (h : Head) : Instr → List Opd
  | .pairWord _ s0 s1 => [.p (s0.g.setWidth 3), .p (s1.g.setWidth 3)]
  | _ => [.p h.g]

/-- The registers an instruction is guarded by, writes, or uses without reading them as operands: the interlock of R41 looks at
them whole. -/
def Instr.otherRegs (i : Instr) (h : Head) (k : Warp) (g : Nat) : List Reg :=
  k.regsOf g (.p h.g) 1
    ++ (Instr.writes i).flatMap (fun p => k.regsOf g p.1 p.2)
    ++ (Instr.fmtUses i).flatMap (fun o => k.regsOf g o 1)
    ++ Instr.implicit k i

/-- Every register an instruction reads, writes or is guarded by. -/
def Instr.allRegs (i : Instr) (h : Head) (k : Warp) (g : Nat) : List Reg :=
  Instr.otherRegs i h k g ++ (Instr.reads i).flatMap (fun u => k.regsOf g u.o u.n)

/-- The V registers an instruction names (R146). -/
def Instr.vNames (i : Instr) : List Nat :=
  ((Instr.reads i).map (fun u => (u.o, u.n)) ++ Instr.writes i).flatMap fun p =>
    match p.1 with
    | .v m => (List.range p.2).map fun j => m.toNat + j
    | _ => []

/-- An X, T or F register is named (R325). -/
def Instr.namesXTF (i : Instr) : Bool :=
  ((Instr.reads i).map (·.o) ++ (Instr.writes i).map (·.1) ++ Instr.fmtUses i).any
    fun o => o.isX || o.isT || o.isF

/-- An X register is named (R307). -/
def Instr.namesX (i : Instr) : Bool :=
  ((Instr.reads i).map (·.o) ++ (Instr.writes i).map (·.1)).any fun o => o.isX

/-- The lanes of a read (R42, R128): lanes outside the membership mask are not checked. -/
def Ctx.readLanes (x : Ctx) (u : Use) : U32 :=
  match u.sel with
  | .act => x.act
  | .pat bp => maskOf (fun m => (lanesOf x.act).any fun l => srcLane bp l == m) &&& x.fr.memb
  | .shuf mode b bp =>
    maskOf (fun m => (lanesOf x.act).any fun l =>
      let n := x.cnt b (srcLane bp l) % 32
      (match mode with
       | 0 => n
       | 1 => if n ≤ l then l - n else l
       | 2 => if l + n ≤ 31 then l + n else l
       | _ => l ^^^ n) == m) &&& x.fr.memb
  | .pick b => maskOf (fun m => m == x.cnt b x.low % 32) &&& x.fr.memb

/-- A result to a register is one that a read of a register is checked against: of EXEC, which is uniform, every fragment's
(R42). -/
def Reg.checks : Reg → Reg → Bool
  | .exec _, .exec _ => true
  | a, b => a == b

/-- A fixed-latency producer of a register is outstanding in some of the lanes (R42). -/
def Warp.early (k : Warp) (clock : Nat) (r : Reg) (lanes : U32) : Bool :=
  k.pend.any fun p =>
    p.reg.checks r && decide (clock < p.lands) &&
      (match r with
       | .v _ | .rsv _ => p.mask &&& lanes != 0
       | _ => p.mask != 0)

/-- Some read of a list is early in the acting lanes (R42). -/
def Ctx.earlyIn (x : Ctx) (us : List Use) : Bool :=
  us.any fun u => (x.k.regsOf x.g u.o u.n).any fun r => x.k.early x.clock r (x.readLanes u)

/-- A slot of a pair under its own guard (R38). -/
def Ctx.slot (x : Ctx) (q : Slot) : Ctx := { x with act := x.fr.exec &&& x.k.getP q.g.toNat }

/-- Some read of the instruction, its guard among them, is early (R38, R42). A slot of a pair that its own guard, as it reads now,
leaves no acting lane is not looked at, though that guard be outstanding and the other slot act; and that EXEC masks the lanes of
every instruction is no read of EXEC (DESIGN CHOICE, log 51). -/
def Ctx.early (x : Ctx) (i : Instr) : Bool :=
  match i with
  | .pairWord _ s0 s1 =>
    [s0, s1].any fun q =>
      let y := x.slot q
      y.act != 0 && y.earlyIn ({ o := .p (q.g.setWidth 3) } :: Slot.uses q)
  | _ => x.earlyIn ({ o := .p x.h.g } :: Instr.reads i)

end Sys2Proof.Machine
end

