-- ==== Sys2Proof/Machine/Waits.lean ====
section
/-! DEFINITION. Addresses of memory operands, and what a memory access, a fence or an engine operation waits for before
it issues (R153, R161, R170, R219, R233, R246, R364). -/

namespace Sys2Proof.Machine

/-! Addresses (R153). -/

/-- The const term of a memory operand: sext(off) times the size. -/
def offTerm (f : FmtM) : Int := sextN 9 f.off.toNat * szBytes f.sz

/-- Space-1 or space-2 address of a lane: exact. -/
def Ctx.spAddr (x : Ctx) (f : FmtM) (k : Int) (l : Nat) : Int := (x.cnt f.a l : Int) + (x.cnt f.b l : Int) + k

/-- Address of a lane in spaces 0, 3 and 4: modulo 2^64. -/
def Ctx.glAddr (x : Ctx) (f : FmtM) (k : Int) (l : Nat) : Nat :=
  wrapN 64 ((x.wide f.a l : Int) + sextN 32 (x.cnt f.b l) + k)

/-- Spaces 1 and 2. -/
def isSp (f : FmtM) : Bool := f.sp == .sp || f.sp == .rsp

/-- The lane's address as FAULTADDR gives it. -/
def Ctx.vaOf (x : Ctx) (f : FmtM) (k : Int) (l : Nat) : U64 :=
  if isSp f then BitVec.ofNat 64 (wrapN 64 (x.spAddr f k l)) else BitVec.ofNat 64 (x.glAddr f k l)

/-! Stores and reads still out (R170, R219, R240, R245). -/

/-- Bytes of a warp's lanes with a colour of a mask. -/
def byHits (l : List (Nat × Nat × Nat)) (uid lanes cols : Nat) : Bool :=
  l.any fun b => b.1 == uid && (b.2.1 &&& lanes) != 0 && cols.testBit b.2.2

/-- An access under way is a store that a release at a scope covers. WG covers every location, host memory and peers among them
(R216). -/
def State.covers (s : State) (sc : Scope) (f : Fly) : Bool :=
  match f.kind with
  | 1 | 2 => sc != .rt || s.region f.pa == 1
  | 4 | 5 | 9 | 16 | 17 => sc != .rt
  | 7 | 8 => sc == .wg || sc == .pk || sc == .sy
  | 11 | 12 => sc == .wg || sc == .sy
  | _ => false

/-- A release at a scope waits: an entry or access of these lanes and colours has not been performed. -/
def State.storesOut (s : State) (c uid lanes cols : Nat) (sc : Scope) : Bool :=
  ((s.core c).bufs.any fun q => q.2.any fun e => byHits e.by_ uid lanes cols && (sc != .rt || s.region e.line == 1))
    || (s.fly.any fun f => f.2.core == c && !f.2.performed && byHits f.2.by_ uid lanes cols && s.covers sc f.2)

/-- The entries and accesses that such a release waits for. -/
def State.storeIds (s : State) (c uid lanes cols : Nat) (sc : Scope) : List Nat :=
  ((s.core c).bufs.flatMap fun q =>
      (q.2.filter fun e => byHits e.by_ uid lanes cols && (sc != .rt || s.region e.line == 1)).map (·.id))
    ++ (s.fly.filter fun f => f.2.core == c && !f.2.performed && byHits f.2.by_ uid lanes cols && s.covers sc f.2).map (·.1)

/-- A read or atomic has not been performed; a line of another stack counts until it has come to L1, where it ends an older
copy that the core's other lanes could still meet (R224, R225, DEDUCED, log 9). -/
def Fly.readOut (f : Fly) : Bool :=
  [0, 2, 3, 5, 6, 8, 10, 12].contains f.kind && (!f.performed || (f.kind == 0 && !f.own))

/-- A read or atomic of these lanes is out. -/
def State.readsOut (s : State) (c uid lanes : Nat) : Bool :=
  s.fly.any fun f => f.2.core == c && f.2.readOut && byHits f.2.by_ uid lanes 255

/-- An acquire of the fragment has not come to its end: its read, or an earlier one of the lanes that were in EXEC at its
issue, is out (R161, R219, R220). -/
def State.acqOut (s : State) (c w : Nat) (f : Frag) : Bool :=
  f.acq.any fun a => (FMap.get? s.loads a.1).isSome
    || (s.fly.any fun g => g.2.core == c && g.2.readOut && decide (g.1 < a.1)
        && byHits g.2.by_ (s.warp c w).uid a.2 255)

/-- Bytes buffered for their homes in a core's quarter: entries, then stores under way. -/
def State.buffered (s : State) (c q : Nat) : List (Nat × List (Nat × Byte)) :=
  (FMap.getD (s.core c).bufs q []).map (fun e => (e.line, e.bytes))
    ++ (s.fly.filter fun f => f.2.kind == 1 && f.2.core == c && quarterOf f.2.slot == q && !f.2.performed).map
        fun f => (f.2.pa, f.2.bytes)

/-- The buffered stores of a quarter that hold one of the bytes [pa, pa + n), in entries or under way. -/
def State.nearStores (s : State) (c q pa n : Nat) : List Nat :=
  let hit (line : Nat) (b : List (Nat × Byte)) : Bool :=
    b.any fun x => decide (pa ≤ line + x.1) && decide (line + x.1 < pa + n)
  ((FMap.getD (s.core c).bufs q []).filter fun e => hit e.line e.bytes).map (·.id)
    ++ (s.fly.filter fun f => f.2.kind == 1 && f.2.core == c && quarterOf f.2.slot == q && !f.2.performed
        && hit f.2.pa f.2.bytes).map (·.1)

/-- The word's address at its place. -/
def Fly.wordAt (f : Fly) : Nat := ((f.accs.head?).map (·.pa)).getD 0

/-- Bytes that a warp's posted atomics and BARINITs will write at their homes: a later read of the same lane takes them or
later ones (R223, R225). -/
def State.posted (s : State) (c uid : Nat) : List (Nat × List (Nat × Byte)) :=
  let run (pa n : Nat) : Nat × List (Nat × Byte) := (pa, (List.range n).map fun i => (i, 0))
  s.fly.flatMap fun f =>
    if f.2.core ≠ c ∨ f.2.uid ≠ uid ∨ f.2.performed then []
    else if f.2.kind = 2 then f.2.accs.map fun a => run a.pa f.2.size
    else if f.2.kind = 9 ∧ f.2.code % 8 = 0 then [run f.2.wordAt 8]
    else []

/-- The bytes [pa, pa + n) meet a buffered byte. -/
def meets (l : List (Nat × List (Nat × Byte))) (pa n : Nat) : Bool :=
  l.any fun e => e.2.any fun b => decide (pa ≤ e.1 + b.1) && decide (e.1 + b.1 < pa + n)

/-- The physical bytes of an access, by the translations at hand. -/
def State.peek (s : State) (x : Ctx) (f : FmtM) (va need : Nat) : Option Nat :=
  if f.sp = .ctx then some va
  else
    match s.translate x.c (s.dom x.c x.k.dslot) [] va need with
    | .ok pa _ _ => some pa
    | _ => none

/-- A load or atomic meets the buffer of its own quarter (R246), or its own posted writes (R225). -/
def State.bufferWait (s : State) (x : Ctx) (f : FmtM) (k : Int) (lanes : List Nat) (bytes need : Nat) : Bool :=
  if isSp f then false
  else
    match s.buffered x.c (quarterOf x.w) ++ s.posted x.c x.k.uid with
    | [] => false
    | l => lanes.any fun n =>
        match s.peek x f (x.glAddr f k n) need with
        | some pa => meets l pa bytes
        | none => false

/-- The release of an access or fence waits: stores of the colours, and every read (R219). -/
def State.relWait (s : State) (x : Ctx) (cols : Nat) (sc : Scope) : Bool :=
  s.storesOut x.c x.k.uid x.fr.exec.toNat cols sc || s.readsOut x.c x.k.uid x.fr.exec.toNat

def isRel (m : Sem) : Bool := m == .rel || m == .ar
def isAcq (m : Sem) : Bool := m == .acq || m == .ar

/-- The buffer entry that a store's line merges into: of its line and domain slot, and if own the youngest own one, with no
write of the warp's since then under way past the buffer (R226, R245). -/
def State.entryFor (s : State) (x : Ctx) (pa : Nat) : Option Entry :=
  let l := FMap.getD (s.core x.c).bufs (quarterOf x.w) []
  let young := (l.filter (·.own)).getLast?.map (·.id)
  let after (e : Entry) : Bool := s.fly.any fun g =>
    (g.2.kind == 2 || g.2.kind == 9) && g.2.own && !g.2.performed && g.2.uid == x.k.uid && decide (e.id < g.1)
  l.find? fun e => e.line == pa / 128 * 128 && e.dslot == x.k.dslot && (!e.own || (young == some e.id && !after e))

/-- A store to an address has an entry to go to, or a free one (R245). -/
def State.entryRoom (s : State) (x : Ctx) (pa : Nat) : Bool :=
  (s.entryFor x pa).isSome || decide ((FMap.getD (s.core x.c).bufs (quarterOf x.w) []).length < 16)

/-- An address is stored to through the coalescing buffer: device memory, not through space 4 (R245). -/
def State.buffers (s : State) (f : FmtM) (pa : Nat) : Bool := f.sp != .ctx && decide (s.region pa ≤ 1)

/-- A store's next lane needs an entry and none is free (R245). -/
def State.fullWait (s : State) (x : Ctx) (f : FmtM) (k : Int) (lanes : List Nat) : Bool :=
  if isSp f then false
  else
    match lanes with
    | [] => false
    | n :: _ =>
      match s.peek x f (x.glAddr f k n) 1 with
      | some pa => s.buffers f pa && !s.entryRoom x pa
      | none => false

/-- Changes of line along a list of addresses: the entries that stores in this order need at most. -/
def lineRuns : Option Nat → List Nat → Nat
  | _, [] => 0
  | last, pa :: r => (if last = some (pa / 128) then 0 else 1) + lineRuns (some (pa / 128)) r

/-- XST's lines do not all have an entry: it enters the buffer whole (DESIGN CHOICE, log 9). -/
def State.linesWait (s : State) (x : Ctx) (f : FmtM) (k : Int) : Bool :=
  let pas := ((List.range 64).filterMap fun (j : Nat) => s.peek x f (x.glAddr f (k + 16 * (j : Int)) x.low) 1).filter (s.buffers f)
  !isSp f && !pas.isEmpty && decide (16 < (FMap.getD (s.core x.c).bufs (quarterOf x.w) []).length + lineRuns none pas)

/-! Program order on one stack (R226). -/

/-- An access under way whose place is the issuer's own stack: its lines, its cluster's scratchpads. -/
def Fly.onStack (f : Fly) : Bool := f.own || [3, 4, 5, 16, 17].contains f.kind

/-- It reads there, it writes there. A barrier operation's fragment waits for it, but BARINIT's (R172). -/
def Fly.readsHere (f : Fly) : Bool := f.onStack && [0, 2, 3, 5].contains f.kind
def Fly.writesHere (f : Fly) : Bool := f.onStack && [1, 2, 4, 5, 9, 16, 17].contains f.kind

/-- An access of the core's own array by its SIMT port: taken in the order of issue (R181, R205). -/
def Fly.simt (f : Fly) (c : Nat) : Bool := [3, 4, 5, 16].contains f.kind && f.pa == c && f.back != 30

/-- An access in space 1 comes after what program order puts before it on the issuer's stack: reads after reads, writes
after reads and writes, and a read after its lane's writes to the same array by the crossbar; the SIMT port keeps its own
order (R181, R205, R225, R226). -/
def State.stackWait (s : State) (x : Ctx) (f : FmtM) (lanes : List Nat) (writes : Bool) : Bool :=
  let m := lanes.foldl (fun m l => m ||| 2 ^ l) 0
  let mine (g : Fly) : Bool := g.core == x.c && !g.performed && byHits g.by_ x.k.uid m 255 && !g.simt x.c
  f.sp == .sp
    && ((s.fly.any fun g => mine g.2
          && (g.2.readsHere || (writes && g.2.writesHere) || ([4, 5, 17].contains g.2.kind && g.2.pa == x.c)))
      || (writes && (FMap.getD (s.core x.c).bufs (quarterOf x.w) []).any fun e => e.own && byHits e.by_ x.k.uid m 255))

/-- A byte of an access lies in root SRAM of another stack. -/
def State.rootAway (s : State) (x : Ctx) (f : FmtM) (va : Nat) : Bool :=
  match s.peek x f va 1 with
  | some pa => s.region pa == 1 && homeOf pa != stackOf x.c
  | none => false

/-- The scope of a release: RT to root SRAM of another stack is PK (R217). -/
def State.relScope (s : State) (x : Ctx) (f : FmtM) (k : Int) (lanes : List Nat) : Scope :=
  if f.sc = .rt ∧ lanes.any (fun n => s.rootAway x f (x.glAddr f k n)) then .pk else f.sc

/-- The same of an XST, by each of its 64 pieces. -/
def State.xstScope (s : State) (x : Ctx) (f : FmtM) : Scope :=
  if f.sc = .rt ∧ (List.range 64).any (fun j => s.rootAway x f (x.glAddr f (offTerm f + 16 * (j : Int)) x.low)) then .pk
  else f.sc

/-- A memory operation of these lanes waits before it issues. -/
def State.memWait (s : State) (x : Ctx) (f : FmtM) (k : Int) (lanes : List Nat) (bytes : Nat) (reads writes : Bool)
    (need : Nat) : Bool :=
  s.acqOut x.c x.w x.fr
    || (isRel f.sem && s.relWait x (2 ^ f.col.toNat) (s.relScope x f k lanes))
    || (reads && s.bufferWait x f k lanes bytes need)
    || s.stackWait x f lanes writes

/-- A result of the warp is still on its way to a V, S or P register or NRM: a gate call, a spill and a fill move these
(DEDUCED, log 36). -/
def Warp.unsettled (k : Warp) : Bool :=
  !k.pend.isEmpty || k.locks.any fun l => match l.reg with
    | .x _ | .t _ | .f _ => false
    | _ => true

/-- What an instruction waits for besides registers and units. -/
def State.waits (s : State) (x : Ctx) : Instr → Bool
  | .ld _ f => s.memWait x f (offTerm f) (lanesOf x.act) (szBytes f.sz) true false 0
  | .ldu _ f =>
    s.memWait x f (offTerm f) [x.low] (szBytes f.sz) true false 0 || s.stackWait x f (lanesOf x.fr.exec) false
  | .xld _ f =>
    s.memWait x f (offTerm f) [] 16 true false 0 || s.stackWait x f (lanesOf x.fr.exec) false
      || (List.range 64).any fun j => s.bufferWait x f (offTerm f + 16 * (j : Int)) [x.low] 16 0
  | .st _ f =>
    s.memWait x f (offTerm f) (lanesOf x.act) 0 false true 1 || s.fullWait x f (offTerm f) (lanesOf x.act)
  | .stu _ f =>
    s.memWait x f (offTerm f) [x.low] 0 false true 1 || s.stackWait x f (lanesOf x.fr.exec) true
      || s.fullWait x f (offTerm f) [x.low]
  | .xst _ f =>
    s.memWait x { f with sc := s.xstScope x f } (offTerm f) [x.low] 0 false true 1 || s.stackWait x f (lanesOf x.fr.exec) true
      || s.linesWait x f (offTerm f)
  | .atom _ f | .atomcas _ f | .red _ f => s.memWait x f 0 (lanesOf x.act) (szBytes f.sz) true true 1
  | .barinit _ f =>
    s.memWait x { f with b := .zero } (offTerm f) [x.low] 8 true true 1 || s.stackWait x f (lanesOf x.fr.exec) true
  | .arrive _ f | .arrwait _ f =>
    s.acqOut x.c x.w x.fr || s.relWait x 255 f.sc || s.bufferWait x { f with b := .zero } (offTerm f) [x.low] 8 1
      || s.stackWait x f (lanesOf x.fr.exec) true
  | .waitb _ f =>
    s.memWait x { f with b := .zero } (offTerm f) [x.low] 8 true false 0 || s.stackWait x f (lanesOf x.fr.exec) false
  | .fence _ f =>
    s.acqOut x.c x.w x.fr
      || (if f.sem = .acq then s.readsOut x.c x.k.uid x.fr.exec.toNat
          else s.relWait x (if f.sem = .relaxed then 255 else fld f.off.toNat 0 8) f.sc)
  | .pagein _ _ => s.acqOut x.c x.w x.fr || s.storesOut x.c x.k.uid x.fr.exec.toNat 255 .pk
  | .gcall _ _ _ | .gret _ =>
    s.acqOut x.c x.w x.fr || x.k.unsettled || s.storesOut x.c x.k.uid (2 ^ 32 - 1) 255 .pk
      || s.readsOut x.c x.k.uid (2 ^ 32 - 1)
  | .syswr _ _ _ _ _ | .tlbinvRange _ _ _ | .tlbinvDid _ _ _ | .tlbinvPart _ _ _ =>
    s.acqOut x.c x.w x.fr || s.relWait x 255 .pk
  | .eretSpill _ _ _ | .eretFill _ _ _ => x.k.unsettled
  | .launch _ _ => s.acqOut x.c x.w x.fr
  | .cwait _ _ => s.acqOut x.c x.w x.fr || s.readsOut x.c x.k.uid x.fr.exec.toNat
  | _ => false

end Sys2Proof.Machine
end

