-- ==== Sys2Proof/Machine/PeerOps.lean ====
section
/-! DEFINITION. The link transport: ports' dealings with peers, packets out, answers (R448 to R450). -/

namespace Sys2Proof.Machine

/-- A port's dealings with a peer, opened at first use with sequence number 0 (DEDUCED, log 19). -/
def State.link (s : State) (port peer : Nat) : Link :=
  (s.links.find? fun l => l.port == port && l.peer == peer).getD
    { port, peer, nextSeq := 0, out := [], down := false, expect := 0, record := [], inq := [] }

def State.setLink (s : State) (l : Link) : State :=
  { s with links := l :: s.links.filter fun m => !(m.port == l.port && m.peer == l.peer) }

/-- This device's peer id. -/
def State.peerId (s : State) : Nat := fld s.peerLocal.toNat 0 16

/-- A packet leaves a port in its frame: the destination's MAC and the Ethertype of LOCAL (R448, R449). -/
def State.emit (s : State) (port : Nat) (p : Packet) : State :=
  { s with outPackets := s.outPackets ++
      [(port, { p with mac := 0x02CE00000000 + p.dst % 2 ^ 16, etype := fld s.peerLocal.toNat 16 16, len := p.data.length })] }

/-- A payload is a multiple of 4 bytes: what fills it up is free (R449, DESIGN CHOICE, log 19). -/
def State.padded (s : State) (b : List Byte) : List Byte × State :=
  if b.length % 4 = 0 then (b, s)
  else
    let w := s.freeWord
    (b ++ (toBytes 8 w.1.toNat).take (4 - b.length % 4), w.2)

/-- A packet that is discarded: a reserved byte is not 0, or its payload is not as long as it says, in words, or too long
(R449; of the payload DEDUCED, log 19). -/
def badPacket (p : Packet) : Bool :=
  p.rsvd != 0 || p.len != p.data.length || p.len % 4 != 0 || decide (256 < p.len)

/-- The cycles after which an unacknowledged request is sent again (R450). -/
def resendAfter : Nat := 65536

/-- Send a request packet for an access (R449, R450). -/
def State.request (s : State) (port peer fly : Nat) (p : Packet) : State :=
  let l := s.link port peer
  let b := s.padded p.data
  let s := b.2
  let p := { p with seq := l.nextSeq, src := s.peerId, dst := peer, tag := fly % 2 ^ 32, data := b.1, len := b.1.length }
  let s := s.setLink { l with nextSeq := (l.nextSeq + 1) % 2 ^ 32, out := l.out ++ [(p.seq, p, if l.down then 8 else 0, fly)] }
  if l.down then s.schedule s.clock (.peerRetransmit port peer p.seq)
  else (s.emit port p).schedule (s.clock + resendAfter) (.peerRetransmit port peer p.seq)

/-- A blank packet of a kind. -/
def pkt (kind op addr : Nat) (data : List Byte) : Packet :=
  { kind, op, src := 0, dst := 0, seq := 0, tag := 0, addr, rsvd := 0, data }

/-- Where a routed access goes: port, peer or group, remote address, multicast-reduce, element type (R448). -/
structure Way where
  port : Nat
  dest : Nat
  addr : Nat
  mr : Bool
  etyp : Nat
  deriving DecidableEq, Repr

def State.wayOf (s : State) (pa : Nat) : Option Way :=
  (s.routeOf pa).map fun e =>
    let w0 := (FMap.getD s.routes (2 * e) 0).toNat
    let w1 := (FMap.getD s.routes (2 * e + 1) 0).toNat
    { port := fld w0 2 3, dest := fld w0 16 16, addr := fld w1 16 41 * 65536 + (pa - 0x100000000000) % 2 ^ 40,
      mr := w0.testBit 1, etyp := fld w0 8 5 }

/-- Bytes of a multicast-reduce element (R448). -/
def mrBytes (etyp : Nat) : Nat := if etyp = 0x0A then 2 else 4

/-- A list cut into pieces of n. -/
def chunks (n : Nat) : Nat → List Byte → List (List Byte)
  | 0, _ => []
  | fuel + 1, l => if l.isEmpty then [] else l.take n :: chunks n fuel (l.drop n)

/-- A lane's access to a peer goes out (R448, R449, R452): kind 10 read, 11 write, 12 atomic. -/
def State.toPeer (s : State) (f : Fly) (w : Way) : State :=
  match f.accs with
  | [] => s
  | a :: _ =>
    if f.kind = 10 then s.request w.port w.dest f.id (pkt 1 0 w.addr (toBytes 4 f.size))
    else if f.kind = 12 then
      s.request w.port w.dest f.id (pkt 4 (if f.code = 16 then 0x10 else f.code) w.addr (a.data ++ a.new))
    else if w.mr then
      let e := mrBytes w.etyp
      ((chunks e 16 a.data).zip (List.range 16)).foldl (fun s c =>
        s.request w.port w.dest f.id (pkt 8 w.etyp (w.addr + e * c.2) c.1)) s
    else s.request w.port w.dest f.id (pkt 3 0 w.addr a.data)

/-- The answer to a performed inbound request, recorded for duplicates (R450). -/
def State.answerPeer (s : State) (l : Link) (fly : Nat) (req : Packet) (result : List Byte) : State :=
  let kind := if req.kind = 1 then 2 else if req.kind = 4 then 5 else 6
  let b := s.padded result
  let s := b.2
  let p : Packet :=
    { kind, op := 0, src := s.peerId, dst := l.peer, seq := req.seq, tag := req.tag, addr := req.addr, rsvd := 0,
      data := b.1 }
  (s.setLink { l with record := l.record ++ [(req.seq, p)], inq := l.inq.filter fun q => q.1 != fly }).emit l.port p

/-- A request fails: the answer is recorded for its duplicates (R450, R451). -/
def State.nakPeer (s : State) (l : Link) (req : Packet) (reason : Nat) : State :=
  let p := { pkt 7 reason req.addr [] with src := s.peerId, dst := l.peer, seq := req.seq, tag := req.tag }
  ((s.setLink { l with record := l.record ++ [(req.seq, p)], inq := l.inq.filter fun q => q.2.seq != req.seq }).emit l.port p).count 0x708 (portStack l.port) 1

end Sys2Proof.Machine
end

