-- ==== Sys2Proof/Machine/EngineCheck.lean ====
section
/-! DEFINITION. What an engine instruction checks and captures at its issue: shape records, boxes, tiles, grafts, ranges,
and the cost behind a promise (R272 to R284, R316, R322, R396). -/

namespace Sys2Proof.Machine

/-! Tiles and element formats (R24, R76, R272, R309). -/

/-- The element type codes a tile or record may hold. -/
def codeOk (c : Nat) : Bool := decide (1 ≤ c ∧ c ≤ 12) || decide (16 ≤ c ∧ c ≤ 23)

/-- Storage bits of an element. -/
def eBits (c : Nat) (f : U32) : Nat :=
  if 16 ≤ c then (NFmt.of f).sw
  else if c = 1 ∨ c = 5 then 8
  else if c = 2 ∨ c = 6 ∨ c = 9 ∨ c = 10 then 16
  else if c = 4 ∨ c = 8 ∨ c = 12 then 64
  else 32

/-- The F register behind a code of .N. -/
def Warp.fOf (k : Warp) (c : Nat) : U32 := if 16 ≤ c then k.getF (c - 16) else 0

/-- Two codes name one format: by value for narrow ones (R272). -/
def sameFmt (a : Nat) (fa : U32) (b : Nat) (fb : U32) : Bool :=
  if 16 ≤ a ∧ 16 ≤ b then fa == fb else a == b

/-- F32, BF16 and F16. -/
def isOutFmt (c : Nat) : Bool := c == 9 || c == 10 || c == 11

/-- The IEEE format of a code. -/
def codeFmt (c : Nat) : IFmt := if c = 9 then f16 else if c = 10 then bf16 else if c = 12 then f64 else f32

/-- An element's exact value. -/
def elemVal (c : Nat) (f : U32) (p : Nat) : Exact := if 16 ≤ c then (NFmt.of f).decode p else (codeFmt c).decode p

/-- Bytes of n elements, a last part byte padded (R76). -/
def elemBytes (eb n : Nat) : Nat := ceilDiv (n * eb) 8

def TReg.rowBytes (t : TReg) (f : U32) : Nat := elemBytes (eBits t.fmt.toNat f) t.cols.toNat

/-- The end of a tile's bytes: its range, and its last row if that is longer, so that a row that runs past the allocation is
outside it (R272; DESIGN CHOICE, log 50). -/
def TReg.ending (t : TReg) (f : U32) : Nat :=
  max t.hi (t.base.toNat + (t.rows.toNat - 1) * t.pitch.toNat + t.rowBytes f)

/-- The elements of a row's bytes. -/
def unpackRow (eb n : Nat) (b : List Byte) : List Nat :=
  let v := ofBytes b
  (List.range n).map fun i => fld v (i * eb) eb

/-- The bytes of a row's elements; what the last byte, or the last group of 6-bit elements, lacks is zero (R76). -/
def packRow (eb : Nat) (es : List Nat) : List Byte :=
  toBytes (if eb = 6 then 3 * ceilDiv es.length 4 else elemBytes eb es.length) ((es.foldr (fun e a => e % 2 ^ eb + 2 ^ eb * a) 0))

/-- A tile offset under a permutation (R276). -/
def permOff (perm row o : Nat) : Nat :=
  o ^^^ ((if perm = 1 then row % 8 else if perm = 2 then row % 4 else if perm = 3 then row % 2 else 0) * 16)
def permSeg (perm : Nat) : Nat := if perm = 1 then 128 else if perm = 2 then 64 else if perm = 3 then 32 else 1

/-- The end of the permuted offsets of a tile. -/
def permEnd (t : TReg) (f : U32) (perm : Nat) : Nat :=
  let last := t.rows.toNat - 1
  (List.range (t.rowBytes f)).foldl (fun m i => max m (permOff perm last (t.base.toNat + last * t.pitch.toNat + i) + 1))
    (if perm = 0 then t.base.toNat + last * t.pitch.toNat + t.rowBytes f else 0)

/-! Shape records (R273, R274). -/

def rRank (r : Nat) : Nat := fld r 0 3
def rFmt (r : Nat) : Nat := fld r 8 5
def rPerm (r : Nat) : Nat := fld r 13 2
def rFill (r : Nat) : Nat := fld r 16 32
def rBase (r : Nat) : Nat := fld r 64 57
def rDim (r d : Nat) : Nat := fld r (128 + 32 * d) 32
def rStride (r d : Nat) : Nat := fld r (352 + 64 * (d - 1)) 64
def rBox (r d : Nat) : Nat := fld r (736 + 16 * d) 16
def rSbase (r : Nat) : Nat := fld r 848 57

/-- Reserved bits, extents and strides outside what R274 allows. -/
def rcdBad (r : Nat) (eb : Nat) (x0 : Int) : Bool :=
  let n := rRank r
  let seven := List.range 7
  let grain : Nat := if eb = 4 then 2 else if eb = 6 then 4 else 1
  let size := max 1 (eb / 8)
  n == 0 || !codeOk (rFmt r)
    || fld r 3 5 != 0 || r.testBit 15 || fld r 48 16 != 0 || fld r 121 7 != 0 || fld r 905 119 != 0
    || seven.any (fun d => (rDim r d == 0) == decide (d < n)) || seven.any (fun d => (rBox r d == 0) == decide (d < n))
    || (List.range 6).any (fun d =>
        let st := rStride r (d + 1)
        (decide (n ≤ d + 1) && st != 0) || decide (2 ^ 56 < st) || st % size != 0)
    || rBase r % size != 0
    || rDim r 0 % grain != 0 || rBox r 0 % grain != 0 || x0 % (grain : Int) != 0

/-- Tile rows of a box (R275). -/
def boxRows (r : Nat) : Nat := (List.range (rRank r - 1)).foldl (fun a d => a * rBox r (d + 1)) 1

/-- A tensor row that a tile row maps to: the address of its element 0 along dimension 0, and its first index in the packed
scale tensor times its row length (R275, R277); none where a coordinate is out of bounds. -/
def boxRow (r : Nat) (xs : List Int) (blk row : Nat) : Option (Int × Int) :=
  let step := (List.range (rRank r - 1)).foldl (fun (a : Nat × Int × Int × Nat × Bool) d0 =>
      let d := d0 + 1
      let c := xs.getD d 0 + ((a.1 % rBox r d : Nat) : Int)
      (a.1 / rBox r d, a.2.1 + c * (rStride r d : Int), a.2.2.1 + c * (a.2.2.2.1 : Int), a.2.2.2.1 * rDim r d,
        a.2.2.2.2 && decide (0 ≤ c ∧ c < (rDim r d : Int))))
    (row, (rBase r : Int), 0, rDim r 0 / blk, true)
  if step.2.2.2.2 then some (step.2.1, step.2.2.1) else none

/-- The columns of a box that are in bounds: first, and past the last. -/
def inCols (r : Nat) (x0 : Int) : Nat × Nat :=
  let lo := min (rBox r 0) (-x0).toNat
  (lo, max lo (min ((rBox r 0 : Nat) : Int) ((rDim r 0 : Nat) - x0 : Int)).toNat)

/-- A run of memory behind part of a tile row: the row, its first byte in the row, its address, its bytes. -/
structure Run where
  row : Nat
  at_ : Nat
  addr : Int
  n : Nat
  deriving DecidableEq, Repr

/-- The element data of each tile row in bounds. -/
def dataRuns (r : Nat) (x0 : Int) (eb : Nat) (rows : List (Option (Int × Int))) : List Run :=
  let c := inCols r x0
  (rows.zip (List.range rows.length)).filterMap fun p =>
    p.1.bind fun a =>
      if c.1 < c.2 then
        some ⟨p.2, c.1 * eb / 8, a.1 + (x0 + (c.1 : Int)) * (eb : Int) / 8, (c.2 - c.1) * eb / 8⟩
      else none

/-- The scale bytes of each tile row in bounds; `at_` counts blocks (R277). -/
def scaleRuns (r : Nat) (x0 : Int) (blk : Nat) (rows : List (Option (Int × Int))) : List Run :=
  let q0 := x0 / (blk : Int)
  let nb := rBox r 0 / blk
  let lo := min nb (-q0).toNat
  let hi := max lo (min (nb : Int) ((rDim r 0 / blk : Nat) - q0 : Int)).toNat
  (rows.zip (List.range rows.length)).filterMap fun p =>
    p.1.bind fun a => if lo < hi then some ⟨p.2, lo, (rSbase r : Int) + a.2 + q0 + (lo : Int), hi - lo⟩ else none

/-- A virtual address in its canonical form, if it lies in the 57-bit space (R153, R275). -/
def canon57 (a : Int) : Option Nat :=
  if 0 ≤ a ∧ a < 2 ^ 56 then some a.toNat
  else if 2 ^ 56 ≤ a ∧ a < 2 ^ 57 then some (a.toNat + 2 ^ 64 - 2 ^ 57)
  else none
def canonOr (a : Int) : Nat := (canon57 a).getD (wrapN 64 a)

/-- The bounding interval of some runs. -/
def boundOf (l : List Run) : Option (Nat × Nat) :=
  match (l.map (·.addr)).min?, (l.map fun r => r.addr + (r.n : Int)).max? with
  | some a, some b => some (canonOr a, canonOr (b - 1) + 1)
  | _, _ => none

/-! Grafts (R277, R280, R288, R316). -/

def scaleCount (t : TReg) (blk : Nat) : Nat := t.rows.toNat * t.cols.toNat / blk

/-- The lowest X register bound to a T index. -/
def Warp.lowX (k : Warp) (t : Nat) : Option Nat := firstIdx 8 fun j => (k.getX j).bnd && (k.getX j).tix.toNat == t

/-- The X registers of a tile, from one on, that are not bound to it, or whose tag is not the tile's generation. -/
def Warp.graftBad (k : Warp) (t : Nat) (gen : BitVec 12) (tagged : Bool) (j n : Nat) : Option Nat :=
  ((List.range n).map (j + ·)).find? fun i =>
    !(k.getX i).bnd || (k.getX i).tix.toNat != t || (tagged && (k.getX i).tag != gen)

/-- An X register's format differs from the narrow format's. -/
def Warp.scaleFmtBad (k : Warp) (f : U32) (j n : Nat) : Bool :=
  (List.range n).any fun i =>
    (k.getX (j + i)).sfmt != (NFmt.of f).e4m3 || (k.getX (j + i)).blk != (NFmt.of f).blk32

def Warp.takeXs (k : Warp) (j n : Nat) : List (Nat × Memory) := (List.range n).map fun i => (j + i, (k.getX (j + i)).bytes)

/-! Outcomes of the checks. -/

/-- What a promise counts (R396). -/
structure Cost where
  t : Nat := 0
  lat : Nat := 0
  f : Nat := 0
  cached : Bool := true
  /-- home stacks touched, with their levels -/
  homes : List (Nat × Nat) := []
  deriving DecidableEq, Repr

/-- The outcome of an engine instruction's checks: a trap, with NRM bit 32 or without; a walk to be made; the operation. -/
inductive Plan where
  | trap (t : Trap) (mark : Bool)
  | miss (va : Nat)
  | go (o : EOp) (k : Cost)
  deriving DecidableEq, Repr

def Ctx.ill (x : Ctx) (code : Nat) : Trap := { cause := cIllop, pc := x.pc, addr := BitVec.ofNat 64 code }
def Ctx.domTrap (x : Ctx) (a : Nat) : Trap := { cause := cDomain, pc := x.pc, addr := BitVec.ofNat 64 a }
def Ctx.staleTrap (x : Ctx) (t i : Nat) : Trap := { cause := cStaleGraft, pc := x.pc, addr := BitVec.ofNat 64 (t + 16 * i) }

/-- The first check that fails. -/
def firstTrap (l : List (Bool × Trap)) : Option Trap := (l.find? (·.1)).map (·.2)

/-- The checks of a named tile: valid, then its place (R272). -/
def Ctx.validCheck (x : Ctx) (t : TReg) : Bool × Trap := (!t.valid, x.ill 1)
def Ctx.placeCheck (x : Ctx) (s : State) (t : TReg) (f : U32) : Bool × Trap :=
  (decide ((s.wg x.c x.k.wg).scratch < t.ending f), x.domTrap t.base.toNat)

def tNo : Opd → Nat
  | .t n => n.toNat
  | _ => 0
def xNo : Opd → Nat
  | .x n => n.toNat
  | _ => 0
def sNo : Opd → Nat
  | .s n => n.toNat
  | _ => 0

/-- Bytes of a record at their place; those of a peer's memory are free (DESIGN CHOICE, log 22). -/
def State.wordsAt (s : State) (pa n : Nat) : Nat × State :=
  if (s.wayOf pa).isSome then
    ((List.range (n / 8)).foldl (fun a i => a + (Config.freeWord (s.free + i)).toNat * 2 ^ (64 * i)) 0,
      { s with free := s.free + n / 8 })
  else (s.physRead pa n, s)

/-- An address lies in a multicast-reduce window, which nothing reads (R452). -/
def State.inReduce (s : State) (pa : Nat) : Bool :=
  match s.wayOf pa with
  | some w => w.mr
  | none => false

/-- The record at an address, read at issue (R273, R274). -/
def State.shape (s : State) (x : Ctx) (va : Nat) : Except Plan Nat :=
  let addr := BitVec.ofNat 64 va
  match x.rcd with
  | some r => .ok r
  | none =>
  if va % 128 ≠ 0 then .error (.trap { cause := cMisalign, pc := x.pc, addr } false)
  else
    match s.translate x.c (s.dom x.c x.k.dslot) x.fr.walked va 0 with
    | .miss => .error (.miss va)
    | .fault cause ipa => .error (.trap { cause, pc := x.pc, addr, pa := BitVec.ofNat 64 ipa } false)
    | .zeros _ => .error (.trap (x.ill 4) true)
    | .ok pa _ _ =>
      if s.inReduce pa then .error (.trap { cause := cTranslation, pc := x.pc, addr } false)
      else if s.isLost pa then .error (.trap { cause := cMachineCheck, pc := x.pc, addr, pa := BitVec.ofNat 64 pa } false)
      else .ok (s.wordsAt pa 128).1

/-! The cost behind a promise (R396, R356). -/

/-- A sorted list without repeats. -/
def dedup : List Nat → List Nat
  | [] => []
  | [a] => [a]
  | a :: b :: r => if a = b then dedup (b :: r) else a :: dedup (b :: r)

/-- The lines of runs of virtual addresses. -/
def runLines (l : List Run) : List Nat :=
  dedup (ascending (l.flatMap fun r =>
    let a := canonOr r.addr
    if r.n = 0 then [] else (List.range ((a + r.n - 1) / 128 - a / 128 + 1)).map fun i => a / 128 + i))

/-- Distinct 1,024-byte rows of some intervals of the scratchpad. -/
def rowsOf (l : List (Nat × Nat)) : Nat :=
  (dedup (ascending (l.flatMap fun p =>
    if p.2 ≤ p.1 then [] else (List.range ((p.2 - 1) / 1024 - p.1 / 1024 + 1)).map fun i => p.1 / 1024 + i))).length

/-- a(level): what a level adds for DRAM (R396). -/
def refreshTerm (l : Nat) : Nat := if l = 0 then 128 else if l ≤ 2 then 256 else if l = 3 then 512 else 65536

/-- Where a line counts: 0 DRAM, 1 root, 2 host, 3 nowhere; its stack; and whether its translation was cached. -/
def State.lineHome (s : State) (x : Ctx) (need line : Nat) : Nat × Nat × Bool :=
  let va := line * 128
  let k := stackOf x.c
  match tlbFind (s.stack k).tlb (s.dom x.c x.k.dslot) (va % 2 ^ 57) need with
  | none => (0, k, false)
  | some t =>
    if t.kind = 3 then (3, k, true)
    else
      let pa := t.pa + (va % 2 ^ 57 - t.va)
      if s.region pa = 0 then (0, homeOf pa, true)
      else if s.region pa = 1 then (1, homeOf pa, true)
      else if s.region pa = 2 then (2, k, true)
      else (0, k, true)

def State.costOf (s : State) (x : Ctx) (lines : List (Nat × Nat)) (rows : Nat) (bare : Nat) : Cost :=
  let k := stackOf x.c
  let hs := lines.map fun p => s.lineHome x p.1 p.2
  let cnt (n : Nat) : Nat := (hs.filter fun h => h.1 == n).length
  let far (j : Nat) : Nat := if j = k then 0 else 2 * (20 + 12 * s.ringWay k j)
  let lat := hs.foldl (fun m h =>
    max m (if h.1 = 0 then 320 + far h.2.1 else if h.1 = 1 then 90 + far h.2.1 else if h.1 = 2 then 1600 else 0)) 0
  { t := max rows (cnt 0 + ceilDiv (cnt 1) 8 + 8 * cnt 2)
    lat := if lat = 0 then bare else lat
    f := hs.foldl (fun m h => if h.1 = 0 then max m (refreshTerm (s.level h.2.1)) else m) 0
    cached := hs.all fun h => h.2.2
    homes := (dedup (ascending ((hs.filter fun h => decide (h.1 ≤ 1)).map fun h => h.2.1))).map fun j => (j, s.level j) }

/-! The operation captured. -/

/-- A blank operation of an issuing instruction. -/
def Ctx.eop (x : Ctx) (s : State) (kind : Nat) (i : Instr) : EOp :=
  { kind, uid := x.k.uid, slot := x.w, frag := x.g, wg := x.k.wg, did := s.dsDid x.c x.k.dslot, dslot := x.k.dslot,
    pc := x.pc, word := (encode i).getD 0, issued := s.clock }

/-- A range: global in virtual addresses, scratchpad in the core's bytes. -/
def Ctx.range (x : Ctx) (s : State) (sp lo hi : Nat) (write : Bool) : RangeLock :=
  let base := if sp = 1 then (s.wg x.c x.k.wg).first else 0
  { op := 0, space := sp, lo := base + lo, hi := base + hi, slot := x.k.dslot, write }

def Ctx.globalRange (x : Ctx) (s : State) (sp : Nat) (write : Bool) (b : Option (Nat × Nat)) : List RangeLock :=
  match b with
  | some (lo, hi) => [x.range s sp lo hi write]
  | none => []

/-- The X registers an operation reads or writes, as ranges (R285). -/
def Ctx.xRange (x : Ctx) (j n : Nat) (write : Bool) : RangeLock :=
  { op := 0, space := 100 + x.w, lo := j, hi := j + n, slot := x.k.dslot, write }

/-! TLOAD and TSTORE (R279, R280). -/

/-- The scratchpad intervals of a tile's rows, of the columns' bytes given. -/
def tileRows (base : Nat) (t : TReg) (lo hi : Nat) (rows : List Nat) : List (Nat × Nat) :=
  rows.map fun r => (base + t.base.toNat + r * t.pitch.toNat + lo, base + t.base.toNat + r * t.pitch.toNat + hi)

def State.tensorPlan (s : State) (x : Ctx) (i : Instr) (store : Bool) (f : FmtE) : Plan :=
  match s.shape x (x.uni f.a).toNat with
  | .error p => p
  | .ok r =>
    let c := sNo f.c
    let xs := (List.range 7).map fun d => sextN 32 (fld (x.k.getS (c + d)).toNat 0 32)
    let x0 := xs.getD 0 0
    let fr := x.k.fOf (rFmt r)
    let eb := eBits (rFmt r) fr
    let ti := tNo f.b
    let t := x.k.getT ti
    let ft := x.k.fOf t.fmt.toNat
    let n := boxRows r
    let nf := NFmt.of fr
    let split := f.e.getLsbD 0
    let sc := scaleCount t nf.blk
    let nx := ceilDiv sc 1024
    let low := x.k.lowX ti
    let j := low.getD 0
    let basic := firstTrap [
      (rcdBad r eb x0, x.ill 4),
      (decide (63 < c + rRank r - 1), x.ill 0x0C),
      x.validCheck t, x.placeCheck s t ft,
      (!sameFmt t.fmt.toNat ft (rFmt r) fr, x.ill 3),
      (t.rows.toNat != n || t.cols.toNat != rBox r 0, x.ill 2),
      (t.pitch.toNat % permSeg (rPerm r) != 0 || t.base.toNat % permSeg (rPerm r) != 0, x.ill 0x0F)]
    let graft : Option Trap := firstTrap [
      (decide (rFmt r < 16) || rSbase r == 0 || rBox r 0 % nf.blk != 0 || x0 % (nf.blk : Int) != 0
        || rDim r 0 % nf.blk != 0, x.ill 5),
      (decide (8192 < sc) || (low.isSome && decide (7 < j + nx - 1)), x.ill 6),
      (low.isNone, x.staleTrap ti 15),
      ((x.k.graftBad ti t.gen store j nx).isSome, x.staleTrap ti ((x.k.graftBad ti t.gen store j nx).getD 0)),
      (x.k.scaleFmtBad fr j nx, x.ill 0x0E)]
    match basic, if split then graft else none with
    | some tr, _ | none, some tr => .trap tr false
    | none, none =>
      let sp := if f.e.getLsbD 1 then 3 else 0
      let rows := (List.range n).map (boxRow r xs nf.blk)
      let data := dataRuns r x0 eb rows
      let scales := if split then scaleRuns r x0 nf.blk rows else []
      let base := (s.wg x.c x.k.wg).first
      let touched := if store then (match data with
          | [] => []
          | d :: _ => tileRows base t d.at_ (d.at_ + d.n) (data.map (·.row)))
        else tileRows base t 0 (t.rowBytes ft) (List.range n)
      let scratch := if store && data.isEmpty then []
        else [x.range s 1 t.base.toNat (permEnd t ft (rPerm r)) (!store)]
      let need := if store then 1 else 0
      let o : EOp := { x.eop s (if store then 1 else 0) i with
        rcd := r
        svals := x.uni f.a :: (List.range (min (rRank r) (64 - c))).map fun d => x.k.getS (c + d)
        tb := t, tbi := ti, fb := ft
        xs := if split && store then x.k.takeXs j nx else []
        xw := if split && !store then (List.range nx).map (j + ·) else []
        flag := split, sp
        rng := x.globalRange s sp store (boundOf data) ++ x.globalRange s sp store (boundOf scales) ++ scratch
          ++ (if split then [x.xRange j nx (!store)] else []) }
      .go o (s.costOf x ((runLines (data ++ scales)).map fun l => (need, l)) (rowsOf touched) 24)

/-- The coordinates that TLOAD and TSTORE read: one S register for each dimension of the record (R272, R275). -/
def State.coords (s : State) (x : Ctx) : Instr → List Use
  | .tload _ f | .tstore _ f =>
    match s.shape x (x.uni f.a).toNat with
    | .ok r => [{ o := f.c, n := min (rRank r) (64 - sNo f.c) }]
    | .error _ => []
  | _ => []

/-! TGATHER and TSCATTER (R281). -/

/-- The row indices of a list in the scratchpad. -/
def indexList (b : List Byte) (n : Nat) : List Int := (unpackRow 32 n b).map (sextN 32)

/-- The tensor rows that indices name. -/
def gatherRows (r : Nat) (idx : List Int) : List (Option (Int × Int)) :=
  idx.map fun k => if 0 ≤ k ∧ k < (rDim r 1 : Int) then some ((rBase r : Int) + k * (rStride r 1 : Int), 0) else none

/-- The checks of R281 in its order; its list has T.rows entries, so that the tile is looked at before the list's place (DEDUCED,
log 26). -/
def State.gatherPlan (s : State) (x : Ctx) (i : Instr) (store : Bool) (f : FmtE) : Plan :=
  match s.shape x (x.uni f.a).toNat with
  | .error p => p
  | .ok r =>
    let c := sNo f.c
    let x0 := if c = 63 then 0 else sextN 32 (fld (x.k.getS (c + 1)).toNat 0 32)
    let off := fld (x.k.getS c).toNat 0 32
    let fr := x.k.fOf (rFmt r)
    let eb := eBits (rFmt r) fr
    let ti := tNo f.b
    let t := x.k.getT ti
    let ft := x.k.fOf t.fmt.toNat
    let n := t.rows.toNat
    match firstTrap [
      (rcdBad r eb x0 || rRank r != 2, x.ill 4),
      (off % 4 != 0, { cause := cMisalign, pc := x.pc, addr := BitVec.ofNat 64 off }),
      x.validCheck t,
      (decide ((s.wg x.c x.k.wg).scratch < off + 4 * n), x.domTrap off),
      (c == 63, x.ill 0x0C),
      x.placeCheck s t ft,
      (!sameFmt t.fmt.toNat ft (rFmt r) fr, x.ill 3),
      (t.cols.toNat != rBox r 0, x.ill 2),
      (t.pitch.toNat % permSeg (rPerm r) != 0 || t.base.toNat % permSeg (rPerm r) != 0, x.ill 0x0F)] with
    | some tr => .trap tr false
    | none =>
      let sp := if f.e.getLsbD 1 then 3 else 0
      let base := (s.wg x.c x.k.wg).first
      let data := dataRuns r x0 eb (gatherRows r (indexList (s.spRd x.c (base + off) (4 * n)) n))
      let touched := (base + off, base + off + 4 * n) :: (if store then (match data with
          | [] => []
          | d :: _ => tileRows base t d.at_ (d.at_ + d.n) (data.map (·.row)))
        else tileRows base t 0 (t.rowBytes ft) (List.range n))
      let o : EOp := { x.eop s (if store then 3 else 2) i with
        rcd := r, svals := [x.uni f.a, x.k.getS c, x.k.getS (c + 1)], tb := t, tbi := ti, fb := ft, sp
        rng := x.globalRange s sp store (boundOf data)
          ++ [x.range s 1 off (off + 4 * n) false, x.range s 1 t.base.toNat (permEnd t ft (rPerm r)) (!store)] }
      .go o (s.costOf x ((runLines data).map fun l => (if store then 1 else 0, l)) (rowsOf touched) 24)

/-! TCOPY, TFILL, XQNT (R282, R283, R322). -/

def State.tcopyPlan (s : State) (x : Ctx) (i : Instr) (f : FmtE) : Plan :=
  let a := (x.uni f.a).toNat
  let b := (x.uni f.b).toNat
  let n := (x.uni f.c).toNat
  let sp := f.e.toNat % 8
  let sp2 := fld f.e.toNat 3 3
  let size := (s.wg x.c x.k.wg).scratch
  match firstTrap [
    (a % 16 != 0 || b % 16 != 0 || n % 16 != 0, x.ill 0x0B),
    (sp == 1 && decide (size < a + n), x.domTrap a),
    (sp2 == 1 && decide (size < b + n), x.domTrap b)] with
  | some tr => .trap tr false
  | none =>
    let base := (s.wg x.c x.k.wg).first
    let lines (sp a need : Nat) : List (Nat × Nat) :=
      if sp = 1 ∨ n = 0 then [] else (List.range ((a + n - 1) / 128 - a / 128 + 1)).map fun k => (need, a / 128 + k)
    let rows (sp a : Nat) : List (Nat × Nat) := if sp = 1 then [(base + a, base + a + n)] else []
    let o : EOp := { x.eop s 4 i with
      svals := [x.uni f.a, x.uni f.b, x.uni f.c], sp, sp2
      rng := if n = 0 then [] else [x.range s sp a (a + n) false, x.range s sp2 b (b + n) true] }
    .go o (s.costOf x (lines sp a 0 ++ (lines sp2 b 1).filter fun l => sp == 1 || !((lines sp a 1).contains l))
      (rowsOf (rows sp a ++ rows sp2 b)) 24)

def State.tfillPlan (s : State) (x : Ctx) (i : Instr) (f : FmtE) : Plan :=
  let ti := tNo f.b
  let t := x.k.getT ti
  let ft := x.k.fOf t.fmt.toNat
  match firstTrap [x.validCheck t, x.placeCheck s t ft] with
  | some tr => .trap tr false
  | none =>
    let base := (s.wg x.c x.k.wg).first
    let o : EOp := { x.eop s 5 i with
      svals := [x.uni f.a], tb := t, tbi := ti, fb := ft
      rng := [x.range s 1 t.base.toNat (permEnd t ft 0) true] }
    .go o { t := rowsOf (tileRows base t 0 (t.rowBytes ft) (List.range t.rows.toNat)), lat := 8 }

def rndOf (n : Nat) : Rnd :=
  match n with
  | 1 => .rz
  | 2 => .ru
  | 3 => .rd
  | 4 => .rna
  | 5 => .sr
  | _ => .rne

def State.xqntPlan (s : State) (x : Ctx) (i : Instr) (f : FmtE) : Plan :=
  let ai := tNo f.a
  let bi := tNo f.b
  let ta := x.k.getT ai
  let tb := x.k.getT bi
  let fa := x.k.fOf ta.fmt.toNat
  let fb := x.k.fOf tb.fmt.toNat
  let blk := (NFmt.of fb).blk
  let sc := scaleCount tb blk
  let nx := ceilDiv sc 1024
  let c := xNo f.c
  match firstTrap [
    x.validCheck ta, x.validCheck tb,
    (!isOutFmt ta.fmt.toNat || decide (tb.fmt.toNat < 16), x.ill 3),
    (ta.rows != tb.rows || ta.cols != tb.cols, x.ill 2),
    (tb.cols.toNat % blk != 0, x.ill 5),
    (decide (8192 < sc) || decide (7 < c + nx - 1), x.ill 6),
    x.placeCheck s ta fa, x.placeCheck s tb fb] with
  | some tr => .trap tr false
  | none =>
    let base := (s.wg x.c x.k.wg).first
    let rows := List.range ta.rows.toNat
    let o : EOp := { x.eop s 6 i with
      ta, tai := ai, fa, tb, tbi := bi, fb, xw := (List.range nx).map (c + ·), rnd := rndOf (f.e.toNat % 8)
      rng := [x.range s 1 ta.lo ta.hi false, x.range s 1 tb.lo tb.hi true, x.xRange c nx true] }
    .go o { t := max (rowsOf (tileRows base ta 0 (ta.rowBytes fa) rows) + rowsOf (tileRows base tb 0 (tb.rowBytes fb) rows))
              (ceilDiv sc 32), lat := 24 }

/-- The checks of a copy instruction. -/
def State.copyPlan (s : State) (x : Ctx) (i : Instr) : Option Plan :=
  match i with
  | .tload _ f => some (s.tensorPlan x i false f)
  | .tstore _ f => some (s.tensorPlan x i true f)
  | .tgather _ f => some (s.gatherPlan x i false f)
  | .tscatter _ f => some (s.gatherPlan x i true f)
  | .tcopy _ f => some (s.tcopyPlan x i f)
  | .tfill _ f => some (s.tfillPlan x i f)
  | .xqnt _ f => some (s.xqntPlan x i f)
  | _ => none

/-! What an engine instruction waits for (R235, R236, R278, R287, R364). -/

/-- The ranges of an operation that go into the range-lock table. -/
def EOp.locks (o : EOp) : List RangeLock := o.rng.filter fun r => decide (r.space < 100)

/-- A copy lacks a ticket record or range-lock entries (R278, R284). -/
def State.copyFull (s : State) (x : Ctx) (i : Instr) : Bool :=
  match s.copyPlan x i with
  | some (.go o _) =>
    let k := s.core x.c
    decide (16 < k.rlocks.length + o.locks.length)
      || (decide (32 ≤ k.tickets.length) && k.tickets.all fun t => t.state != 1)
  | _ => false

/-- A register that an operation captured, and that may not change before it starts (R364). -/
def EOp.captured (o : EOp) : Reg → Bool
  | .x i => o.xs.any fun p => p.1 == i
  | .t i => (o.ta.valid && o.tai == i) || (o.tb.valid && o.tbi == i)
  | .f i => (o.ta.valid && o.ta.fmt.toNat == 16 + i) || (o.tb.valid && o.tb.fmt.toNat == 16 + i)
  | _ => false

/-- A write of an X, T or F register waits for an operation that has not started. -/
def State.captureWait (s : State) (x : Ctx) (d : Opd) : Bool :=
  (x.k.regsOf x.g d 1).any fun r => (s.core x.c).ops.any fun o => !o.started && o.uid == x.k.uid && o.captured r

/-- A matrix instruction's release: the fragment's accesses that WG covers are performed and its reads have returned; for stores
that go through its coalescing buffer, and for room there, it does not wait (DEDUCED from R339's trace, log 55); the queue
has room. -/
def State.matrixWait (s : State) (x : Ctx) : Bool :=
  decide (16 ≤ ((s.core x.c).ops.filter fun o => decide (10 ≤ o.kind) && !o.started).length)
    || (s.fly.any fun f => f.2.core == x.c && !f.2.performed && byHits f.2.by_ x.k.uid x.fr.exec.toNat 255
        && s.covers .wg f.2 && f.2.kind != 1)
    || s.readsOut x.c x.k.uid x.fr.exec.toNat

/-- The record that a word reads at its issue cannot be read yet (R273, R299). -/
def State.recordShut (s : State) (x : Ctx) (va : Nat) : Bool :=
  match s.translate x.c (s.dom x.c x.k.dslot) [] va 0 with
  | .ok pa _ _ => s.shut x.c pa
  | _ => false

/-- What an engine instruction, or a write of an X, T or F register, waits for. -/
def State.engineWaits (s : State) (x : Ctx) (i : Instr) : Bool :=
  match i with
  | .tload _ f | .tstore _ f | .tgather _ f | .tscatter _ f =>
    s.acqOut x.c x.w x.fr || s.relWait x 255 .wg || s.copyFull x i || s.recordShut x (x.uni f.a).toNat
  | .tcopy _ _ | .tfill _ _ | .xqnt _ _ => s.acqOut x.c x.w x.fr || s.relWait x 255 .wg || s.copyFull x i
  | .mwld _ _ | .mma _ _ | .mread _ _ | .mzero _ _ | .mhad _ _ | .mrelease _ _ | .mfuseNone _ _ | .mfuseNpair _ _
  | .mfuseKpair _ _ | .mfuseQuad _ _ => s.acqOut x.c x.w x.fr || s.matrixWait x
  | .tstat _ _ | .mwait _ _ => s.acqOut x.c x.w x.fr
  | .nmexp _ f | .nmred _ f =>
    s.acqOut x.c x.w x.fr || s.storesOut x.c x.k.uid x.fr.exec.toNat 255 .pk || s.recordShut x (x.uni f.a).toNat
      || (match s.translate x.c (s.dom x.c x.k.dslot) [] (x.uni f.a).toNat 0 with
          | .ok pa _ _ => !(s.nearStores x.c (quarterOf x.w) pa 64).isEmpty
          | _ => false)
  | .xmov _ f | .xadd _ f | .xsub _ f | .xmax _ f | .xmin _ f | .xcvt _ f | .xbind _ f | .xunbind _ f | .xtag _ f
  | .tdset _ f | .fmtset _ f => s.captureWait x f.d
  | .xld _ f => s.captureWait x f.d
  | _ => false

end Sys2Proof.Machine
end

