-- ==== Sys2Proof/Machine/Hold.lean ====
section
/-! DEFINITION. When a word whose fragment is otherwise free may not issue yet: interlocks and unit intervals. -/

namespace Sys2Proof.Machine

/-- The unit a word holds, and for how long: 0 the F64 path, 1 the special-function path (R97). -/
def Instr.unit : Instr → Option (Nat × Nat)
  | .fadd _ f | .fsub _ f | .fmul _ f | .ffma _ f | .fmin _ f | .fmax _ f | .fabs _ f | .fneg _ f | .fcmp _ f
  | .fclass _ f | .fscale _ f | .frnd _ f | .ffrac _ f => if f.ty = .f64 then some (0, 4) else none
  | .cvt _ f src => if f.ty = .f64 ∨ src = .f64 then some (0, 4) else none
  | .frcp _ f | .frsq _ f | .fsqrt _ f | .fexp2 _ f | .flog2 _ f | .fsin _ f | .fcos _ f | .ftanh _ f | .fdiv _ f
  | .idiv _ f | .irem _ f => some (1, if f.ty.is64 then 16 else 4)
  | _ => none

/-- A unit's first free cycle in a quarter. -/
def Core.unitFree (k : Core) (u q : Nat) : Nat := FMap.getD (if u = 0 then k.f64Free else k.sfuFree) q 0

/-- A unit is taken until a cycle. -/
def Core.takeUnit (k : Core) (u q t : Nat) : Core :=
  if u = 0 then { k with f64Free := FMap.put k.f64Free q t } else { k with sfuFree := FMap.put k.sfuFree q t }

/-- The unit interval of R97 holds a word. -/
def State.unitBusy (s : State) (i : Instr) (c w : Nat) : Bool :=
  match Instr.unit i with
  | some (u, _) => decide (s.clock < (s.core c).unitFree u (quarterOf w))
  | none => false

/-- A fragment parked in MWAIT or CWAIT has still to write a register. -/
def Warp.owed (k : Warp) (r : Reg) : Bool :=
  k.frags.any fun g => match g.2.st with
    | .parked (.mwait _ _ d) | .parked (.cwait _ d) => (k.destRegs d 1).contains r
    | _ => false

/-- A read of a warp that can set a mark in NRM has not landed; no earlier than an identity (R41, R158). -/
def State.marksOut (s : State) (uid from_ : Nat) : Bool :=
  s.loads.any fun l => l.2.uid == uid && decide (from_ ≤ l.1) && [0, 1, 2, 5, 6].contains l.2.kind
    && l.2.accs.any fun a => a.kind != 2

/-- X registers that a result or an operation on its way will bind to a tile (R308). -/
def State.soonBound (s : State) (c : Nat) (k : Warp) (t : Nat) : List Reg :=
  ((List.range 8).filter fun j =>
    (k.pend.any fun p => p.reg == .x j && p.mask.getLsbD 2 && p.uni.getLsbD 4 && p.uni.toNat % 16 == t)
      || (s.core c).ops.any fun o => o.uid == k.uid && o.xw.contains j && o.tbi == t).map Reg.x

/-- X registers that the scale stream of a word may come to use, once what is on its way has landed (R277, R308). -/
def State.soonXs (s : State) (c : Nat) (k : Warp) : Instr → List Reg
  | .tload _ f | .tstore _ f => if f.e.getLsbD 0 then s.soonBound c k (tNo f.b) else []
  | _ => []

/-- A read takes other lanes than the acting ones (R128). -/
def Sel.crosses : Sel → Bool
  | .act => false
  | .pat bp => bp != 0
  | _ => true

/-- A register with a value for each lane. -/
def Reg.perLane : Reg → Bool
  | .v _ | .rsv _ => true
  | _ => false

/-- The interlock of R41 holds a read: the register whole, or of a read of other lanes of a V register those inside the membership
(R128). -/
def Ctx.readHeld (x : Ctx) (u : Use) : Bool :=
  (x.k.regsOf x.g u.o u.n).any fun r =>
    x.k.owed r || (if u.sel.crosses && r.perLane then x.k.lockedIn r (x.readLanes u) else x.k.locked r)

/-- An interlock of R41 holds a word. -/
def State.interlocked (s : State) (i : Instr) (h : Head) (c w g : Nat) : Bool :=
  let x := Ctx.of s c w g h false
  (Instr.otherRegs i h x.k g ++ s.soonXs c x.k i).any (fun r => x.k.locked r || x.k.owed r)
    || (Instr.reads i ++ s.coords x i).any x.readHeld
    || ((Instr.allRegs i h x.k g).contains .nrm && s.marksOut x.k.uid 0)

/-- Some read of the word, its guard among them, is early (R42). -/
def State.tooEarly (s : State) (x : Ctx) (i : Instr) : Bool := x.early i || x.earlyIn (s.coords x i)

/-- Every register that a word reads: its guard, its sources, formats, what it reads without naming it (R386). -/
def State.readRegs (s : State) (x : Ctx) (i : Instr) : List Reg :=
  (Instr.guards x.h i).flatMap (fun o => x.k.regsOf x.g o 1)
    ++ (Instr.reads i ++ s.coords x i).flatMap (fun u => x.k.regsOf x.g u.o u.n)
    ++ (Instr.fmtUses i).flatMap (fun o => x.k.regsOf x.g o 1) ++ Instr.implicitReads x.k i

/-- ERET writes the registers it restores: it waits for what the handler itself has still to land there (R41, R372). -/
def State.handlerOwes (s : State) (x : Ctx) : Instr → Bool
  | .eret _ _ _ | .eretSpill _ _ _ | .eretFill _ _ _ =>
    s.marksOut x.k.uid x.k.trapId || x.k.locks.any fun l => decide (x.k.trapId ≤ l.owner) && l.reg.restored
  | _ => false

/-- A word may not issue in this cycle though its fragment is free to: interlock, unit interval, or what it waits for in
memory. A word that acts on no lane waits for nothing of its own (R20). -/
def State.held (s : State) (i : Instr) (h : Head) (c w g : Nat) : Bool :=
  s.interlocked i h c w g || s.unitBusy i c w
    || (let x := Ctx.of s c w g h false
        x.act != 0 && (s.waits x i || s.engineWaits x i || s.handlerOwes x i))

end Sys2Proof.Machine
end

