-- ==== Sys2Proof/Machine/Exec.lean ====
section
/-! DEFINITION. The issue of a word: what every instruction of the ISA has in common (R20, R21, R39, R42, R47, R93, R97,
R146, R325, R369). -/

namespace Sys2Proof.Machine

/-- How a meaning ends: go on at the next word, go to a PC, the fragment is already where it belongs, or a trap. -/
inductive Res where
  | next (s : State)
  | goto (s : State) (pc : U64)
  | gone (s : State)
  | trap (s : State) (t : Trap)
  deriving DecidableEq, Repr

/-- A trapping instruction's growth of its allocation does not survive it (R14, R146). -/
def Res.ungrown (c w alloc : Nat) : Res → Res
  | .trap s t => .trap (s.modWarp c w fun k => { k with alloc }) t
  | r => r

/-- A workgroup's first issue after its restore has come, or is waited for no longer: its replayed operations count as
issued in the cycle before, and may start (R359). -/
def State.firstIssue (s : State) (c wg : Nat) : State :=
  if (s.core c).ops.any fun o => o.wg == wg && o.again then
    (s.modCore c fun k => { k with ops := k.ops.map fun o =>
      if o.wg = wg ∧ o.again then { o with again := false, issued := s.clock - 1 } else o }).schedule s.clock .matrixOpStart
  else s

/-- The fragment issues in this cycle (R187, R188); the unit it uses is taken (R97). -/
def State.beginIssue (s : State) (i : Instr) (c w g : Nat) : State :=
  let f := s.frag c w g
  let s := s.firstIssue c (s.warp c w).wg
  let s := s.modCore c fun k =>
    let k := { k with last := FMap.put k.last (quarterOf w) (s.clock, w, g, f.promoted) }
    match Instr.unit i with
    | some (u, n) => k.takeUnit u (quarterOf w) (s.clock + n)
    | none => k
  s.modFrag c w g fun f => { f with wait := 0, promoted := false, yielded := false }

/-- The fragment goes on at a PC, no earlier than its stall count lets it (R39); DONELANES no longer apply (R160). -/
def State.advance (s : State) (c w g st : Nat) (pc : U64) : State :=
  let f := s.frag c w g
  let s := if f.replay.isSome then s.modWarp c w (fun k => { k with trap := { k.trap with done := 0 } }) else s
  let s := s.modFrag c w g fun f => { f with pc := pc, stall := s.clock + max 1 st, replay := none, walked := [], stored := 0 }
  s.startFetch c w g

/-- The end of an issue. A trap in a replayed instruction keeps the lanes already performed (DEDUCED, log 16). -/
def State.finish (s : State) (x : Ctx) : Res → State
  | .next s' => s'.advance x.c x.w x.g x.h.st.toNat (x.pc + 8)
  | .goto s' pc => s'.advance x.c x.w x.g x.h.st.toNat pc
  | .gone s' => s'
  | .trap s' t => s'.takeTrap x.c x.w x.g { t with done := t.done ||| replayMask x.k x.fr }

/-- A handler may not execute these (R369). -/
def Instr.barred : Instr → Bool
  | .call _ _ | .callx _ _ | .ret _ _ | .rgrow _ _ | .rshrink _ _ | .gcall _ _ _ | .gret _ | .launch _ _ | .cwait _ _
  | .gsync _ | .fetchwg _ _ | .exit _ _ => true
  | _ => false

/-- Engine, matrix and Trowel opcodes, and those of scales, formats and tiles (R325). -/
def Instr.engine : Instr → Bool
  | .tload _ _ | .tstore _ _ | .tgather _ _ | .tscatter _ _ | .tcopy _ _ | .tfill _ _ | .tstat _ _ | .mwld _ _
  | .mma _ _ | .mread _ _ | .mzero _ _ | .mhad _ _ | .mbatch _ _ | .mwait _ _ | .mfuseNone _ _ | .mfuseNpair _ _
  | .mfuseKpair _ _ | .mfuseQuad _ _ | .mrelease _ _ | .nmexp _ _ | .nmred _ _ | .xmov _ _ | .xadd _ _ | .xsub _ _
  | .xmax _ _ | .xmin _ _ | .xcvt _ _ | .xbind _ _ | .xunbind _ _ | .xtag _ _ | .xqnt _ _ | .xld _ _ | .xst _ _
  | .fmtset _ _ | .fmtget _ _ | .tdset _ _ | .tdget _ _ => true
  | _ => false

/-- The allocation grows to cover every window register the word names, or cannot (R146, R369). -/
def State.cover (s : State) (c w : Nat) (names : List Nat) : Option State :=
  let k := s.warp c w
  match (names.filter (16 ≤ ·)).max? with
  | none => some s
  | some n =>
    if k.handler.isSome then some s
    else
      match s.growTo c w (k.b + (n - 16)) with
      | none => none
      | some a => some (s.modWarp c w fun k => { k with alloc := a })

/-- The word acts: a pair, if either slot does (R20, R38). -/
def Ctx.actsFor (x : Ctx) : Instr → Bool
  | .pairWord _ s0 s1 => (x.slot s0).act != 0 || (x.slot s1).act != 0
  | _ => x.acts

/-- A register with an uncorrectable error is read (R386). -/
def State.badSource (s : State) (x : Ctx) (i : Instr) : Bool :=
  !x.k.bad.isEmpty && (s.readRegs x i).any x.k.bad.contains

/-- Where the error is: 1 the register pool, 2 the scale pool, 3 tiles and formats (R388). -/
def regSource : Reg → Nat
  | .x _ => 2
  | .t _ | .f _ => 3
  | _ => 1
def State.badDetail (s : State) (x : Ctx) (i : Instr) : U64 :=
  let rs := (s.readRegs x i).filter x.k.bad.contains
  BitVec.ofNat 64 (((rs.head?).map regSource).getD 1 + x.c * 2 ^ 4)

/-- The trap that a warp's next issue takes: in the fragment it names, or in the one that issues (R379, R386). -/
def State.takePending (s : State) (c w g : Nat) (p : Option Nat × TrapRec) : State :=
  let f := if (FMap.get? (s.warp c w).frags (p.1.getD g)).isSome then p.1.getD g else g
  (if f = g then s else s.startFetch c w g).takeTrap c w f p.2.toTrap

/-- Issue a word in a fragment. A trap that is due at the warp's next issue comes first (R379, R386). -/
def State.issue (s : State) (i : Instr) (h : Head) (whole : Bool) (c w g : Nat) (body : Ctx → State → Res) : State :=
  let s := s.beginIssue i c w g
  let x := Ctx.of s c w g h whole
  match x.k.pendingFail with
  | some p => (s.modWarp c w fun k => { k with pendingFail := none }).takePending c w g p
  | none =>
  if !x.actsFor i then s.finish x (.next s)
  else if s.badSource x i then s.finish x (.trap s { cause := cMachineCheck, pc := x.pc, norst := true, pa := BitVec.ofNat 64 (spPa x.c), detail := s.badDetail x i })
  else if x.k.chk && s.tooEarly x i then s.finish x (.trap s { cause := cStallShort, pc := x.pc })
  else if x.k.handler.isSome && Instr.barred i then s.finish x (.trap s { cause := cIllop, pc := x.pc, addr := 0x16 })
  else if x.k.gates != 0 && (Instr.namesXTF i || Instr.engine i) then s.finish x (.trap s { cause := cDomain, pc := x.pc })
  else if Instr.namesX i && !(s.wg c x.k.wg).scales then
    s.finish x (.trap s { cause := cIllop, pc := x.pc, addr := 0x11 })
  else
    match s.cover c w (Instr.vNames i) with
    | none => s.finish x (.trap s { cause := cWinOver, pc := x.pc })
    | some s => s.finish x ((body (Ctx.of s c w g h whole) s).ungrown c w x.k.alloc)

/-- A word of the ISA at the fragment selected to issue: held, it waits; otherwise it issues (R186). -/
def runIsa (i : Instr) (h : Head) (whole : Bool) (s : State) (body : Ctx → State → Res) :
    Host.Outcome State Fault Refusal :=
  match s.issuer with
  | none => .fault .noIssuer
  | some (c, w, g) => if s.held i h c w g then .next s else .next (s.issue i h whole c w g body)

end Sys2Proof.Machine
end

