-- ==== Sys2Proof/Machine/Frags.lean ====
section
/-! DEFINITION. Fragments, splits, the reconvergence stack, parking and waking (R141, R143, R144, R196 to R199). -/

namespace Sys2Proof.Machine

/-- The word's stall count and the end of a replay, for a fragment that stays at its PC (R39, R160). -/
def State.settle (s : State) (x : Ctx) : State :=
  let s := if x.fr.replay.isSome then s.modWarp x.c x.w (fun k => { k with trap := { k.trap with done := 0 } }) else s
  s.modFrag x.c x.w x.g fun f => { f with stall := s.clock + max 1 x.h.st.toNat, replay := none, walked := [], stored := 0 }

/-- Park the issuing fragment at its PC. -/
def State.parkFrag (s : State) (x : Ctx) (wt : Wait) : State :=
  (s.settle x).modFrag x.c x.w x.g fun f => { f with st := .parked wt, word := none, fetching := false }

/-- A parked fragment has done its instruction and goes on at the next word. -/
def State.resume (s : State) (c w g : Nat) : State :=
  let s := s.modFrag c w g fun f => { f with pc := f.pc + 8, st := .ready, stall := max f.stall s.clock, token := none }
  s.startFetch c w g

/-- A parked fragment tries the instruction at its PC again. -/
def State.retry (s : State) (c w g : Nat) : State :=
  (s.modFrag c w g fun f => { f with st := .ready, stall := max f.stall s.clock }).startFetch c w g

/-- A parked fragment's instruction raises a trap. -/
def State.trapParked (s : State) (c w g : Nat) (t : Trap) : State :=
  (s.modFrag c w g fun f => { f with st := .ready }).takeTrap c w g t

/-! Splits. -/

/-- The open splits a fragment belongs to: neither arrived nor left. -/
def Warp.openOf (k : Warp) (g : Nat) : List (Nat × Split) :=
  k.splits.filter fun p => p.2.members.contains g && !p.2.gone.contains g

/-- The innermost of some open splits: the one that no other of them names as its enclosing one (R196). -/
def innermost (l : List (Nat × Split)) : Option Nat :=
  (l.find? fun p => !(l.any fun q => q.2.outer == some p.1)).map (·.1)

/-- Whether split i lies inside split j, by the enclosing links. -/
def Warp.inside (k : Warp) (i j : Nat) : Nat → Bool
  | 0 => false
  | fuel + 1 =>
    match (FMap.get? k.splits i).bind (·.outer) with
    | none => false
    | some o => o == j || Warp.inside k o j fuel

/-- The innermost open split of a fragment with a join address (R143 case 3). -/
def Warp.joinSplit (k : Warp) (g : Nat) (pc : U64) : Option Nat :=
  let here := (k.openOf g).filter fun p => p.2.join == pc
  (here.find? fun p => !(here.any fun q => q.1 != p.1 && Warp.inside k q.1 p.1 8)).map (·.1)

/-- A split all of whose members have arrived fuses in the next cycle; one with no member left is freed (R143, R199). -/
def State.checkSplit (s : State) (c w i : Nat) : State :=
  match FMap.get? (s.warp c w).splits i with
  | none => s
  | some sp =>
    if sp.members.isEmpty then s.modWarp c w fun k => { k with splits := FMap.drop k.splits i }
    else if sp.members.all fun m => sp.gone.contains m then s.schedule (s.clock + 1) (.splitFusion c w i)
    else s

/-- A fragment leaves a split, as by exiting (R143, R144). -/
def State.leaveSplit (s : State) (c w g i : Nat) : State :=
  let s := s.modWarp c w fun k =>
    { k with splits := k.splits.map fun p =>
        if p.1 = i then (p.1, { p.2 with members := p.2.members.filter (· != g), gone := p.2.gone.filter (· != g) })
        else p }
  s.checkSplit c w i

/-- The fusion of a split (R143, R199). The fused fragment keeps the lowest entry of those that fuse (R196 names none; DESIGN
CHOICE, log 50). -/
def State.fuse (s : State) (c w i : Nat) : State :=
  let k := s.warp c w
  match FMap.get? k.splits i with
  | none => s
  | some sp =>
    if !(sp.members.all fun m => sp.gone.contains m) then s
    else
      match (List.range 9).filter (fun m => sp.members.contains m) with
      | [] => s.modWarp c w fun k => { k with splits := FMap.drop k.splits i }
      | lead :: rest =>
        let fs := (lead :: rest).map fun m => FMap.getD k.frags m {}
        let f0 := FMap.getD k.frags lead {}
        let f : Frag :=
          { f0 with
            pc := sp.join + 8
            exec := fs.foldl (fun a f => a ||| f.exec) 0
            memb := fs.foldl (fun a f => a ||| f.memb) 0
            prio := fs.foldl (fun a f => max a f.prio) 0
            age := k.age
            depth := sp.depth
            wait := 0
            promoted := false
            yielded := false
            st := .ready
            stall := fs.foldl (fun a f => max a f.stall) s.clock
            heldCall := fs.foldl (fun a f => a <|> f.heldCall) none
            heldTrap := fs.any (·.heldTrap)
            replay := none
            walked := []
            acq := (fs.flatMap (·.acq)).eraseDups }
        let drops (l : List Nat) : List Nat := l.filter fun m => !rest.contains m
        let s := s.modWarp c w fun k =>
          { k with
            frags := FMap.put (k.frags.filter fun p => !rest.contains p.1) lead f
            splits := (FMap.drop k.splits i).map fun p =>
              (p.1, { p.2 with members := drops p.2.members, gone := drops p.2.gone })
            handler := match k.handler with
              | some g => if rest.contains g then some lead else some g
              | none => none }
        s.startFetch c w lead

/-! The reconvergence stack (R197). -/

/-- Bytes of an entry in the context area and in a record (R383). -/
def Recon.bytes (r : Recon) : List Byte :=
  toBytes 8 r.target.toNat ++ toBytes 4 r.exec.toNat ++ toBytes 4 (b2n r.waiting) ++ toBytes 8 r.join.toNat
    ++ toBytes 4 r.memb.toNat ++ toBytes 4 0

/-- An entry read back. -/
def State.readRecon (s : State) (a : Nat) : Recon :=
  { target := BitVec.ofNat 64 (s.rdN a 8), exec := BitVec.ofNat 32 (s.rdN (a + 8) 4),
    memb := BitVec.ofNat 32 (s.rdN (a + 24) 4), join := BitVec.ofNat 64 (s.rdN (a + 16) 8),
    waiting := (s.rdN (a + 12) 4) % 2 == 1 }

/-- A push: the state and the cycles it holds the fragment, or none when the stack's 4,096 entries are full. The head of
`recon` is the top. -/
def State.pushRecon (s : State) (c w : Nat) (r : Recon) : Option (State × Nat) :=
  let k := s.warp c w
  if 4096 ≤ k.recon.length + k.reconOut then none
  else if k.recon.length < 32 then some (s.modWarp c w fun k => { k with recon := r :: k.recon }, 0)
  else
    match k.recon.getLast? with
    | none => none
    | some old =>
      let s := s.wr (s.runRegion c w + 32 * k.reconOut) old.bytes
      some (s.modWarp c w fun k => { k with recon := r :: k.recon.dropLast, reconOut := k.reconOut + 1 }, 40)

/-- A pop: the state and the cycles it holds the fragment. -/
def State.popRecon (s : State) (c w : Nat) : State × Nat :=
  let k := s.warp c w
  let rest := k.recon.tail
  if rest.isEmpty && k.reconOut != 0 then
    let n := min 16 k.reconOut
    let base := s.runRegion c w
    let back := (List.range n).map fun i => s.readRecon (base + 32 * (k.reconOut - 1 - i))
    (s.modWarp c w fun k => { k with recon := back, reconOut := k.reconOut - n }, 40)
  else (s.modWarp c w fun k => { k with recon := rest }, 0)

/-- MACHINE_CHECK of an instruction for which the device would read or write a lost line of the context area (R387). -/
def Ctx.lostTrap (x : Ctx) (l : Nat) : Trap := { cause := cMachineCheck, pc := x.pc, pa := BitVec.ofNat 64 l }

/-- The lost line that a push moves an entry out to, and that a pop reads entries back from. -/
def State.pushLost (s : State) (c w : Nat) : Option Nat :=
  let k := s.warp c w
  if k.recon.length < 32 ∨ 4096 ≤ k.recon.length + k.reconOut then none else s.lostIn (s.runRegion c w + 32 * k.reconOut) 32
def State.popLost (s : State) (c w : Nat) : Option Nat :=
  let k := s.warp c w
  let n := min 16 k.reconOut
  if k.recon.tail.isEmpty && n != 0 then s.lostIn (s.runRegion c w + 32 * (k.reconOut - n)) (32 * n) else none

/-- A fragment goes on at a PC after a delay, from an instruction of its own. -/
def State.advanceAfter (s : State) (x : Ctx) (delay : Nat) (pc : U64) : State :=
  let s := s.advance x.c x.w x.g x.h.st.toNat pc
  s.modFrag x.c x.w x.g fun f => { f with stall := max f.stall (s.clock + delay) }

/-- A fragment whose membership is empty: it goes on with what the reconvergence stack holds, or ends (R144). The fuel is
the number of entries the stack can hold. -/
def State.endOrGoOn (s : State) (x : Ctx) (delay : Nat) : Nat → State
  | 0 => s
  | fuel + 1 =>
    match (s.warp x.c x.w).recon with
    | [] =>
      let k := s.warp x.c x.w
      let s := s.modWarp x.c x.w fun k => { k with frags := FMap.drop k.frags x.g }
      (k.splits.filter fun p => p.2.members.contains x.g).foldl (fun s p => s.leaveSplit x.c x.w x.g p.1) s
    | top :: rest =>
      if !top.waiting then
        let s := s.modWarp x.c x.w fun k =>
          { k with recon := { top with target := top.join, exec := 0, memb := 0, waiting := true } :: rest }
        let s := s.modFrag x.c x.w x.g fun f => { f with exec := top.exec, memb := top.memb }
        s.advanceAfter x delay top.target
      else
        let p := s.popRecon x.c x.w
        if top.memb = 0 then State.endOrGoOn p.1 x (delay + p.2) fuel
        else
          let s := p.1.modFrag x.c x.w x.g fun f => { f with exec := top.exec, memb := top.memb }
          s.advanceAfter x (delay + p.2) (top.join + 8)

/-- Lanes of the issuing fragment end (R144). -/
def State.endLanes (s : State) (x : Ctx) (lanes : U32) : State :=
  let s := s.modFrag x.c x.w x.g fun f => { f with exec := f.exec &&& ~~~lanes, memb := f.memb &&& ~~~lanes }
  if (s.frag x.c x.w x.g).memb = 0 then s.endOrGoOn x 0 4097
  else s.advance x.c x.w x.g x.h.st.toNat (x.pc + 8)

/-- Lanes end, unless entries of the reconvergence stack that the fragment then goes on with cannot be read back. -/
def State.endRes (s : State) (x : Ctx) (lanes : U32) : Res :=
  match if x.fr.memb &&& ~~~lanes = 0 ∧ ((s.warp x.c x.w).recon.head?).any (·.waiting) then s.popLost x.c x.w else none with
  | some l => .trap s (x.lostTrap l)
  | none => .gone (s.endLanes x lanes)

/-- The lanes an EXIT ends: those that act, or the whole membership of a fragment with no lane in EXEC (R21, R144). -/
def Ctx.exitLanes (x : Ctx) : U32 := if x.whole then x.fr.memb else x.act

/-- The lanes in fragments of a warp; every other lane has exited or is held on the reconvergence stack. -/
def Warp.liveLanes (k : Warp) : U32 := (FMap.vals k.frags).foldl (fun a f => a ||| f.memb) 0

end Sys2Proof.Machine
end

