-- ==== Sys2Proof/Machine/Control.lean ====
section
/-! DEFINITION. Control flow, calls and register windows, special registers, sleeping, traps raised by software (R139 to
R152), and the core's own steps that go with them (R40 to R43, R188, R199). -/

namespace Sys2Proof.Machine

/-! Special registers (R139, R325). -/

/-- A column sensor of a stack as RDSPEC reads it: READING's field, sign-extended to 32 bits (R347, R352). -/
def Stack.sensor (k : Stack) (i : Nat) : U64 :=
  BitVec.ofNat 64 (wrapN 32 (sextN 16 (fld k.reading.toNat (16 * i) 16)))

/-- The special register at an index, for a warp (R139); inside a gate ARGPTR and LAUNCHID read 0 (R325). -/
def State.specReg (s : State) (c w idx : Nat) : U64 :=
  let k := s.warp c w
  let wg := s.wg c k.wg
  let gr := FMap.get? s.grids wg.grid
  let rcd := (gr.map (·.rcd)).getD 0
  let gx := max 1 (fld rcd 64 32)
  let gy := max 1 (fld rcd 96 32)
  let n (x : Nat) : U64 := BitVec.ofNat 64 x
  match idx with
  | 0x000 => n (fld rcd 64 32)
  | 0x001 => n (fld rcd 96 32)
  | 0x002 => n (fld rcd 128 32)
  | 0x004 => n (wg.lin % gx)
  | 0x005 => n (wg.lin / gx % gy)
  | 0x006 => n (wg.lin / gx / gy)
  | 0x010 => n (stackOf c)
  | 0x011 => n (c % 16 / 4)
  | 0x012 => n (c % 4)
  | 0x013 => n (quarterOf w)
  | 0x020 => n k.dslot
  | 0x021 => n (s.dsDid c k.dslot)
  | 0x030 => n (k.b + k.spilled * 2 ^ 32)
  | 0x031 => n (k.alloc + k.frames.length * 2 ^ 16 + k.spilledFrames * 2 ^ 32)
  | 0x032 => k.spillPtr
  | 0x040 => n k.trap.cause
  | 0x041 => k.trap.pc
  | 0x042 => k.trap.addr
  | 0x043 => k.trap.lanes.setWidth 64
  | 0x044 => k.trap.done.setWidth 64
  | 0x060 => (s.stack (stackOf c)).sensor 0
  | 0x061 => (s.stack (stackOf c)).sensor 1
  | 0x062 => (s.stack (stackOf c)).sensor 2
  | 0x063 => (s.stack (stackOf c)).sensor 3
  | 0x070 => n (b2n k.chk)
  | 0x080 => if k.gates = 0 then n (fld rcd 256 64) else 0
  | 0x081 => if k.gates = 0 then n wg.grid else 0
  | _ => 0

/-- A read that is no sensor's takes at least 2 cycles (R139), here at most 32, so that set-ups of the printed programs keep their
bounds (R17, R339; DESIGN CHOICE, log 11). -/
def execRdspec (h : Head) (f : FmtS) (s : State) : Host.Outcome State Fault Refusal :=
  runIsa (.rdspec h f) h false s fun x s =>
    let v := s.specReg x.c x.w f.idx.toNat
    if 0x060 ≤ f.idx.toNat ∧ f.idx.toNat ≤ 0x063 then .next (x.putLocked s f.d 40 v)
    else .next (x.putLocked (s.freeBelow 31).2 f.d (2 + (s.freeBelow 31).1) v)

def execWrspec (h : Head) (f : FmtS) (s : State) : Host.Outcome State Fault Refusal :=
  runIsa (.wrspec h f) h false s fun x s =>
    .next (s.modWarp x.c x.w fun k => { k with chk := (x.uni f.a).getLsbD 0 })

/-! Branches (R28, R141 to R143). -/

/-- A word offset from a PC. -/
def pcPlus (pc : U64) (n : Nat) (off : Nat) : U64 := BitVec.ofNat 64 (wrapN 64 ((pc.toNat : Int) + 8 * sextN n off))

/-- The lowest free split-table entry and the lowest free fragment-table entry (R196). -/
def Warp.freeSplit (k : Warp) : Option (Nat × Nat) :=
  match firstIdx 8 (fun i => (FMap.get? k.splits i).isNone), firstIdx 9 (fun i => (FMap.get? k.frags i).isNone) with
  | some i, some j => some (i, j)
  | _, _ => none

/-- A split: the taken lanes become a fragment of their own (R141). -/
def State.split (s : State) (x : Ctx) (i j : Nat) (target join : U64) : State :=
  let k := s.warp x.c x.w
  let f := s.frag x.c x.w x.g
  let mine := k.openOf x.g
  let nf : Frag :=
    { pc := target, exec := x.act, memb := x.act, prio := f.prio, age := f.age, depth := f.depth,
      stall := s.clock + max 1 x.h.st.toNat, heldTrap := false, acq := f.acq }
  let s := s.modWarp x.c x.w fun k =>
    { k with
      frags := FMap.put (FMap.put k.frags x.g { f with exec := f.exec &&& ~~~x.act, memb := f.memb &&& ~~~x.act }) j nf
      splits := FMap.put
        (k.splits.map fun p => if mine.any (·.1 == p.1) then (p.1, { p.2 with members := j :: p.2.members }) else p)
        i { join := join, depth := f.depth, members := [x.g, j], gone := [], outer := innermost mine } }
  s.startFetch x.c x.w j

def execBra (h : Head) (f : FmtB) (s : State) : Host.Outcome State Fault Refusal :=
  runIsa (.bra h f) h true s fun x s =>
    let target := pcPlus x.pc 24 f.tgt.toNat
    let join := pcPlus x.pc 23 f.jn.toNat
    if (h.g = 0 ∧ !h.gn) ∨ x.act = x.fr.exec then .goto s target
    else
      match (s.warp x.c x.w).freeSplit with
      | some (i, j) => .next (s.split x i j target join)
      | none =>
        match s.pushLost x.c x.w, s.pushRecon x.c x.w ⟨target, x.act, x.act, join, false⟩ with
        | some l, _ => .trap s (x.lostTrap l)
        | none, none => .trap s { cause := cWinOver, pc := x.pc, addr := BitVec.allOnes 64 }
        | none, some (s, delay) =>
          let s := s.modFrag x.c x.w x.g fun f => { f with exec := f.exec &&& ~~~x.act, memb := f.memb &&& ~~~x.act }
          .gone (s.advanceAfter x delay (x.pc + 8))

def execBrx (h : Head) (f : FmtA) (s : State) : Host.Outcome State Fault Refusal :=
  runIsa (.brx h f) h true s fun x s =>
    let t := x.uni f.a
    if t.toNat % 8 ≠ 0 then .trap s { cause := cMisalign, pc := x.pc, addr := t } else .goto s t

/-- The fragment arrives at a split's JOIN and leaves the splits inside it (R143 case 3). -/
def State.arrive (s : State) (x : Ctx) (i : Nat) : State :=
  let k := s.warp x.c x.w
  let inner := (k.openOf x.g).filter fun p => Warp.inside k p.1 i 8
  let s := inner.foldl (fun s p => s.leaveSplit x.c x.w x.g p.1) s
  let s := s.modWarp x.c x.w fun k =>
    { k with splits := k.splits.map fun p => if p.1 = i then (p.1, { p.2 with gone := x.g :: p.2.gone }) else p }
  let s := (s.settle x).modFrag x.c x.w x.g fun f => { f with st := .arrived i, word := none, fetching := false }
  s.checkSplit x.c x.w i

def execJoin (h : Head) (f : FmtB) (s : State) : Host.Outcome State Fault Refusal :=
  runIsa (.join h f) h true s fun x s =>
    let k := s.warp x.c x.w
    let bySplit : Res :=
      match k.joinSplit x.g x.pc with
      | none => .next s
      | some i => if ((FMap.get? k.splits i).map (·.depth)) = some x.fr.depth then .gone (s.arrive x i) else .next s
    match k.recon with
    | [] => bySplit
    | top :: rest =>
      if top.join ≠ x.pc then bySplit
      else if !top.waiting then
        let s := s.modWarp x.c x.w fun k => { k with recon := ⟨x.pc, x.fr.exec, x.fr.memb, x.pc, true⟩ :: rest }
        .goto (s.modFrag x.c x.w x.g fun f => { f with exec := top.exec, memb := top.memb }) top.target
      else
        match s.popLost x.c x.w with
        | some l => .trap s (x.lostTrap l)
        | none =>
        let p := s.popRecon x.c x.w
        let s := p.1.modFrag x.c x.w x.g fun f => { f with exec := f.exec ||| top.exec, memb := f.memb ||| top.memb }
        .gone (s.advanceAfter x p.2 (x.pc + 8))

/-! Calls and windows (R146 to R149). -/

/-- Frame records of the warp, resident and spilled. -/
def Warp.frameCount (k : Warp) : Nat := k.frames.length + k.spilledFrames

/-- Enter a callee (R147): the frame record, the slide, the target, the other fragments held until the matching RET. -/
def State.callTo (s : State) (x : Ctx) (target : U64) (n : Nat) : Res :=
  let k := s.warp x.c x.w
  if 32 ≤ k.frames.length then .trap s { cause := cWinOver, pc := x.pc }
  else
    match s.growTo x.c x.w (k.b + n + 15) with
    | none => .trap s { cause := cWinOver, pc := x.pc }
    | some a =>
      if target.toNat % 8 ≠ 0 then .trap s { cause := cMisalign, pc := x.pc, addr := target }
      else
      let s := s.modWarp x.c x.w fun k =>
        { k with
          alloc := a, b := k.b + n, frames := ⟨x.pc + 8, n, false, 0⟩ :: k.frames
          frags := k.frags.map fun p =>
            if p.1 = x.g then (p.1, { p.2 with depth := p.2.depth + 1 })
            else (p.1, { p.2 with heldCall := p.2.heldCall <|> some k.frameCount }) }
      .goto s target

def execCall (h : Head) (f : FmtB) (s : State) : Host.Outcome State Fault Refusal :=
  runIsa (.call h f) h true s fun x s => s.callTo x (pcPlus x.pc 24 f.tgt.toNat) (fld f.jn.toNat 0 7)

def execCallx (h : Head) (f : FmtI) (s : State) : Host.Outcome State Fault Refusal :=
  runIsa (.callx h f) h true s fun x s =>
    s.callTo x (x.uni f.a) (fld f.imm.toNat 0 7)

def execRet (h : Head) (f : FmtB) (s : State) : Host.Outcome State Fault Refusal :=
  runIsa (.ret h f) h true s fun x s =>
    let k := s.warp x.c x.w
    match k.frames with
    | [] =>
      if k.spilledFrames = 0 then s.endRes x x.exitLanes else .trap s { cause := cWinUnder, pc := x.pc }
    | fr :: rest =>
      if fr.gate ∧ k.spilledFrames ≠ 0 then .trap s { cause := cWinUnder, pc := x.pc }
      else if fr.gate then .trap s { cause := cGate, pc := x.pc, addr := gateAddr fr.gateNo 7 }
      else if k.b < fr.n then .trap s { cause := cWinUnder, pc := x.pc }
      else
        let s := s.modWarp x.c x.w fun k =>
          let k := { k with b := k.b - fr.n, frames := rest }
          { k with
            frags := k.frags.map fun p =>
              if p.1 = x.g then (p.1, { p.2 with depth := p.2.depth - 1 })
              else if p.2.heldCall = some k.frameCount then (p.1, { p.2 with heldCall := none }) else p }
        .goto s fr.pc

/-- A register count rounded up to units of 8 (R149). -/
def units8 (n : Nat) : Nat := ceilDiv n 8 * 8

/-- Limits are looked at before the pool (DESIGN CHOICE, log 50). -/
def execRgrow (h : Head) (f : FmtI) (s : State) : Host.Outcome State Fault Refusal :=
  runIsa (.rgrow h f) h false s fun x s =>
    let k := s.warp x.c x.w
    let n := units8 (fld f.imm.toNat 0 8)
    let share := fld (s.dslim x.c k.aslot) 8 9 * 8
    let status := if n = 0 then 0 else if share < k.alloc + n ∨ 1024 < k.alloc + n then 2
      else if s.regsFree x.c k.aslot < n then 1 else 0
    let s := if status = 0 then s.modWarp x.c x.w fun k => { k with alloc := k.alloc + n } else s
    .next (x.putLocked (s.freeLat 1).2 f.d (s.freeLat 1).1 (BitVec.ofNat 64 status))

def execRshrink (h : Head) (f : FmtI) (s : State) : Host.Outcome State Fault Refusal :=
  runIsa (.rshrink h f) h false s fun x s =>
    let k := s.warp x.c x.w
    let n := min (units8 (fld f.imm.toNat 0 8)) ((k.alloc - (k.b + 32)) / 8 * 8)
    let s := s.modWarp x.c x.w fun k =>
      { k with alloc := k.alloc - n, v := k.v.filter fun p => decide (p.1 < k.alloc - n) }
    .next (x.putLocked (s.freeLat 1).2 f.d (s.freeLat 1).1 (BitVec.ofNat 64 n))

/-! Ending, yielding, sleeping, software traps (R144, R145, R150 to R152). -/

def execExit (h : Head) (f : FmtB) (s : State) : Host.Outcome State Fault Refusal :=
  runIsa (.exit h f) h true s fun x s => s.endRes x x.exitLanes

def execYield (h : Head) (f : FmtB) (s : State) : Host.Outcome State Fault Refusal :=
  runIsa (.yield h f) h false s fun x s =>
    .next (s.modFrag x.c x.w x.g fun f => { f with yielded := true })

def execSleep (h : Head) (f : FmtI) (s : State) : Host.Outcome State Fault Refusal :=
  runIsa (.sleep h f) h false s fun x s =>
    let n := f.imm.toNat
    if n ≤ max 1 h.st.toNat then .next s
    else
      let s := s.advance x.c x.w x.g h.st.toNat (x.pc + 8)
      let s := s.modFrag x.c x.w x.g fun f => { f with st := .parked (.sleep (s.clock + n)) }
      .gone (s.schedule (s.clock + n) (.sleepExpire x.c x.w x.g))

/-- The promise of a ticket is reached (R151). -/
def promiseReached (clock : Nat) (ticket : U64) : Bool :=
  decide ((clock % 2 ^ 48 + 2 ^ 48 - fld ticket.toNat 0 48) % 2 ^ 48 < 2 ^ 47)

/-- The cycle in which a promise is first reached, from a cycle on. -/
def promiseCycle (clock : Nat) (ticket : U64) : Nat :=
  if promiseReached clock ticket then clock
  else clock + (fld ticket.toNat 0 48 + 2 ^ 48 - clock % 2 ^ 48) % 2 ^ 48

/-- A ticket's record in a workgroup, the newest that holds the id (R284). -/
def Core.ticket? (k : Core) (wg : Nat) (ticket : U64) : Option Ticket :=
  let id := fld ticket.toNat 48 16
  if id = 0 then none else k.tickets.reverse.find? fun t => t.id == id && t.wg == wg

/-- The ticket has completed; one that has retired counts as complete (R151). -/
def Core.ticketDone (k : Core) (wg : Nat) (ticket : U64) : Bool :=
  match k.ticket? wg ticket with
  | some r => r.state == 1
  | none => fld ticket.toNat 48 16 != 0

/-- Free a ticket record. -/
def Core.freeTicket (k : Core) (t : Ticket) : Core := { k with tickets := k.tickets.filter fun u => u != t }

/-- The completion test of a SLEEPUNTIL (R151, R284, R286, R397): the record it frees, and its trap. -/
def State.wakeTest (s : State) (c w g : Nat) (ticket : U64) : State × Option Trap :=
  let pc := (s.frag c w g).pc
  match (s.core c).ticket? (s.warp c w).wg ticket with
  | none => (s, none)
  | some t =>
    if t.state = 1 then (s.modCore c fun co => co.freeTicket t, none)
    else if t.state = 2 then
      (s.modCore c fun co => co.freeTicket t,
        some { cause := t.cause, pc := pc + 8, addr := t.addr, pa := t.pa, detail := t.detail })
    else (s, some { cause := cPromiseMissed, pc := pc + 8, addr := ticket })

/-- The waking of a SLEEPUNTIL: the test, and where the fragment goes. A fragment that cannot take its trap, its warp parked or
another fragment in a handler, takes it when it can; the test is not made again (DEDUCED, log 42). -/
def State.wakeUntil (s : State) (c w g : Nat) (ticket : U64) : State :=
  match s.wakeTest c w g ticket with
  | (s, none) => s.resume c w g
  | (s, some t) =>
    if (s.warp c w).parked ∨ (s.frag c w g).heldTrap then
      (s.modFrag c w g fun f => { f with missed := some t.rec_ }).schedule (s.clock + 1) (.sleepuntilWake c w g)
    else s.trapParked c w g t

def execSleepuntil (h : Head) (f : FmtA) (s : State) : Host.Outcome State Fault Refusal :=
  runIsa (.sleepuntil h f) h false s fun x s =>
    let t := x.uni f.a
    let early := f.flags.getLsbD 0
    let done := (s.core x.c).ticketDone x.k.wg t
    let s := s.parkFrag x (.promise t early)
    if promiseReached s.clock t || (early && done) then .gone (s.wakeUntil x.c x.w x.g t)
    else .gone (s.schedule (promiseCycle s.clock t) (.sleepuntilWake x.c x.w x.g))

def execTrap (h : Head) (f : FmtI) (s : State) : Host.Outcome State Fault Refusal :=
  runIsa (.trap h f) h false s fun x s =>
    .trap s { cause := fld f.imm.toNat 0 7, pc := x.pc + 8, lanes := x.act }

def execBkpt (h : Head) (f : FmtI) (s : State) : Host.Outcome State Fault Refusal :=
  runIsa (.bkpt h f) h false s fun x s =>
    .trap s { cause := cBkpt, pc := x.pc, addr := BitVec.ofNat 64 (fld f.imm.toNat 0 16) }

def execNop (h : Head) (s : State) : Host.Outcome State Fault Refusal :=
  runIsa (.nop h) h false s fun _ s => .next s

/-! The core's own steps. -/

/-- A pending result reaches its register (R40 to R43); an interlock it held ends (R41). -/
def execFixedLatencyLand (core slot id : Nat) (s : State) : Host.Outcome State Fault Refusal :=
  match s.warp? core slot with
  | none => .next s
  | some k =>
    match k.pend.find? (·.id == id) with
    | none => .next s
    | some p =>
      let s := if p.mask = 0 then s else s.landReg core slot id p.reg p.mask p.lanes p.uni
      .next (s.modWarp core slot fun k => Warp.unlock { k with pend := k.pend.filter (·.id != id) } id)

/-- A fragment passed over 1,024 times is promoted (R188). -/
def execFragmentPromotion (core slot frag : Nat) (s : State) : Host.Outcome State Fault Refusal :=
  match (s.warp? core slot).bind fun k => FMap.get? k.frags frag with
  | none => .next s
  | some f => .next (if 1024 ≤ f.wait then s.modFrag core slot frag fun f => { f with promoted := true } else s)

def execSplitFusion (core slot split : Nat) (s : State) : Host.Outcome State Fault Refusal :=
  match s.warp? core slot with
  | none => .next s
  | some _ => .next (s.fuse core slot split)

/-- A SLEEP's cycles are over (R150). -/
def execSleepExpire (core slot frag : Nat) (s : State) : Host.Outcome State Fault Refusal :=
  match (s.warp? core slot).bind fun k => FMap.get? k.frags frag with
  | none => .next s
  | some f =>
    match f.st with
    | .parked (.sleep u) =>
      if u ≤ s.clock then .next (s.modFrag core slot frag fun f => { f with st := .ready, stall := max f.stall u })
      else .next s
    | _ => .next s

/-- A promise is reached, or a ticket waited on with .EARLY has completed (R151, R397). -/
def execSleepuntilWake (core slot frag : Nat) (s : State) : Host.Outcome State Fault Refusal :=
  match (s.warp? core slot).bind fun k => FMap.get? k.frags frag with
  | none => .next s
  | some f =>
    match f.st with
    | .parked (.promise t early) =>
      if (s.warp core slot).stopped then .next s
      else
      match f.missed with
      | some r =>
        if (s.warp core slot).parked ∨ f.heldTrap then .next (s.schedule (s.clock + 1) (.sleepuntilWake core slot frag))
        else .next ((s.modFrag core slot frag fun f => { f with missed := none }).trapParked core slot frag r.toTrap)
      | none =>
      let done := (s.core core).ticketDone (s.warp core slot).wg t
      -- a copy that completes in this cycle counts (R397)
      let due := (s.core core).ops.any fun o =>
        o.started && o.occ == s.clock && decide (o.kind < 10) && o.wg == (s.warp core slot).wg
          && o.ticket == fld t.toNat 48 16
      if due then .next (s.schedule s.clock (.sleepuntilWake core slot frag))
      else if promiseReached s.clock t || (early && done) then .next (s.wakeUntil core slot frag t) else .next s
    | _ => .next s

end Sys2Proof.Machine
end

