-- ==== Sys2Proof/Machine/MemSys.lean ====
section
/-! DEFINITION. The caches, the coalescing buffers, and accesses on their way to their homes and back (R226, R233, R241 to
R252, R420 to R426, R460). -/

namespace Sys2Proof.Machine

/-- One more identity is used. -/
def State.bumpId (s : State) : State := { s with nextId := s.nextId + 1 }

/-! L1 (R247, R248, R420). -/

def l1Set (pa : Nat) : Nat := pa / 128 % 64

/-- A slot's line in a core's L1. -/
def Core.l1Find (k : Core) (slot pa : Nat) : Option L1Line := k.l1.find? fun l => l.pa == lineOf pa && l.slot == slot

/-- Drop the lines a test accepts; lines of accesses under way that it accepts do not enter (R170). -/
def State.l1Drop (s : State) (c : Nat) (p : Nat → Nat → Bool → Bool) : State :=
  let s := s.modCore c fun k => { k with l1 := k.l1.filter fun l => !(p l.pa l.slot l.own) }
  { s with fly := s.fly.map fun f =>
      (f.1, if f.2.kind = 0 ∧ f.2.core = c ∧ p f.2.pa f.2.dslot f.2.own then { f.2 with nofill := true } else f.2) }

/-- The L1 part of an acquire at a scope (R161, R170). -/
def State.acquire (s : State) (c dslot : Nat) (sc : Scope) : State :=
  if sc = .pk ∨ sc = .sy then s.l1Drop c fun _ slot own => slot == dslot && !own else s

/-- A line enters L1: in the slot's ways, over the least recently used (R247). One that may not enter still ends an older
copy of another stack's line, so that no lane reverts (R225, R229). -/
def State.l1Fill (s : State) (f : Fly) : State :=
  let k := s.core f.core
  let ways := (FMap.getD k.l1ways f.dslot []).length
  let set := k.l1.filter fun l => l.slot == f.dslot && l1Set l.pa == l1Set f.pa
  let new : L1Line :=
    { pa := f.pa, slot := f.dslot, own := f.own, data := if f.own then [] else f.data, filled := s.clock,
      at_ := f.arrives, used := s.nextId, bad := false }
  if f.nofill ∨ f.mt = 1 ∨ ways = 0 then
    match k.l1Find f.dslot f.pa with
    | some l =>
      if l.own || decide (f.arrives ≤ l.at_) then s
      else s.modCore f.core fun k => { k with l1 := k.l1.filter fun m => !(m.pa == f.pa && m.slot == f.dslot) }
    | none => s
  else
    match k.l1Find f.dslot f.pa with
    | some l =>
      if l.at_ ≤ f.arrives then
        let s := s.bumpId.modCore f.core fun k =>
          { k with l1 := new :: k.l1.filter fun m => !(m.pa == f.pa && m.slot == f.dslot) }
        if f.own then s else s.schedule (s.clock + 16384) (.l1AgeInvalidate f.core f.pa)
      else s
    | none =>
      let victim : Option Nat :=
        if set.length < ways then none
        else (set.map (·.used)).min?
      let s := s.bumpId.modCore f.core fun k =>
        { k with l1 := new :: k.l1.filter fun m => !(m.slot == f.dslot && some m.used == victim) }
      if f.own then s else s.schedule (s.clock + 16384) (.l1AgeInvalidate f.core f.pa)

/-- A line homed elsewhere has been in an L1 for 16,384 cycles (R238). -/
def execL1AgeInvalidate (core line : Nat) (s : State) : Host.Outcome State Fault Refusal :=
  .next (s.modCore core fun k =>
    { k with l1 := k.l1.filter fun l => !(l.pa == line && !l.own && decide (l.filled + 16384 ≤ s.clock)) })

/-- A line's list of bytes with some replaced. -/
def patch (data : List Byte) (bs : List (Nat × Byte)) : List Byte := bs.foldl (fun d b => d.set b.1 b.2) data

/-- A write performed at the home: other L1 copies go, the writer's is updated (R247, R248, R420). -/
def State.l1Write (s : State) (who : Option (Nat × Nat)) (pa : Nat) (bs : List (Nat × Byte)) : State :=
  let home := if s.region pa = 2 then 16 else homeOf pa
  let mine (c slot : Nat) : Bool := who == some (c, slot)
  let core (c : Nat) (k : Core) : Core :=
    if stackOf c == home then { k with l1 := k.l1.filter fun l => !(l.pa == pa && !(mine c l.slot)) }
    else
      { k with l1 := (k.l1.filter fun l => !(l.pa == pa && (who.map (·.1)) == some c && !(mine c l.slot))).map fun l =>
          if l.pa == pa && mine c l.slot then { l with data := patch l.data bs } else l }
  { s with
    cores := s.cores.map fun c => if c.2.l1.isEmpty then c else (c.1, core c.1 c.2)
    fly := s.fly.map fun f =>
      (f.1, if f.2.kind = 0 ∧ f.2.pa = pa ∧ f.2.performed ∧ !f.2.own ∧ who.map (·.1) = some f.2.core
            then { f.2 with nofill := true } else f.2) }

/-! L2 (R249, R422 to R424, DESIGN CHOICE, log 13). -/

/-- The slice and set of a DRAM address. -/
def State.sliceSet (s : State) (pa : Nat) : Nat × Nat := (s.sliceOf pa, caddrOf pa / 128 % 1024)

/-- The line at its home slice. -/
def State.l2Find (s : State) (pa : Nat) : Option L2Line := (s.stack (homeOf pa)).l2.find? fun l => l.pa == lineOf pa

def State.l2Drop (s : State) (pa : Nat) : State :=
  s.modStack (homeOf pa) fun k => { k with l2 := k.l2.filter fun l => l.pa != lineOf pa }

/-- Lines of a DID in a slice. -/
def State.l2Own (s : State) (k sl did : Nat) : List L2Line :=
  (s.stack k).l2.filter fun l => l.did == did && s.sliceOf l.pa == sl

/-- The least recently used of some lines. -/
def lruOf : List L2Line → Option L2Line
  | [] => none
  | l :: r =>
    match lruOf r with
    | none => some l
    | some m => if m.used < l.used then some m else some l

/-- Fill a line for a domain: its partition's ways, its limit, the least recently used (R422, R424). -/
def State.l2Fill (s : State) (pa did part : Nat) (shrd dirty : Bool) (mt ready : Nat) : State :=
  let k := homeOf pa
  let ss := s.sliceSet pa
  let ways := if did = 0 then List.range 24 else (s.part part).ways
  let set := (s.stack k).l2.filter fun l => s.sliceSet l.pa == ss && ways.contains l.way
  let limit := fld (s.sysReg 0x601 (1024 * (32 * k + ss.1) + did)).toNat 0 24
  let own := (s.l2Own k ss.1 did).filter fun l => ways.contains l.way
  let own := if own.isEmpty then s.l2Own k ss.1 did else own
  let full := did ≠ 0 ∧ limit ≠ 0 ∧ limit ≤ (s.l2Own k ss.1 did).length
  let mineSet := set.filter fun l => l.did == did
  let free := ways.find? fun w => !(set.any fun l => l.way == w)
  if ways = [] then s
  else
    let pick : Nat × List Nat :=
      if full then
        match lruOf mineSet with
        | some l => (l.way, [l.pa])
        | none =>
          let out := ((lruOf own).map (·.pa)).toList
          match free with
          | some w => (w, out)
          | none => match lruOf set with
            | some l => (l.way, l.pa :: out)
            | none => (0, out)
      else
        match free with
        | some w => (w, [])
        | none => match lruOf set with
          | some l => (l.way, [l.pa])
          | none => (0, [])
    let line : L2Line :=
      { pa := lineOf pa, way := pick.1, did, part, shared := shrd, dirty, used := if mt = 2 then 0 else s.nextId, ready }
    s.bumpId.modStack k fun st =>
      { st with l2 := line :: st.l2.filter (fun l => !pick.2.contains l.pa), filled := FMap.put st.filled (lineOf pa) did }

/-- A lookup at the home slice: the cycle from which the line's bytes are there, or none for a miss. A tenant that meets
another domain's line shares it or has it written back and filled anew (R423). -/
def State.l2Look (s : State) (pa did : Nat) (shrd write : Bool) : Option Nat × State :=
  match s.l2Find pa with
  | none => (none, s)
  | some l =>
    let shared := !write && l.shared && shrd
    if did = 0 ∨ l.did = did ∨ shared then
      (some l.ready, s.bumpId.modStack (homeOf pa) fun st =>
        { st with l2 := st.l2.map fun m =>
            if m.pa == l.pa then { m with used := s.nextId, dirty := m.dirty || write } else m })
    else (none, s.l2Drop pa)

/-- The end of the refresh that holds a channel, or the present cycle (R251). -/
def State.refreshed (s : State) (pa : Nat) : Nat :=
  max s.clock (FMap.getD (s.stack (homeOf pa)).refresh (s.physChan pa) 0)

/-! Lost lines (R387). -/

/-- A system-domain store in space 4 gives a lost line bytes; all 128 given, the entry goes. -/
def State.mend (s : State) (pa : Nat) (bs : List (Nat × Byte)) : State :=
  s.modStack (homeOf pa) fun k =>
    { k with lost := (k.lost.map fun l =>
        if l.1 == pa then
          (l.1, l.2.1, l.2.2.1, (bs.map (·.1)).foldl (fun a o => if a.contains o then a else o :: a) l.2.2.2)
        else l).filter fun l => decide (l.2.2.2.length < 128) }

/-! Performance at the home (R233, R460). -/

/-- An access that no fragment makes. -/
def State.plainFly (s : State) (kind core pa size did part g2 : Nat) : Fly :=
  { id := s.nextId, kind, op := 0, core, slot := 0, uid := 0, frag := 0, by_ := [], pa, accs := [], bytes := [], data := [],
    size, code := 0, arg := 0, seq := 0, left_ := s.clock, arrives := 0, back := 0, performed := false, answered := false,
    did, dslot := 0, part, g2, shrd := false, mt := 0, own := false, va := 0, phase := 0, ctx := false, nofill := true,
    slack := 15, entered := s.clock }

/-- A line write performed at the home. -/
def State.lineWrite (s : State) (who : Option (Nat × Nat)) (pa : Nat) (bs : List (Nat × Byte)) : State :=
  (bs.foldl (fun s b => s.wr (pa + b.1) [b.2]) s).l1Write who pa bs

/-- One lane of an atomic at a place read and written by the two functions: the old bytes, and the state. -/
def atomLane (code size : Nat) (a : LaneAcc) (m : Nat) : Nat := atomNew code size m (ofBytes a.data) (ofBytes a.new)

/-- The lanes of an atomic at their home line, ascending; the old values by lane. -/
def State.atomLine (s : State) (f : Fly) : State × List (Nat × Byte) :=
  f.accs.foldl (fun r a =>
    let old := r.1.rd a.pa f.size
    let new := toBytes f.size (atomLane f.code f.size a (ofBytes old))
    (r.1.lineWrite (some (f.core, f.dslot)) (lineOf a.pa)
        (new.zip (List.range f.size) |>.map fun b => (a.pa % 128 + b.2, b.1)),
      r.2 ++ (old.zip (List.range f.size)).map fun b => (16 * a.lane + b.2, b.1))) (s, [])

/-- Another access of the same lanes to their own stack. -/
def overlap (a b : List (Nat × Nat × Nat)) : Bool := a.any fun x => b.any fun y => x.1 == y.1 && (x.2.1 &&& y.2.1) != 0

/-- A write on its way to the array that another access goes to, before its place in the row port's order (R205, R225). -/
def Fly.toArray (g f : Fly) : Bool :=
  g.pa == f.pa && (((g.kind == 4 || g.kind == 5) && g.phase == 0) || (g.kind == 17 && g.code % 8 == 0))

/-- An access comes after what program order puts before it: on the issuer's stack reads after reads, writes after reads and
writes (R226, R245); anywhere else the same lane's accesses to the same line, writes after the reads and atomics issued
before them (R223, R225, R233); at the host also after every earlier posted write where it is one (R240, DEDUCED, log 9).
An inbound request waits for the earlier ones of its peer (R450). -/
def State.mustWait (s : State) (f : Fly) : Bool :=
  let out (t : Nat) (p : Fly → Bool) : Bool :=
    s.fly.any fun g => !g.2.performed && g.2.core == f.core && overlap g.2.by_ f.by_ && decide (g.1 < t) && p g.2
  let stores (t : Nat) : Bool :=
    s.fly.any fun g => !g.2.performed && g.2.core == f.core && overlap g.2.by_ f.by_ && g.2.onStack && g.2.kind == 1
      && decide (g.2.seq < t)
  let line (g : Fly) : Bool := lineOf g.pa == lineOf f.pa
  let old (g : Fly) : Bool := g.writesHere && g.kind != 1
  match f.kind with
  | 0 => out f.id fun g => (f.own && g.readsHere) || (!f.own && !g.onStack && (g.kind == 0 || g.kind == 2) && line g)
  | 1 =>
    if f.own then
      (out f.seq fun g => g.readsHere || old g)
        || s.fly.any fun g => !g.2.performed && g.2.own && g.2.kind == 1 && g.2.core == f.core
            && quarterOf g.2.slot == quarterOf f.slot && decide (g.1 < f.id)
    else out f.id fun g => !g.onStack && (g.kind == 0 || g.kind == 1 || g.kind == 2) && line g
  | 2 =>
    if f.own then (out f.id fun g => g.readsHere || old g) || stores f.id
    else out f.id fun g => !g.onStack && (g.kind == 0 || g.kind == 2) && line g
  | 9 => f.own && ((out f.id fun g => g.readsHere || old g) || stores f.id)
  | 3 => out f.id fun g => g.readsHere || g.toArray f
  | 4 | 5 | 17 => (out f.id fun g => g.readsHere || old g) || stores f.id
  | 6 | 8 => out f.id fun g => [6, 7, 8].contains g.kind && line g
  | 7 => (s.fly.any fun g => !g.2.performed && g.2.kind == 7 && decide (g.1 < f.id))
      || out f.id fun g => (g.kind == 6 || g.kind == 8) && line g
  | 15 => s.links.any fun l => l.inq.any (fun q => q.1 == f.id) && l.inq.any fun q => decide (q.1 < f.id)
  | _ => false

def State.setFly (s : State) (f : Fly) : State := { s with fly := FMap.put s.fly f.id f }
def State.dropFly (s : State) (id : Nat) : State := { s with fly := FMap.drop s.fly id }

/-- Bytes of host memory or of the device. -/
def State.anyRd (s : State) (pa n : Nat) : List Byte :=
  if s.region pa = 2 then s.hostMem.read (pa - 0x100000000000) n else s.rd pa n
def State.anyWr (s : State) (pa : Nat) (b : List Byte) : State :=
  if s.region pa = 2 then { s with hostMem := s.hostMem.write (pa - 0x100000000000) b }
  else (b.zip (List.range b.length)).foldl (fun s x => s.lineWrite none (lineOf (pa + x.2)) [((pa + x.2) % 128, x.1)]) s

/-- The package slice of an address. -/
def State.pkgSlice (s : State) (pa : Nat) : Nat := 32 * homeOf pa + s.sliceOf pa

/-- A warp's access has failed for good: MACHINE_CHECK of the instruction that made it, in its fragment if that is still there,
with the line's loss or the uncontained source as its detail (R366, R388, DEDUCED, log 38). -/
def State.failWarp (s : State) (c w : Nat) (b : StoreBy) (pa : Nat) : State :=
  let k := s.warp c w
  let g := if (FMap.get? k.frags b.frag).isSome then b.frag else ((k.frags.head?).map (·.1)).getD 0
  if k.parked ∨ k.frags.isEmpty then s
  else
    let gone := (s.stack (homeOf pa)).lost.any fun l => l.1 == lineOf pa
    s.takeTrap c w g
      { cause := cMachineCheck, pc := b.pc, addr := b.va, pa := BitVec.ofNat 64 pa
        detail := BitVec.ofNat 64 (if gone then s.lostDetail pa else 0xF + s.pkgSlice pa * 2 ^ 4) }

/-- An access under way fails (R387, R435, R440): a load's or atomic's warp, each warp whose stores it carries, the peer that
asked for it; the host reads ones; an engine, a walk or a unit finds its line gone. -/
def State.failFly (s : State) (f : Fly) : State :=
  let s := s.dropFly f.id
  match FMap.get? s.loads f.op with
  | some op =>
    let s : State := { s with loads := FMap.drop s.loads op.id }
    if (s.warp op.core op.slot).uid ≠ op.uid then s
    else (s.modWarp op.core op.slot fun k => k.unlock op.id).failWarp op.core op.slot ⟨op.uid, op.frag, op.pc, f.va⟩ f.pa
  | none =>
    match s.links.find? fun l => l.inq.any fun q => q.1 == f.id with
    | some l =>
      match l.inq.find? fun q => q.1 == f.id with
      | some (_, p) => s.nakPeer l p 4
      | none => s
    | none =>
      if f.kind = 13 then { s with hostGot := s.hostGot ++ [(f.pa, List.replicate f.size 0xFF)] }
      else if f.kind = 18 then s.schedule s.clock (.pageWalk f.op)
      else
        (s.core f.core).warps.foldl (fun s w =>
          match f.from_.find? fun b => b.uid == w.2.uid with
          | some b => s.failWarp f.core w.1 b f.pa
          | none => s) s

/-- An access meets a lost line, to which only a system-domain store in space 4 gives bytes (R387). -/
def State.meetsLost (s : State) (f : Fly) : Bool :=
  !f.ctx && decide (s.region f.pa ≤ 1)
    && (List.range (ceilDiv (f.pa % 128 + max 1 f.size) 128)).any fun i => s.isLost (lineOf f.pa + 128 * i)

/-- The bits of a byte that a system-domain store in space 4 may write: of the park records only state and res (R373, R418). -/
def State.ctxBits (s : State) (a : Nat) : Nat :=
  let base := (s.cores.map fun c => s.dsCtx c.1 0).find? fun b => b != 0 && decide (b ≤ a) && decide (a < b + 16384)
  match base with
  | none => 0xFF
  | some b => if (a - b) % 64 = 3 then 0x30 else if (a - b) % 64 = 40 then 7 else 0

/-- What such a store leaves of its bytes. -/
def State.ctxBytes (s : State) (pa : Nat) (l : List (Nat × Byte)) : List (Nat × Byte) :=
  l.map fun b =>
    let m := BitVec.ofNat 8 (s.ctxBits (pa + b.1))
    (b.1, (b.2 &&& m) ||| (BitVec.ofNat 8 (s.rdN (pa + b.1) 1) &&& ~~~m))

/-- An access is performed at its home line; at a lost line it fails. -/
def State.perform (s : State) (f : Fly) : State :=
  if s.meetsLost f then s.failFly f
  else
  match f.kind with
  | 0 =>
    (s.setFly { f with data := s.rd f.pa 128, performed := true, arrives := s.clock }).schedule (s.clock + f.back)
      (.lineRequestAnswer f.id)
  | 1 =>
    let s := s.lineWrite (some (f.core, f.dslot)) f.pa (if f.ctx then s.ctxBytes f.pa f.bytes else f.bytes)
    (if f.ctx then s.mend f.pa f.bytes else s).dropFly f.id
  | 2 =>
    let r := s.atomLine f
    if f.op = 0 then r.1.dropFly f.id
    else
      (r.1.setFly { f with bytes := r.2, performed := true }).schedule (s.clock + f.back) (.lineRequestAnswer f.id)
  | 9 => s.schedule s.clock (.barrierWordOperation f.id)
  | 13 => ({ s with hostGot := s.hostGot ++ [(f.pa, s.rd f.pa f.size)] } : State).dropFly f.id
  | 14 =>
    (if f.accs.isEmpty then s.anyWr f.pa (f.bytes.map (·.2))
     else f.accs.foldl (fun s a =>
       s.anyWr f.pa (toBytes f.size (atomLane f.code f.size a (ofBytes (s.anyRd f.pa f.size))))) s).dropFly f.id
  | 18 =>
    if f.op = 0 then s.dropFly f.id
    else
    (s.setFly { f with data := s.rd f.pa f.size, performed := true }).schedule (s.clock + f.back) (.pageWalk f.op)
  | 15 =>
    match s.links.find? fun l => l.inq.any fun q => q.1 == f.id with
    | none => s.dropFly f.id
    | some l =>
      match (l.inq.find? fun q => q.1 == f.id) with
      | none => s
      | some (_, p) =>
        if p.kind = 1 then (s.answerPeer l f.id p (s.anyRd f.pa f.size)).dropFly f.id
        else if p.kind = 4 then
          let old := s.anyRd f.pa f.size
          let new := f.accs.flatMap fun a => toBytes f.size (atomLane f.code f.size a (ofBytes old))
          ((s.anyWr f.pa new).answerPeer l f.id p old).dropFly f.id
        else ((s.anyWr f.pa (f.bytes.map (·.2))).answerPeer l f.id p []).dropFly f.id
  | _ => s.dropFly f.id

/-! The slice port (R425, R426, R434). -/

/-- Bytes a request costs (R425); an engine's request names its own. -/
def Fly.cost (f : Fly) : Nat :=
  match f.kind with
  | 18 => f.arg
  | 0 | 13 => 128
  | 1 => if f.bytes.length = 128 then 128 else 64
  | 15 => if f.code = 99 then 128 else if f.size = 128 then 128 else 64
  | _ => 64

/-- The bucket of a DID at a slice: present level in 1/1,024 byte, if it is metered. -/
def State.bucketReg (s : State) (p did : Nat) : Nat := (s.sysReg 0x600 (1024 * p + did)).toNat
def bRate (r : Nat) : Nat := fld r 0 32
def bDepth (r : Nat) : Nat := fld r 32 30 * 1024
def bEl (r : Nat) : Bool := r.testBit 62
def State.metered (s : State) (p did : Nat) : Bool := did != 0 && (s.bucketReg p did).testBit 63

/-- A bucket as of now: refilled, its borrowing window begun anew where one begins. -/
def State.bucket (s : State) (p did : Nat) : Bucket :=
  let r := s.bucketReg p did
  let b := FMap.getD s.buckets (1024 * p + did)
    { level := bDepth r, at_ := s.clock, lastReq := none, window := s.clock / 1024, borrowed := 0 }
  let b := { b with level := min (bDepth r) (b.level + bRate r * (s.clock - b.at_)), at_ := s.clock }
  if b.window = s.clock / 1024 then b else { b with window := s.clock / 1024, borrowed := 0 }

def State.setBucket (s : State) (p did : Nat) (b : Bucket) : State :=
  { s with buckets := FMap.put s.buckets (1024 * p + did) b }

/-- A request arrives at its slice's port. -/
def State.enterPort (s : State) (f : Fly) : State :=
  let p := s.pkgSlice f.pa
  let q := FMap.getD s.portQ p []
  let r : PortReq := { fly := f.id, did := f.did, cost := f.cost, born := f.entered, slack := f.slack, aged := false }
  let s := if s.metered p f.did then s.setBucket p f.did { s.bucket p f.did with lastReq := some s.clock } else s
  let s := { s with portQ := FMap.put s.portQ p (q ++ [r]) }
  if q.isEmpty then s.schedule s.clock (.bucketAdmit p) else s

/-- DIDs that have a bucket at a port or stand enabled there, in ascending order. -/
def State.lenders (s : State) (p : Nat) : List Nat :=
  (s.sys.filter fun r => decide (sysKey 0x600 (1024 * p) ≤ r.1) && decide (r.1 < sysKey 0x600 (1024 * p + 1024))
    && r.2.getLsbD 63).map fun r => r.1 - sysKey 0x600 (1024 * p)

/-- The lender of a request (R426). -/
def State.lender (s : State) (p did : Nat) : Option Nat :=
  (s.lenders p).find? fun d =>
    let b := s.bucket p d
    d != did && d != 0 && (match b.lastReq with | none => true | some t => decide (t + 256 < s.clock))
      && decide (bDepth (s.bucketReg p d) / 2 < b.level)

/-- Pay for a request: the state after it, or none when its DID's bucket and a lender cannot (R425, R426). -/
def State.pay (s : State) (p : Nat) (r : PortReq) : Option State :=
  if !s.metered p r.did then some s
  else
    let b := s.bucket p r.did
    let n := r.cost * 1024
    if n ≤ b.level then some (s.setBucket p r.did { b with level := b.level - n })
    else if !(bEl (s.bucketReg p r.did)) then none
    else
      match s.lender p r.did with
      | none => none
      | some d =>
        let l := s.bucket p d
        let short := n - b.level
        if bDepth (s.bucketReg p d) / 2 + short ≤ l.level
            ∧ b.borrowed + short ≤ bRate (s.bucketReg p r.did) * 1024 then
          some ((s.setBucket p r.did { b with level := 0, borrowed := b.borrowed + short }).setBucket p d
            { l with level := l.level - short })
        else none

/-- A request that is admitted at once pays at its slice's port, unless its domain's queue there holds one (R395, R425); the
root SRAM has no bucket. -/
def State.engPay (s : State) (pa did cost : Nat) : Option State :=
  if s.region pa ≠ 0 ∨ !s.metered (s.pkgSlice pa) did then some s
  else if (FMap.getD s.portQ (s.pkgSlice pa) []).any fun r => r.did == did then none
  else
    let p := s.pkgSlice pa
    let s := s.setBucket p did { s.bucket p did with lastReq := some s.clock }
    s.pay p { fly := 0, did, cost, born := s.clock, slack := 15, aged := false }

/-- A line for an engine, a walk or a fetch: the cycle from which its home has its bytes, with the fill that a miss makes
(R249, R251, R423, R460). -/
def State.engLine (s : State) (pa did part : Nat) (shrd write : Bool) (mt : Nat) : Nat × State :=
  if !(s.homeReady pa) then (s.clock + 1, s)
  else if s.region pa ≠ 0 then (s.clock, s)
  else
    match s.l2Look (lineOf pa) did shrd write with
    | (some t, s) => (t, s)
    | (none, s) =>
      if 4 ≤ s.level (homeOf pa) then (s.nextSample, s)
      else
        let t := s.refreshed pa + 200
        (t, s.l2Fill (lineOf pa) did part shrd write mt t)

/-- An access joins a migration's queue. -/
def State.holdFly (s : State) (mig id : Nat) : State :=
  { s with migs := s.migs.map fun g => if g.1 = mig then (g.1, { g.2 with held := g.2.held ++ [id] }) else g }

/-- What a migration held and sent on is performed in the queue's order (R269). -/
def State.queuedBehind (s : State) (f : Fly) : Bool :=
  s.migs.any fun m => m.2.phase == 4 && m.2.held.contains f.id
    && (m.2.held.takeWhile (· != f.id)).any fun i => match FMap.get? s.fly i with
      | some g => !g.performed
      | none => false

/-- A home slice's own write of bytes of one line; a migration's hold takes it into its queue (R269). -/
def State.homePut (s : State) (pa : Nat) (b : List Byte) : State :=
  match s.holder pa with
  | some m =>
    let f := { s.plainFly 14 0 pa b.length 0 64 0 with bytes := (List.range b.length).zip b }
    (s.bumpId.setFly f).holdFly m f.id
  | none => s.lineWrite none (lineOf pa) ((b.zip (List.range 128)).map fun p => (pa - lineOf pa + p.2, p.1))

/-- An access whose line is at hand is performed when what program order and a migration's queue put before it has been. -/
def State.performNext (s : State) (f : Fly) : State :=
  if s.mustWait f || s.queuedBehind f then (s.setFly { f with phase := 2 }).schedule (s.clock + 1) (.homeArrival f.id) else s.perform f

/-- A lookup of an admitted access at its slice: a hit is performed when its line's bytes are there, a miss reads DRAM;
a store of a whole line reads nothing (R249, R251, R460, DESIGN CHOICE, log 9). -/
def State.atSlice (s : State) (f : Fly) : State :=
  let write := f.kind != 0 && f.kind != 13 && f.code != 99
  let lines := ((List.range (ceilDiv (f.pa % 128 + f.size) 128)).map fun i => lineOf f.pa + 128 * i)
  let looks := lines.foldl (fun (r : Nat × List Nat × State) l =>
    match r.2.2.l2Look l f.did f.shrd write with
    | (some t, s) => (max r.1 t, r.2.1, s)
    | (none, s) => (r.1, l :: r.2.1, s)) (s.clock, [], s)
  let s := looks.2.2
  if looks.2.1.isEmpty then
    if looks.1 ≤ s.clock then s.performNext f
    else (s.setFly { f with phase := 2 }).schedule looks.1 (.homeArrival f.id)
  else if 4 ≤ s.level (homeOf f.pa) then
    (s.setFly f).schedule ((s.clock / 4096 + 1) * 4096) (.homeArrival f.id)
  else
    let whole := f.kind = 1 ∧ f.bytes.length = 128 ∨ f.kind = 18 ∧ f.code ≠ 99 ∧ f.size = 128 ∧ f.pa % 128 = 0
    let t := if whole then s.clock else max looks.1 (s.refreshed f.pa + 200)
    let s := looks.2.1.foldl (fun s l => s.l2Fill l f.did f.part f.shrd write f.mt t) s
    (s.setFly { f with phase := 2 }).schedule t (.homeArrival f.id)

/-! Leaving and arriving. -/

/-- A request that comes in by the host's port or a peer's, not from a core (R432). -/
def Fly.ext (f : Fly) : Bool := f.kind == 13 || f.kind == 15 || f.kind == 14 && f.arg == 1

/-- Half the figure of an access's path at its home (R460). -/
def State.halfPath (s : State) (pa : Nat) : Nat := if s.region pa = 1 then 45 else 60

/-- A device access sets out: it may wait for a way over the ring (R252, R439, R460). -/
def State.launchFly (s : State) (f : Fly) : State :=
  let k := stackOf f.core
  if !(s.routable f.core f.pa f.ext) then (s.setFly { f with phase := 9 }).schedule (s.clock + 1) (.homeArrival f.id)
  else if s.clock < s.netOpen k then (s.setFly { f with phase := 5 }).schedule (s.netOpen k) (.homeArrival f.id)
  else
  match s.ringDist k (homeOf f.pa) with
  | none => (s.setFly { f with phase := 5 }).schedule (s.clock + 1) (.homeArrival f.id)
  | some d =>
    let t := s.halfPath f.pa + hopCost d
    (s.setFly { f with phase := 0, arrives := f.left_ + t, back := t, entered := f.left_ }).schedule (f.left_ + t)
      (.homeArrival f.id)

/-! Line requests of engines, walks, units and the device itself (R257, R302, R395, R425, R434, R460). -/

/-- A request for part of one line: address, bytes, whether it writes, how the line is to be kept, its virtual address. -/
structure EngReq where
  pa : Nat
  n : Nat
  write : Bool
  shrd : Bool
  mt : Nat
  va : Nat := 0
  deriving DecidableEq, Repr

/-- Who asks: its identity, the core or unit it sets out from, its domain. -/
structure Asker where
  owner : Nat
  core : Nat
  dom : Dom
  deriving DecidableEq, Repr

/-- The request of an owner for a line, on its way or performed. -/
def State.tokenOf (s : State) (owner : Nat) (q : EngReq) : Option Fly :=
  (s.fly.find? fun f => f.2.kind == 18 && f.2.op == owner && f.2.pa == q.pa && f.2.code == (if q.write then 0 else 99)).map (·.2)

/-- A line request sets out, at the lowest rank (R434). -/
def State.sendToken (s : State) (a : Asker) (q : EngReq) (cost : Nat) : State :=
  s.bumpId.launchFly { s.plainFly 18 a.core q.pa q.n a.dom.did (a.dom.part.getD 0) a.dom.g2 with
    op := a.owner, code := if q.write then 0 else 99, arg := cost, shrd := q.shrd, mt := q.mt, va := BitVec.ofNat 64 q.va
    dslot := a.dom.dslot, own := homeOf q.pa == stackOf a.core }

/-- An owner's requests for lines: those not yet asked for set out; whether all have been performed. -/
def State.askLines (s : State) (a : Asker) (l : List (EngReq × Nat)) : Bool × State :=
  l.foldl (fun (r : Bool × State) q =>
    match r.2.tokenOf a.owner q.1 with
    | some f => (r.1 && f.performed, r.2)
    | none => (false, r.2.sendToken a q.1 q.2)) (true, s)

/-- An owner's requests are done with. -/
def State.dropLines (s : State) (owner : Nat) : State :=
  { s with fly := s.fly.filter fun f => !(f.2.kind == 18 && f.2.op == owner) }

/-- The bytes a performed read of an owner brought; what memory has where none was made. -/
def State.tokenData (s : State) (owner : Nat) (q : EngReq) (n : Nat) : List Byte :=
  match s.tokenOf owner q with
  | some f => f.data.take n
  | none => s.rd q.pa n

/-- The cycles that the answers to an owner's requests take on their way back (R250). -/
def State.tokenBack (s : State) (owner : Nat) : Nat :=
  (s.fly.map fun f => if f.2.kind = 18 ∧ f.2.op = owner then f.2.back else 0).foldl max 0

/-- A device read sets out: its L1 first (R247, R256). -/
def State.launchRead (s : State) (f : Fly) : State :=
  let reread := s.fly.any fun g => g.2.kind == 0 && g.2.pa == f.pa && g.2.core == f.core && overlap g.2.by_ f.by_
  if f.mt ≠ 1 ∧ ((s.core f.core).l1Find f.dslot f.pa).isSome ∧ (f.own ∨ !reread) then
    (s.setFly { f with phase := 3, arrives := f.left_, back := 30 }).schedule f.left_ (.homeArrival f.id)
  else s.launchFly f

/-- A read that found its line in L1 (R250). -/
def State.readL1 (s : State) (f : Fly) : State :=
  match (s.core f.core).l1Find f.dslot f.pa with
  | none => s.launchFly { f with left_ := s.clock }
  | some l =>
    let s := s.bumpId.modCore f.core fun k =>
      { k with l1 := k.l1.map fun m => if m.pa == l.pa && m.slot == l.slot then { m with used := s.nextId } else m }
    (s.setFly { f with data := if f.own then s.rd f.pa 128 else l.data, performed := true, nofill := true }).schedule
      (s.clock + f.back) (.lineRequestAnswer f.id)

/-- An access still waits for one that program order puts before it and that no migration's queue holds. -/
def State.waitsUnheld (s : State) (f : Fly) : Bool :=
  let held := s.migs.flatMap fun m => m.2.held
  State.mustWait { s with fly := s.fly.filter fun g => !(held.contains g.1) } f

/-- A device access at its home: a migration that holds its page queues it as it arrives, after what program order puts before
it (R226, R269, R270). -/
def State.atHome (s : State) (f : Fly) : State :=
  match if f.phase = 3 ∨ f.kind = 18 ∧ f.op = 0 then none else s.holder f.pa with
  | some m => if s.waitsUnheld f then s.schedule (s.clock + 1) (.homeArrival f.id) else s.holdFly m f.id
  | none =>
    if f.phase = 3 then (if s.mustWait f then s.schedule (s.clock + 1) (.homeArrival f.id) else s.readL1 f)
    else if !(s.homeReady f.pa) then s.schedule (s.clock + 1) (.homeArrival f.id)
    else if s.region f.pa = 1 ∨ s.region f.pa = 2 ∨ f.phase = 2 then s.performNext f
    else if f.phase = 1 then s.atSlice f
    else s.enterPort f

/-! The bank array's accesses (R205 to R207). -/

/-- One lane of a scratchpad access is performed. -/
def State.bankLane (s : State) (f : Fly) (a : LaneAcc) : State × List (Nat × Byte) :=
  let tag (l : List Byte) := (l.zip (List.range l.length)).map fun b => (16 * a.lane + b.2, b.1)
  if f.kind = 3 then (s, tag (s.spRd f.pa a.pa f.size))
  else if f.kind = 4 then (s.spWr f.pa a.pa a.data, [])
  else
    let old := s.spRd f.pa a.pa f.size
    (s.spWr f.pa a.pa (toBytes f.size (atomLane f.code f.size a (ofBytes old))), tag old)

/-- The intervals of an allocation that an access writes. -/
def Fly.intervals (f : Fly) (first : Nat) : List (Nat × Nat) := f.accs.map fun a => (a.pa - first, a.pa - first + f.size)

/-- The row port has moved its row or pass of a cycle, or a matrix operation has that cycle (R205, R291). -/
def Core.rowBusy (k : Core) (t : Nat) : Bool := decide (t < k.rowFree) || k.rowTaken.contains t

/-- The row port moves something in this cycle. -/
def State.rowUse (s : State) (c : Nat) : State := s.modCore c fun k => { k with rowFree := s.clock + 1 }

/-- The passes of this cycle (R162, R206, R207). `arrives` is the first pass's cycle. A remote access whose workgroup has
gone takes its passes without effect. -/
def State.bankPass (s : State) (f : Fly) (remote : Bool) : State :=
  let p := s.clock - f.arrives
  let s := if remote then s.rowUse f.pa else s
  let here := (FMap.get? (s.core f.pa).wgs f.arg).isSome
  let first := (s.wg f.pa f.arg).first
  let s := if p = 0 ∧ f.kind ≠ 3 ∧ here then s.modCore f.pa fun k => k.bumpTiles f.arg (f.intervals first) else s
  let r := if here then
      (f.accs.filter fun a => a.pass == p).foldl (fun (r : State × List (Nat × Byte)) a =>
        let q := r.1.bankLane f a
        (q.1, r.2 ++ q.2)) (s, [])
    else (s, [])
  let s := r.1
  let last := (f.accs.map (·.pass)).foldl max 0
  let f := { f with bytes := f.bytes ++ r.2, phase := 4 }
  if p < last then
    if remote then (s.setFly f).scheduleLate (s.clock + 1) (.homeArrival f.id)
    else (s.setFly f).schedule (s.clock + 1) (.homeArrival f.id)
  else if f.op = 0 then s.dropFly f.id
  else
    let s := s.setFly { f with performed := true }
    if remote then s.schedule (s.clock + f.back) (.lineRequestAnswer f.id)
    else s.schedule (s.clock + f.back) (.space1LoadReturn f.op)

/-- An own-core scratchpad access takes the SIMT port (R181, R182): first pass, and what follows. -/
def State.simtAccess (s : State) (f : Fly) (passes : Nat) : State :=
  let t := max s.clock (s.core f.pa).simtFree
  let s := s.modCore f.pa fun k => { k with simtFree := t + passes }
  let f := { f with arrives := t, back := 24, phase := 4 }
  if t = s.clock then s.bankPass f false else (s.setFly f).schedule t (.homeArrival f.id)

/-- A remote scratchpad access arrives and takes the row port in arrival order (R205, R460), once what program order puts
before it has been performed (R226). -/
def State.bankArrival (s : State) (f : Fly) : State :=
  if s.mustWait f then s.schedule (s.clock + 1) (.homeArrival f.id)
  else (s.setFly { f with arrives := s.clock, phase := 6 }).scheduleLate s.clock (.homeArrival f.id)

/-- What has arrived takes the row port in its turn: while it is busy, a cycle later (R205). -/
def State.rowTurn (s : State) (f : Fly) (go : State) : State :=
  if (s.core f.pa).rowBusy s.clock then (s.setFly { f with arrives := f.arrives + 1 }).scheduleLate (s.clock + 1) (.homeArrival f.id)
  else go

/-- A remote scratchpad access sets out (R250, R460). -/
def State.launchBank (s : State) (f : Fly) : State :=
  (s.setFly { f with phase := 0, arrives := f.left_ + 30, back := 30 }).schedule (f.left_ + 30) (.homeArrival f.id)

/-! Host memory (R169, R240, R266). -/

/-- Bytes of the host's memory at a host-window address. -/
def State.hostRd (s : State) (pa n : Nat) : List Byte := s.hostMem.read (pa - 0x100000000000) n
def State.hostWr (s : State) (pa : Nat) (b : List Byte) : State :=
  { s with hostMem := s.hostMem.write (pa - 0x100000000000) b }

/-- A read, posted write or AtomicOp reaches the host; its answer comes after a time the spec leaves open (DESIGN CHOICE, log 2). -/
def State.atHost (s : State) (f : Fly) : State :=
  if s.mustWait f then s.schedule (s.clock + 1) (.homeArrival f.id)
  else
    let lat := s.freeLat 1
    match f.kind with
    | 6 =>
      (lat.2.setFly { f with data := s.hostRd f.pa 128, performed := true, nofill := true }).schedule
        (s.clock + lat.1) (.lineRequestAnswer f.id)
    | 7 => (f.accs.foldl (fun s a => s.hostWr a.pa a.data) s).dropFly f.id
    | _ =>
      let r := f.accs.foldl (fun (r : State × List (Nat × Byte)) a =>
        let old := r.1.hostRd a.pa f.size
        (r.1.hostWr a.pa (toBytes f.size (atomLane f.code f.size a (ofBytes old))),
          r.2 ++ (old.zip (List.range f.size)).map fun b => (16 * a.lane + b.2, b.1))) (lat.2, [])
      if f.op = 0 then r.1.dropFly f.id
      else (r.1.setFly { f with bytes := r.2, performed := true }).schedule (s.clock + lat.1) (.lineRequestAnswer f.id)

/-- An access to a port fails, waits or goes, as its way through the package lets it (R252, R435, R439). -/
def State.launchOut (s : State) (f : Fly) (go : State → Fly → State) : State :=
  let t := s.wayFrom (stackOf f.core) f.pa
  if !(s.routable f.core f.pa f.ext) then (s.setFly { f with phase := 9 }).schedule (s.clock + 1) (.homeArrival f.id)
  else if s.clock < t then (s.setFly { f with phase := 5 }).schedule t (.homeArrival f.id)
  else go s { f with phase := 0 }

/-- An access to host memory sets out. -/
def State.launchHost (s : State) (f : Fly) : State :=
  s.launchOut f fun s f =>
    let lat := s.freeLat 1
    let t := f.left_ + lat.1
    (lat.2.setFly { f with arrives := t }).schedule t (.homeArrival f.id)

/-- An access to a peer sets out (R448). -/
def State.launchPeer (s : State) (f : Fly) (w : Way) : State := s.launchOut f fun s f => (s.setFly f).toPeer f w

/-- An access that waited for its way tries again. -/
def State.relaunch (s : State) (f : Fly) : State :=
  let f := { f with left_ := s.clock }
  if f.kind = 6 ∨ f.kind = 7 ∨ f.kind = 8 ∨ s.region f.pa = 2 ∧ f.kind = 15 then s.launchHost f
  else if f.kind = 10 ∨ f.kind = 11 ∨ f.kind = 12 then
    match s.wayOf f.pa with
    | some w => s.launchPeer f w
    | none => s.failFly f
  else s.launchFly f

/-- An access reaches its home and is performed (R460). A space-2 barrier operation is performed on its rows though its target's
workgroup has gone (DESIGN CHOICE, log 50). -/
def execHomeArrival (id : Nat) (s : State) : Host.Outcome State Fault Refusal :=
  match FMap.get? s.fly id with
  | none => .next s
  | some f =>
    if f.performed then .next s
    else if f.phase = 9 then .next (s.failFly f)
    else if f.phase = 5 then .next (s.relaunch f)
    else if f.kind = 3 ∨ f.kind = 4 ∨ f.kind = 5 then
      .next (if f.phase = 0 then s.bankArrival f
        else if f.back = 30 then s.rowTurn f (s.bankPass f true)
        else s.bankPass f false)
    else if f.kind = 6 ∨ f.kind = 7 ∨ f.kind = 8 then .next (s.atHost f)
    else if f.kind = 10 ∨ f.kind = 11 ∨ f.kind = 12 then .next s
    else if f.kind = 16 then .next (s.schedule s.clock (.barrierWordOperation id))
    else if f.kind = 17 ∧ s.mustWait f then .next (s.schedule (s.clock + 1) (.homeArrival id))
    else if f.kind = 17 then
      .next (if f.phase = 0 then (s.setFly { f with phase := 6 }).scheduleLate s.clock (.homeArrival id)
        else s.rowTurn f ((s.rowUse f.pa).scheduleLate s.clock (.barrierWordOperation id)))
    else if f.phase = 0 ∧ s.clock < f.arrives then .next s
    else if f.phase = 0 ∧ s.region f.pa ≤ 1 ∧ stackOf f.core ≠ homeOf f.pa ∧ s.clock < s.netOpen (homeOf f.pa) then
      .next (s.schedule (s.netOpen (homeOf f.pa)) (.homeArrival id))
    else .next (s.atHome f)

/-! The coalescing buffers (R245). -/

/-- An entry leaves its buffer for its home. -/
def State.leaveBuffer (s : State) (c q : Nat) (e : Entry) : State :=
  let s := s.modCore c fun k =>
    { k with bufs := FMap.put k.bufs q ((FMap.getD k.bufs q []).filter fun x => x.id != e.id) }
  s.launchFly
    { id := e.id, kind := 1, op := 0, core := c, slot := 16 * q, uid := e.uid, frag := 0, by_ := e.by_, pa := e.line,
      accs := [], bytes := e.bytes, data := [], size := 128, code := 0, arg := 0, seq := e.seq, left_ := s.clock,
      arrives := 0, back := 0, performed := false, answered := false, did := e.did, dslot := e.dslot, part := e.part,
      g2 := 0, shrd := e.shrd, mt := e.mt, own := e.own, va := 0, phase := 0, ctx := e.ctx, nofill := false,
      slack := e.slack, entered := s.clock, uses := e.uses, from_ := e.from_ }

/-- A buffered store leaves its buffer; an own entry after every older own one (R238, R245). -/
def execStoreBufferDrain (core quarter entry : Nat) (s : State) : Host.Outcome State Fault Refusal :=
  match (FMap.getD (s.core core).bufs quarter []).find? (·.id == entry) with
  | none => .next s
  | some e =>
    let older := (FMap.getD (s.core core).bufs quarter []).filter fun x => e.own && x.own && decide (x.id < e.id)
    .next ((older.foldl (fun s x => s.leaveBuffer core quarter x) s).leaveBuffer core quarter e)

/-- Own entries that hold bytes of a warp's lanes leave at once: an atomic at the own stack comes after them (R226, R233,
R238). -/
def State.drainOwn (s : State) (c q uid lanes : Nat) : State :=
  let l := (FMap.getD (s.core c).bufs q []).filter (·.own)
  if l.any fun e => byHits e.by_ uid lanes 255 then l.foldl (fun s e => s.leaveBuffer c q e) s else s

/-! Answers (R157, R158, R168, R250). -/

/-- The value of a register word of a load for a lane. -/
def gotWord (got : Memory) (l i n : Nat) : U32 := BitVec.ofNat 32 (ofBytes (got.read (16 * l + 4 * i) n))

/-- Lanes of a per-lane operation's registers take their values. -/
def Warp.landLanes (k : Warp) (op : LoadOp) (mask : U32) : Warp :=
  ((op.regs.zip (List.range op.regs.length)).foldl (fun k r =>
    k.land r.1 mask (Lanes.build fun l => gotWord op.got l r.2 (min 4 op.size)) 0) k)

/-- A uniform load's S registers take their values (R156). -/
def Warp.landUni (k : Warp) (op : LoadOp) : Warp :=
  (op.regs.zip (List.range op.regs.length)).foldl (fun k r =>
    k.land r.1 (BitVec.allOnes 32) [] (BitVec.ofNat 64 (ofBytes (op.got.read (8 * r.2) (min 8 op.size))))) k

/-- An XLD's register takes its bytes (R321). -/
def Warp.landX (k : Warp) (op : LoadOp) : Warp :=
  match op.regs with
  | .x i :: _ => { k with x := FMap.put k.x i { k.getX i with bytes := op.got } }
  | _ => k

/-- A warp takes what an operation brings, and its registers are free (R41, R158). -/
def Warp.takeOp (k : Warp) (op : LoadOp) : Warp :=
  let k := if op.kind = 1 then k.landUni op else if op.kind = 2 then k.landX op else if op.kind = 4 then k
    else k.landLanes op op.mask
  Warp.unlock { k with nrm := k.nrm ||| op.nrm } op.id

/-- The same in the state, and in the trap frame where a handler has interrupted the load (DEDUCED, log 48). -/
def State.takeIn (s : State) (op : LoadOp) : State :=
  let s := s.modWarp op.core op.slot fun k => k.takeOp op
  let s := if op.kind = 1 then
      (op.regs.zip (List.range op.regs.length)).foldl (fun (s : State) r => s.toFrame op.core op.slot op.id r.1 (BitVec.allOnes 32)
        (BitVec.ofNat 64 (ofBytes (op.got.read (8 * r.2) (min 8 op.size))))) s
    else s
  s.nrmToFrame op.core op.slot op.id op.nrm

/-- Some lanes of a load or atomic did not reach their peer: the fragment that waits for it traps; an atomic's other
lanes are done (R168, R450). -/
def State.failOp (s : State) (op : LoadOp) : State :=
  let s := s.modWarp op.core op.slot fun k => k.unlock op.id
  match (s.frag op.core op.slot op.frag).st, op.failed.min? with
  | .parked (.answer id), some l =>
    let bad := maskOf fun i => op.failed.contains i
    let va := ((op.accs.find? fun a => a.lane == l).map (·.va)).getD 0
    let lanes := if op.kind = 2 then 0 else if op.kind = 1 then op.cover &&& (0 - op.cover) else bad
    if id = op.id then
      s.trapParked op.core op.slot op.frag
        { cause := cTranslation, pc := op.pc, addr := va, lanes, done := if op.kind = 3 then op.mask &&& ~~~bad else 0 }
    else s
  | _, _ => s

/-- An operation's destination lands: all lanes together, its NRM marks, its acquire (R157, R158, R161). -/
def State.landOp (s : State) (op : LoadOp) : State :=
  let s := { s with loads := FMap.drop s.loads op.id }
  if (s.warp op.core op.slot).uid ≠ op.uid then s
  else if !op.failed.isEmpty then s.failOp op
  else
    let s := s.takeIn op
    let s := s.acquire op.core op.dslot op.acq
    match (s.frag op.core op.slot op.frag).st with
    | .parked (.answer id) => if id = op.id then s.resume op.core op.slot op.frag else s
    | _ => s

/-- One request of an operation has returned; a record's checks take 2 cycles more (R178). -/
def State.answerOp (s : State) (op : LoadOp) : State :=
  let op := { op with left := op.left - 1 }
  if op.left = 0 then
    if op.kind = 5 ∨ op.kind = 6 then
      ({ s with loads := FMap.put s.loads op.id op } : State).schedule (s.clock + 2)
        (if op.kind = 5 then .launchRecordRead op.id else .nmRecordRead op.id)
    else if op.lands ≤ s.clock then s.landOp op
    else ({ s with loads := FMap.put s.loads op.id op } : State).schedule op.lands (.space1LoadReturn op.id)
  else { s with loads := FMap.put s.loads op.id op }

/-- Bytes a line gives the lanes of an operation. -/
def lineBytes (op : LoadOp) (f : Fly) : List (Nat × Byte) :=
  (op.accs.filter fun a => lineOf a.pa == f.pa && a.kind != 1).flatMap fun a =>
    (List.range op.size).map fun i => (16 * a.lane + i, f.data.getD (a.pa - f.pa + i) 0)

/-- The bytes of an answer put with those an operation has. -/
def LoadOp.take (op : LoadOp) (b : List (Nat × Byte)) : LoadOp :=
  { op with got := b.foldl (fun m x => m.set x.1 x.2) op.got }

/-- A space-1 load or atomic returns, or an operation whose last cycle is known lands (R181, R207). -/
def execSpace1LoadReturn (id : Nat) (s : State) : Host.Outcome State Fault Refusal :=
  match FMap.get? s.loads id with
  | none => .next s
  | some op =>
    match s.fly.find? fun f => f.2.op == id && f.2.performed && (f.2.kind == 3 || f.2.kind == 5) with
    | some f => .next ((s.dropFly f.1).landOp (op.take f.2.bytes))
    | none => .next (if op.left = 0 then s.landOp op else s)

/-! Admission at a slice port (R425, R426, R434). -/

/-- The order of service: aged first and oldest, then the lowest slack, then the oldest (R434). -/
def PortReq.rank (r : PortReq) : List Nat := if r.aged then [0, r.born] else [1, r.slack, r.born]

def rankLt : List Nat → List Nat → Bool
  | [], b => !b.isEmpty
  | _, [] => false
  | x :: r, y :: t => decide (x < y) || (x == y && rankLt r t)

/-- The heads of the DIDs' queues at a port. -/
def portHeads : List PortReq → List Nat → List PortReq
  | [], _ => []
  | r :: t, seen => if seen.contains r.did then portHeads t seen else r :: portHeads t (r.did :: seen)

def bestReq : List PortReq → Option PortReq
  | [] => none
  | r :: t =>
    match bestReq t with
    | none => some r
    | some x => if rankLt x.rank r.rank then some x else some r

/-- The requests of a metered DID that its level admits, in the order of their arrival; where it admits none, the head of
its queue if it can borrow (R425, R426). -/
def State.admitted (s : State) (p : Nat) (heads : List PortReq) : List PortReq → List (Nat × Nat) → List PortReq
  | [], _ => []
  | r :: t, spent =>
    if !s.metered p r.did then r :: State.admitted s p heads t spent
    else
      let n := ((spent.find? fun e => e.1 == r.did).map (·.2)).getD 0 + r.cost * 1024
      let rest := State.admitted s p heads t ((r.did, n) :: spent.filter fun e => e.1 != r.did)
      if n ≤ (s.bucket p r.did).level ∨ (heads.contains r ∧ (s.pay p r).isSome) then r :: rest else rest

/-- A port admits one request a cycle (R425). A store that waits for its bucket may be performed later than R238's 4,096 cycles
(DESIGN CHOICE, log 50). -/
def execBucketAdmit (slice : Nat) (s : State) : Host.Outcome State Fault Refusal :=
  let q := (FMap.getD s.portQ slice []).map fun r => { r with aged := r.aged || decide (r.born + 512 ≤ s.clock) }
  let s :=
    match bestReq (s.admitted slice (portHeads q []) q []) with
    | none => { s with portQ := FMap.put s.portQ slice q }
    | some r =>
      let s := (s.pay slice r).getD s
      let s := { s with portQ := FMap.put s.portQ slice (q.filter fun x => x.fly != r.fly) }
      match FMap.get? s.fly r.fly with
      | none => s
      | some f => (s.setFly { f with phase := 1 }).schedule s.clock (.homeArrival r.fly)
  let left := FMap.getD s.portQ slice []
  .next (if left.isEmpty then { s with portQ := FMap.drop s.portQ slice } else s.schedule (s.clock + 1) (.bucketAdmit slice))

/-- Requests that have waited 512 cycles since they entered the network are served first (R434). -/
def execNetworkRequestAge (s : State) : Host.Outcome State Fault Refusal :=
  .next { s with portQ := s.portQ.map fun p =>
    (p.1, p.2.map fun r => { r with aged := r.aged || decide (r.born + 512 ≤ s.clock) }) }

end Sys2Proof.Machine
end

