-- ==== Sys2Proof/Machine/Select.lean ====
section
/-! DEFINITION. Issue selection: which fragment of which quarter issues next (R186 to R188, R350). -/

namespace Sys2Proof.Machine

/-- The head of an instruction of the ISA. -/
def Instr.head : Instr → Head
  | .iadd h _ | .isub h _ | .imul h _ | .imulh h _ | .imad h _ | .idiv h _ | .irem h _ | .iabs h _ | .ineg h _
  | .imin h _ | .imax h _ | .iand h _ | .ior h _ | .ixor h _ | .inot h _ | .ishl h _ | .ishr h _ | .isra h _
  | .irot h _ | .ibfx h _ | .ibfi h _ | .ipopc h _ | .iclz h _ | .ibrev h _ | .icmp h _ | .isel h _ | .iaddc h _
  | .idot4 h _ | .ilea h _ | .iaddi h _ | .icmpi h _ | .fadd h _ | .fsub h _ | .fmul h _ | .ffma h _ | .fmin h _
  | .fmax h _ | .fabs h _ | .fneg h _ | .fcmp h _ | .frcp h _ | .frsq h _ | .fsqrt h _ | .fexp2 h _ | .flog2 h _
  | .fsin h _ | .fcos h _ | .ftanh h _ | .fclass h _ | .fdiv h _ | .fdot2 h _ | .fscale h _ | .frnd h _ | .ffrac h _
  | .cvt h _ _ | .qnt h _ | .dqnt h _ | .pack h _ | .unpk h _ | .lshuf h _ | .lbcast h _ | .lred h _ | .lscan h _
  | .lballot h _ | .lvote h _ | .plog h _ | .pcnt h _ | .mov h _ | .movi h _ | .movhi h _ | .rdspec h _ | .wrspec h _
  | .bra h _ | .brx h _ | .join h _ | .call h _ | .callx h _ | .ret h _ | .rgrow h _ | .rshrink h _ | .exit h _
  | .yield h _ | .sleep h _ | .sleepuntil h _ | .trap h _ | .bkpt h _ | .ld h _ | .st h _ | .ldu h _ | .stu h _
  | .pref h _ | .pagein h _ | .cctlIl1 h _ | .cctlIl1all h _ | .cctlIl1rem h _ | .cctlEvl2 h _ | .atom h _
  | .atomcas h _ | .red h _ | .fence h _ | .nop h | .barinit h _ | .arrive h _ | .waitb h _ | .arrwait h _
  | .wsync h _ | .gsync h | .launch h _ | .cwait h _ | .fetchwg h _ | .tload h _ | .tstore h _ | .tgather h _
  | .tscatter h _ | .tcopy h _ | .tfill h _ | .tstat h _ | .mwld h _ | .mma h _ | .mread h _ | .mzero h _ | .mhad h _
  | .mbatch h _ | .mwait h _ | .mfuseNone h _ | .mfuseNpair h _ | .mfuseKpair h _ | .mfuseQuad h _ | .mrelease h _
  | .nmexp h _ | .nmred h _ | .xmov h _ | .xadd h _ | .xsub h _ | .xmax h _ | .xmin h _ | .xcvt h _ | .xbind h _
  | .xunbind h _ | .xtag h _ | .xqnt h _ | .xld h _ | .xst h _ | .fmtset h _ | .fmtget h _ | .tdset h _ | .tdget h _
  | .gcall h _ _ | .gret h | .sysrd h _ _ _ | .syswr h _ _ _ _ | .tlbinvRange h _ _ | .tlbinvDid h _ _
  | .tlbinvPart h _ _ | .ctxsave h _ _ | .ctxrst h _ _ | .dpreempt h _ _ | .eret h _ _ | .eretSpill h _ _
  | .eretFill h _ _ | .migrate h _ => h
  | .pairWord stall _ _ => ⟨0, false, stall.setWidth 4⟩
  | _ => ⟨0, false, 0⟩

/-- A quarter may issue in a cycle, by the present level (R186, R350). -/
def State.eligibleAt (s : State) (k t : Nat) : Bool := eligible (s.level k) t

/-- The fragment is ready (R186). A store that has begun goes on though its warp's issue has stopped (R245, R332). -/
def State.ready (s : State) (c w g : Nat) (k : Warp) (f : Frag) : Bool :=
  match f.word with
  | none => false
  | some x =>
    f.st == .ready && decide (f.stall ≤ s.clock) && f.heldCall.isNone && !f.heldTrap && !k.parked && (!k.stopped || f.stored != 0)
      && (match decodeWord x with
          | none => true
          | some i => !(s.held i (Instr.head i) c w g))

/-- The order of R187 as a list of numbers: the smaller comes first. -/
def State.rank (s : State) (c w g : Nat) (f : Frag) : List Nat :=
  let lane := (lowLane f.memb).getD 32
  if f.promoted then [0, 0, 0, 0, f.age, w, lane]
  else
    let again := match FMap.get? (s.core c).last (quarterOf w) with
      | some (t, w', g', promoted) => w' == w && g' == g && !promoted && !f.yielded && decide (t < s.clock)
      | none => false
    [1, 3 - f.prio, b2n (!again), b2n f.yielded, f.age, w, lane]

/-- Lexicographic order. -/
def lexLt : List Nat → List Nat → Bool
  | [], _ => false
  | _, [] => false
  | a :: r, b :: t => if a < b then true else if b < a then false else lexLt r t

/-- The ready fragments of a quarter: slot, fragment, rank. -/
def State.candidates (s : State) (c q : Nat) : List (Nat × Nat × List Nat) :=
  ((s.core c).warps.filter fun p => quarterOf p.1 == q).flatMap fun p =>
    (p.2.frags.filter fun r => s.ready c p.1 r.1 p.2 r.2).map fun r => (p.1, r.1, s.rank c p.1 r.1 r.2)

/-- The first of some candidates. -/
def bestOf : List (Nat × Nat × List Nat) → Option (Nat × Nat × List Nat)
  | [] => none
  | x :: r =>
    match bestOf r with
    | none => some x
    | some y => if lexLt y.2.2 x.2.2 then some y else some x

/-- The quarters of the package in order: core, quarter. -/
def State.quarters (s : State) : List (Nat × Nat) :=
  (s.cores.map (·.1)).flatMap fun c => [(c, 0), (c, 1), (c, 2), (c, 3)]

/-- The next quarter of this cycle that has something to issue, and what. -/
def State.nextIssue (s : State) : Option (Nat × Nat × Nat × Nat) :=
  let rec go : List (Nat × Nat) → Option (Nat × Nat × Nat × Nat)
    | [] => none
    | (c, q) :: r =>
      if 4 * c + q < s.turn ∨ !(s.eligibleAt (stackOf c) s.clock) then go r
      else
        match bestOf (s.candidates c q) with
        | none => go r
        | some (w, g, _) => some (c, q, w, g)
  go s.quarters

/-- The other ready fragments of a quarter wait one more eligible cycle (R188). -/
def State.passOver (s : State) (c q w g : Nat) : State :=
  (s.candidates c q).foldl (fun s x =>
    if x.1 = w ∧ x.2.1 = g then s
    else
      let s := s.modFrag c x.1 x.2.1 fun f => { f with wait := f.wait + 1 }
      if 1024 ≤ (s.frag c x.1 x.2.1).wait then s.schedule s.clock (.fragmentPromotion c x.1 x.2.1) else s) s

/-- A fragment is selected: its quarter has had this cycle's opportunity. -/
def State.selectFrag (s : State) (c q w g : Nat) : State :=
  { s.passOver c q w g with issuer := some (c, w, g), turn := 4 * c + q + 1 }

/-- A word that decode refuses: ILLOP, with no effect of its own (R47). -/
def State.badWord (s : State) (c w g : Nat) : State :=
  let f := s.frag c w g
  let s := s.modCore c fun k => { k with last := FMap.put k.last (quarterOf w) (s.clock, w, g, f.promoted) }
  let s := s.modFrag c w g fun f => { f with wait := 0, promoted := false, yielded := false, word := none }
  s.takeTrap c w g { cause := cIllop, pc := f.pc }

end Sys2Proof.Machine
end

