-- ==== Sys2Proof/Machine/Translation.lean ====
section
/-! DEFINITION. Walks on a stack's walkers, ATS answers, invalidation (R257, R258, R263, R264, R266). -/

namespace Sys2Proof.Machine

/-! The walk (R257, R258, R263). -/

/-- The unloaded figure of a read at a home from a stack (R250). -/
def State.pathFigure (s : State) (k pa : Nat) (hit : Bool) : Nat :=
  let base := if s.region pa = 1 then 90 else if hit then 120 else 320
  base + 2 * hopCost (s.ringWay k (homeOf pa))

/-- The operation code of an atomic OR (R166). -/
def opOr : Nat := 6

/-- A leaf used for a need: permissions, accessed and dirty bits set by an atomic at the entry's home, stage 2 of the
output (R257, R258). -/
def State.useLeaf (s : State) (d : Dom) (va need level e entPa : Nat) (entWr : Bool) (entIpa oa : Nat) :
    WalkOut × State :=
  let w := e.testBit 2
  let x := e.testBit 3
  if (need = 1 ∧ !w) ∨ (need = 2 ∧ !x) then (.translation, s)
  else
    let mark := (if e.testBit 4 then 0 else 2 ^ 4) + (if need = 1 ∧ !(e.testBit 5) then 2 ^ 5 else 0)
    if mark ≠ 0 ∧ !entWr then (.domain entIpa, s)
    else
      let e' := e + mark
      let s := if mark = 0 then s
        else match s.wayOf entPa with
          | some w => s.request w.port w.dest 0 (pkt 4 opOr w.addr (toBytes 8 mark))
          | none => if s.region entPa = 2 then s.anyWr entPa (toBytes 8 e') else s.homePut entPa (toBytes 8 e')
      let ipa := oa + va % levelSize level
      match s.stage2 d ipa with
      | none => (if d.part.isNone then .translation else .domain ipa, s)
      | some o =>
        if (need = 0 ∧ !o.rd) ∨ (need = 1 ∧ !o.wr) ∨ (need = 2 ∧ !o.ex) then (.domain ipa, s)
        else
          let z := combinedSize (levelSize level) o.lo o.hi ipa
          (.ok { kind := 1, part := d.ptag, did := d.did, g2 := d.g2, va := va / z * z, size := z, level := level,
                 pa := o.pa - va % z, w := w && o.wr && e'.testBit 5, x := x && o.ex, dirty := e'.testBit 5,
                 mt := fld e 6 2, shrd := o.shrd, rd := o.rd }, s)

/-- The walk cache's entry of a level (R263). -/
def walkHit (l : List Tlb) (d : Dom) (level va : Nat) : Option Nat :=
  (l.find? fun t => t.kind == 0 && t.part == d.ptag && t.did == d.did && t.level == level
    && decide (t.va ≤ va) && decide (va < t.va + t.size)).map (·.pa)

/-- Where a walk begins: past the levels that the deepest hit of the walk cache covers (R257, R263). -/
def walkFrom (l : List Tlb) (d : Dom) (va : Nat) : Nat × Nat :=
  match [2, 1, 0].findSome? fun n => (walkHit l d n va).map fun e => (n, e) with
  | some (n, e) =>
    match pteOf n e with
    | .table ipa => (n + 1, ipa)
    | _ => (0, d.root)
  | none => (0, d.root)

/-- The IPA of the entry that a walk reads at a level. -/
def entryIpa (level base va : Nat) : Nat := base + 8 * vaIndex level va

/-- What an entry that has been read makes of a walk: the next level's table, or the outcome. -/
inductive WalkStep where
  | down (ipa : Nat)
  | done (r : WalkOut)
  deriving DecidableEq, Repr

/-- One entry of a walk, as it was read (R255, R258). -/
def State.walkStep (s : State) (d : Dom) (va need level base e : Nat) : WalkStep × State :=
  let ipa := entryIpa level base va
  match s.stage2 d ipa with
  | none => (.done (if d.part.isNone then .translation else .domain ipa), s)
  | some o =>
    if !o.rd then (.done (.domain ipa), s)
    else if s.isLost o.pa then (.done (.lost o.pa), s)
    else
      match pteOf level e with
      | .invalid => (.done .translation, s)
      | .absent => (.done (.zeros (d.entry 3 (va / levelSize level * levelSize level) (levelSize level) level 0)), s)
      | .table t => (.down t, s)
      | .leaf oa =>
        let r := s.useLeaf d va need level e o.pa o.wr ipa oa
        (.done r.1, r.2)

/-- An entry of a table as memory has it now; in a peer's memory it is free (DESIGN CHOICE, log 22). -/
def State.entryNow (s : State) (d : Dom) (va level base : Nat) : Nat :=
  match s.stage2 d (entryIpa level base va) with
  | some o => if (s.wayOf o.pa).isSome then (Config.freeWord s.free).toNat else s.physRead o.pa 8
  | none => 0

/-- A table entry read from the host's memory, or asked of a peer, whose answer is free; none in a multicast-reduce window (R448,
R452, DESIGN CHOICE, log 22). -/
def State.farEntry (s : State) (pa : Nat) : Option Nat × State :=
  match s.wayOf pa with
  | none => (some (s.physRead pa 8), s)
  | some w =>
    if w.mr then (none, s)
    else
      let v := s.freeWord
      (some v.1.toNat, v.2.request w.port w.dest 0 (pkt 1 0 w.addr (toBytes 4 8)))

/-- A table entry enters a stack's walk cache (R263). -/
def State.keepEntry (s : State) (k : Nat) (d : Dom) (va level e : Nat) : State :=
  s.stackTlb k (d.entry 0 (va / levelSize level * levelSize level) (levelSize level) level e)

/-- A whole walk made at once: what it finds, and the entry that it marks (DESIGN CHOICE, log 18, log 42). -/
def State.walkThrough (s : State) (d : Dom) (va need : Nat) : Nat → Nat → Nat → WalkOut × State
  | 0, _, _ => (.translation, s)
  | fuel + 1, level, base =>
    match s.walkStep d va need level base (s.entryNow d va level base) with
    | (.down ipa, s) => State.walkThrough s d va need fuel (level + 1) ipa
    | (.done o, s) => (o, s)

/-- Where an address lies by the tables as they are now, for a stack: a look that leaves nothing behind. -/
def State.look (s : State) (k : Nat) (d : Dom) (va need : Nat) : Tr :=
  if !canonical va then .fault cTranslation 0
  else
    let v := va % 2 ^ 57
    match (s.walkThrough d v need 4 0 d.root).1 with
    | .translation => .fault cTranslation 0
    | .domain ipa => .fault cDomain ipa
    | .lost pa => .fault cMachineCheck pa
    | .zeros _ => .zeros 0
    | .ok t => s.trEntry k v need 0 t

/-- What a walk's outcome leaves in the caches of a stack, and of the core where it asked (R263). -/
def State.keepWalk (s : State) (k : Nat) (c : Option Nat) (r : WalkOut) : State :=
  match r with
  | .ok t | .zeros t =>
    let s := s.stackTlb k t
    match c with
    | some c => s.coreTlb c t
    | none => s
  | _ => s

/-! Walks on a stack's walkers (R257, R263). -/

/-- The domain that asked for a walk, as it was named then (R421). -/
def State.walkDom (s : State) (wk : Walk) : Dom :=
  s.keptDom wk.dslot wk.did wk.root (if wk.part = 64 then none else some wk.part)

/-- A walker takes a queued walk (R263). -/
def State.startWalk (s : State) (wk : Walk) : State :=
  let d := s.walkDom wk
  let w := walkFrom (s.stack wk.stack).tlb d wk.va
  let s := { s with walks := FMap.put s.walks wk.id { wk with running := true, level := w.1, base := w.2, hop := 0 } }
  let s := s.modStack wk.stack fun k => { k with walkers := k.walkers + 1 }
  s.schedule s.clock (.pageWalk wk.id)

/-- The queued walk that a stack serves next: one that has waited 512 cycles first, then in arrival order (R263). -/
def State.nextWalk (s : State) (k : Nat) : Option Walk :=
  let q := (FMap.vals s.walks).filter fun w => w.stack == k && !w.running && w.fault.isNone
  match q.find? (·.aged) with
  | some w => some w
  | none => q.head?

/-- Start walks while walkers are free. -/
def State.fillWalkers (s : State) (k : Nat) : State :=
  if 64 ≤ (s.stack k).walkers then s
  else
    match s.nextWalk k with
    | none => s
    | some w => s.startWalk w

/-- A walk joins its stack's queue. -/
def State.queueWalk (s : State) (wk : Walk) : State :=
  let s : State := { s with nextId := s.nextId + 1, walks := FMap.put s.walks wk.id wk }
  (s.schedule (s.clock + 512) .walkQueueAge).fillWalkers wk.stack

/-- Ask for a walk on a core's stack; the id names it. -/
def State.requestWalk (s : State) (c w g : Nat) (va need : Nat) : Nat × State :=
  let k := s.warp c w
  let d := s.dom c k.dslot
  (s.nextId, s.queueWalk
    { id := s.nextId, stack := stackOf c, core := c, slot := w, frag := g, uid := k.uid, dslot := k.dslot, did := d.did,
      part := d.ptag, va := va % 2 ^ 57, need, born := s.clock, aged := false, running := false, waitsAts := false
      root := d.root })

/-! Translations for engines, records, units and the device itself: walks like any other, asked for in no warp's name. -/

/-- The walk under way, or just over, that an engine or a unit has asked for. -/
def State.walkFor (s : State) (k c : Nat) (fills : Bool) (d : Dom) (va need : Nat) : Option Walk :=
  (FMap.vals s.walks).find? fun w =>
    w.uid == 0 && w.stack == k && w.core == c && w.fills == fills && w.did == d.did && w.part == d.ptag && w.root == d.root
      && w.need == need && w.va / 65536 == va % 2 ^ 57 / 65536

/-- The translation of an engine or a unit: a miss is a walk, to be asked for or under way; one that ended in a fault is that. -/
def State.orWalked (s : State) (k c : Nat) (fills : Bool) (d : Dom) (va need : Nat) : Tr → Tr
  | .miss =>
    match (s.walkFor k c fills d va need).bind (·.fault) with
    | some (cause, ipa) => .fault cause ipa
    | none => .miss
  | r => r

/-- The walk that a missing translation needs is asked for, unless it is under way. -/
def State.askWalk (s : State) (k c : Nat) (fills : Bool) (d : Dom) (va need : Nat) : State :=
  if (s.walkFor k c fills d va need).isSome then s
  else
    s.queueWalk
      { id := s.nextId, stack := k, core := c, slot := 64, frag := 0, uid := 0, dslot := d.dslot, did := d.did, part := d.ptag
        va := va % 2 ^ 57, need, born := s.clock, aged := false, running := false, waitsAts := false, root := d.root, fills }

/-- An engine's, a record's or the device's translation, by a core's caches (R263). -/
def State.translateFor (s : State) (c : Nat) (d : Dom) (va need : Nat) : Tr :=
  s.orWalked (stackOf c) c true d va need (s.translate c d [] va need)
def State.askFor (s : State) (c : Nat) (d : Dom) (va need : Nat) : State := s.askWalk (stackOf c) c true d va need

/-- A Trowel unit's translation, by the cache of its own stack (R395). -/
def State.translateUnit (s : State) (k : Nat) (d : Dom) (va need : Nat) : Tr :=
  s.orWalked k (16 * k) false d va need (s.translateStack k d va need)
def State.askUnit (s : State) (k : Nat) (d : Dom) (va need : Nat) : State := s.askWalk k (16 * k) false d va need

/-- Walks for a list of addresses, one a page. -/
def State.requestWalks (s : State) (c w g need : Nat) (vas : List Nat) : List Nat × State :=
  let pages := (vas.map fun v => v % 2 ^ 57 / 65536).eraseDups
  pages.foldl (fun r p =>
    let q := r.2.requestWalk c w g (p * 65536) need
    (q.1 :: r.1, q.2)) ([], s)

/-- The issuing fragment waits for walks and then tries its instruction again (R263). -/
def State.waitWalks (s : State) (x : Ctx) (need : Nat) (vas : List Nat) : State :=
  let r := s.requestWalks x.c x.w x.g need vas
  r.2.modFrag x.c x.w x.g fun f => { f with st := .parked (.walks r.1) }

/-- A walk is over: its walker is free, and whoever waits for it hears of it; a fault that no warp asked for stands for two
cycles, in which the engine that did looks again. -/
def State.endWalk (s : State) (wk : Walk) (fault : Option (Nat × Nat)) : State :=
  let s := { s with walks := FMap.drop s.walks wk.id }
  let s := s.modStack wk.stack fun k => { k with walkers := k.walkers - 1 }
  let s :=
    if wk.uid = 0 then
      (match fault with
       | none => s
       | some x =>
         ({ s with walks := FMap.put s.walks wk.id { wk with running := false, fault := some x } } : State).schedule (s.clock + 2)
           (.pageWalk wk.id))
    else if (s.warp wk.core wk.slot).uid ≠ wk.uid then s
    else
      let s := match fault with
        | none => s
        | some (cause, ipa) =>
          s.modFrag wk.core wk.slot wk.frag fun f =>
            { f with walked := (wk.va / 65536, wk.need, cause, ipa) :: f.walked }
      let f := s.frag wk.core wk.slot wk.frag
      if wk.need = 2 then (if f.fetching then s.schedule s.clock (.instructionFetch wk.core wk.slot wk.frag) else s)
      else
        match f.st with
        | .parked (.walks ids) =>
          let left := ids.filter (· != wk.id)
          s.modFrag wk.core wk.slot wk.frag fun f =>
            { f with st := if left.isEmpty then .ready else .parked (.walks left), stall := max f.stall s.clock }
        | _ => s
  s.fillWalkers wk.stack

/-- A walk has its outcome: the caches take it, a host page is asked of the host, and the walk ends (R258, R263, R266). -/
def State.walkDone (s : State) (wk : Walk) (r : WalkOut) : State :=
  let s := s.keepWalk wk.stack (if wk.fills then some wk.core else none) r
  match r with
  | .translation => s.endWalk wk (some (cTranslation, 0))
  | .domain ipa => s.endWalk wk (some (cDomain, ipa))
  | .lost pa => s.endWalk wk (some (cMachineCheck, pa))
  | .zeros _ => s.endWalk wk none
  | .ok t =>
    let pa := t.pa + (wk.va - t.va)
    if s.viaHost pa ∧ (s.atsAnswer wk.stack (s.fnOf wk.did) pa).isNone then
      let q := s.hostRights
      let lat := q.2.freeLat 1
      let s := { lat.2 with walks := FMap.put s.walks wk.id { wk with waitsAts := true } }
      s.schedule (s.clock + lat.1) (.atsTranslationResponse wk.id ((pa - 0x100000000000) / 65536) q.1.1 q.1.2)
    else s.endWalk wk none

/-- The request of a walk for the entry it reads. -/
def walkReq (o : S2) : EngReq := { pa := o.pa, n := 8, write := false, shrd := o.shrd, mt := 0 }

/-- A running walk goes on: a table read leaves as a line request and comes back with the entry as it was at its home; an
entry's leaf that has changed since it was read restarts the walk, and a leaf whose page a migration holds waits (R251, R257,
R269, R425). A read without a way, or whose line is gone, fails (R387, R435). -/
def execPageWalk (id : Nat) (s : State) : Host.Outcome State Fault Refusal :=
  match FMap.get? s.walks id with
  | none => .next s
  | some wk =>
    if wk.fault.isSome then .next { s with walks := FMap.drop s.walks id }
    else if !wk.running ∨ wk.waitsAts then .next s
    else
    let d := s.walkDom wk
    let go (s : State) (wk : Walk) (t : Nat) : State :=
      ({ s with walks := FMap.put s.walks id wk } : State).schedule t (.pageWalk id)
    let act (s : State) (wk : Walk) (e : Nat) : State :=
      let r := s.walkStep d wk.va wk.need wk.level wk.base e
      match r.1 with
      | .down ipa =>
        go (r.2.keepEntry wk.stack d wk.va wk.level e) { wk with level := wk.level + 1, base := ipa, hop := 0 } s.clock
      | .done o => r.2.walkDone wk o
    match s.stage2 d (entryIpa wk.level wk.base wk.va) with
    | none => .next (act s wk 0)
    | some o =>
      if !o.rd ∨ s.region o.pa = 3 then .next (act s wk 0)
      else if wk.hop = 0 ∧ !(s.routable wk.core o.pa) then .next (s.walkDone wk (.lost o.pa))
      else if s.region o.pa = 2 then
        (if wk.hop = 0 ∧ s.clock < s.wayFrom wk.stack o.pa then .next (go s wk (s.wayFrom wk.stack o.pa))
         else if wk.hop = 0 then
          let r := s.farEntry o.pa
          let lat := r.2.freeLat 1
          match r.1 with
          | none => .next (s.walkDone wk .translation)
          | some e => .next (go lat.2 { wk with hop := 2, entry := e } (s.clock + lat.1))
         else .next (act s wk wk.entry))
      else if wk.hop = 0 then
        .next (({ s with walks := FMap.put s.walks id { wk with hop := 1 } } : State).dropLines id |>.sendToken ⟨id, wk.core, d⟩ (walkReq o) 128)
      else if wk.hop = 1 then
        match s.tokenOf id (walkReq o) with
        | some f =>
          if f.performed then .next (go (s.dropLines id) { wk with hop := 2, entry := ofBytes f.data } s.clock) else .next s
        | none => .next ((s.dropLines id).walkDone wk (.lost o.pa))
      else
        let now := s.physRead o.pa 8
        let same := fld now 0 2 == fld wk.entry 0 2 && fld now 12 45 == fld wk.entry 12 45
        match pteOf wk.level wk.entry with
        | .leaf _ =>
          if s.pageHeld o.pa then .next (go s wk (s.clock + 1))
          else if same then .next (act s wk now)
          else .next (go s { wk with level := 0, base := d.root, hop := 0 } s.clock)
        | _ => .next (act s wk wk.entry)

/-- Walks that have waited 512 cycles go before all others (R263). -/
def execWalkQueueAge (s : State) : Host.Outcome State Fault Refusal :=
  .next { s with walks := s.walks.map fun p =>
    (p.1, if !p.2.running && decide (p.2.born + 512 ≤ s.clock) then { p.2 with aged := true } else p.2) }

/-- The host answers a translation request: the answer is cached, the walk ends (R266). -/
def execAtsTranslationResponse (id page : Nat) (rd wr : Bool) (s : State) : Host.Outcome State Fault Refusal :=
  match FMap.get? s.walks id with
  | none => .next s
  | some wk =>
    if !wk.waitsAts then .next s
    else
      .next ((s.stackTlb wk.stack (hostEntry (s.fnOf wk.did) page rd wr)).endWalk wk none)

/-! Invalidation (R264). -/

/-- A walk as the cache would name what it is to find: a page of its domain. -/
def Walk.page (w : Walk) : Tlb :=
  { kind := 1, part := w.part, did := w.did, g2 := 0, va := w.va / 65536 * 65536, size := 65536, level := 3, pa := 0, w := false,
    x := false, dirty := false, mt := 0, shrd := false, rd := false }

/-- Drop the entries a test accepts from every translation cache of the package; a walk for what it accepts begins again at the
root, and a fault that one has found is forgotten (R264, R265, R268). -/
def State.dropTlb (s : State) (p : Tlb → Bool) : State :=
  { s with
    walks := (s.walks.filter fun w => !(w.2.fault.isSome && p w.2.page)).map fun w =>
      (w.1, if w.2.running && !w.2.waitsAts && p w.2.page then { w.2 with level := 0, base := w.2.root, hop := 0 } else w.2)
    cores := s.cores.map fun c => (c.1, { c.2 with tlb := c.2.tlb.filter fun t => !p t })
    stackMap := s.stackMap.map fun k => (k.1, { k.2 with tlb := k.2.tlb.filter fun t => !p t }) }

/-- A stage-1 entry of a domain that overlaps a range of pages. -/
def tlbNames (did page count : Nat) (t : Tlb) : Bool :=
  t.kind != 4 && t.did == did && decide (t.va < (page + count) * 65536) && decide (page * 65536 < t.va + t.size)

/-- The generations and virtual addresses of the translations an access used. -/
def Fly.usesOf (f : Fly) : List (Nat × Nat) :=
  if f.uses.isEmpty then (f.g2, f.va.toNat) :: f.accs.map fun a => (f.g2, a.va.toNat) else f.uses

/-- Accesses in flight that used a translation a test accepts (R261, R264): under way, or buffered for their home. The
test sees partition, DID, generation and virtual address. -/
def State.inFlight (s : State) (p : Nat → Nat → Nat → Nat → Bool) : List Nat :=
  ((s.fly.filter fun f => !f.2.performed && (f.2.usesOf.any fun u => p f.2.part f.2.did u.1 u.2)).map (·.1))
    ++ s.cores.flatMap fun c => c.2.bufs.flatMap fun q =>
      (q.2.filter fun e => e.uses.any fun u => p e.part e.did u.1 u.2).map (·.id)

/-- An access has been performed, has faulted, or is held by a migration (R261, R270). -/
def State.settled (s : State) (id : Nat) : Bool :=
  (match FMap.get? s.fly id with
    | some f => f.performed || s.migs.any fun m => m.2.held.contains id
    | none => true)
    && !(s.cores.any fun c => c.2.bufs.any fun q => q.2.any fun e => e.id == id)

/-- Begin an invalidation: caches dropped, the accesses it waits for named. -/
def State.beginInval (s : State) (v : Inval) (tlb : Tlb → Bool) (fly : Nat → Nat → Nat → Nat → Bool) : State :=
  let s := s.dropTlb tlb
  let id := s.nextId
  let s := { s with nextId := id + 1, invals := FMap.put s.invals id { v with id := id, until_ := s.inFlight fly } }
  s.schedule (s.clock + 1) (.invalidationComplete id)

end Sys2Proof.Machine
end

