-- ==== Sys2Proof/Machine/Mem.lean ====
section
/-! DEFINITION. Memory instructions: LD to FENCE, XLD and XST (R153 to R170, R321). -/

namespace Sys2Proof.Machine

/-- Where an access goes: a physical address with its memory type and sharing, or a scratchpad byte. Kind as in
LaneAcc. -/
structure Spot where
  pa : Nat
  kind : Nat
  mt : Nat := 0
  shrd : Bool := false
  extra : Nat := 0
  core : Nat := 0
  wg : Nat := 0
  deriving DecidableEq, Repr

/-- The outcome of an access's checks. -/
inductive Chk where
  | ok (p : Spot)
  | bad (cause : Nat) (ipa : Nat)
  | miss
  deriving DecidableEq, Repr

/-- A lane access's rights: a read, a write, an atomic. -/
inductive Need where
  | rd | wr | at_
  deriving DecidableEq, Repr

/-! Checks of one lane (R153 to R159, R168). -/

/-- The cluster group of a workgroup: its grid and the first linear id of the group. -/
def WG.group (g : WG) : Nat × Nat := (g.grid, g.lin - g.member)

/-- The workgroup of the issuer's cluster group on a core of its cluster, its domain resident there (R154). -/
def State.groupOn (s : State) (x : Ctx) (core : Nat) : Option Nat :=
  let me := s.wg x.c x.k.wg
  if core = x.c then some x.k.wg
  else
    (((s.core core).wgs.find? fun p => p.2.group == me.group && p.2.did == me.did).bind fun p =>
      if (s.slotOf core p.2.did).isSome then some p.1 else none)

/-- A scratchpad access in bounds (R154). -/
def State.spSpot (s : State) (c wg size : Nat) (a : Int) : Chk :=
  let g := s.wg c wg
  if 0 ≤ a ∧ a + size ≤ (g.scratch : Int) then .ok { pa := g.first + a.toNat, kind := 2, core := c, wg := wg }
  else .bad cDomain 0

/-- A scratchpad word with an uncorrectable error is read (R386). -/
def State.spBad (s : State) (c pa n : Nat) : Bool :=
  (s.core c).badScratch.any fun w => decide (pa < 4 * w + 4) && decide (4 * w < pa + n)

/-- A translated address's further checks (R155, R159, R169, R387, R452). -/
def State.spotAt (s : State) (f : FmtM) (need : Need) (size : Nat) (hostOk : Bool) (pa mt : Nat) (shrd : Bool)
    (extra : Nat) : Chk :=
  if f.sp = .root ∧ s.region pa ≠ 1 then .bad cTranslation 0
  else
    match s.wayOf pa with
    | some w =>
      if w.mr ∧ (need ≠ .wr ∨ size % mrBytes w.etyp ≠ 0) then .bad cTranslation 0
      else .ok { pa, kind := 4, mt, shrd, extra }
    | none =>
      if s.region pa = 2 then
        (if need = .at_ ∧ !hostOk then .bad cTranslation 0 else .ok { pa, kind := 3, mt, shrd, extra })
      else if s.isLost pa then .bad cMachineCheck pa
      else .ok { pa, kind := 0, mt, shrd, extra }

/-- One access: alignment, domain, translation, residency (R153 to R159). -/
def State.spot (s : State) (x : Ctx) (f : FmtM) (k : Int) (align size : Nat) (need : Need) (hostOk : Bool)
    (l : Nat) : Chk :=
  if f.sp = .sp then
    let a := x.spAddr f k l
    if a % (align : Int) ≠ 0 then .bad cMisalign 0
    else
      match s.spSpot x.c x.k.wg size a with
      | .ok p => if need ≠ .wr ∧ s.spBad x.c p.pa size then .bad cMachineCheck (spPa x.c) else .ok p
      | r => r
  else if f.sp = .rsp then
    let a := x.spAddr f k l
    if a % (align : Int) ≠ 0 then .bad cMisalign 0
    else if a < 0 ∨ 2 ^ 24 ≤ a then .bad cDomain 0
    else
      let core := x.c / 4 * 4 + fld a.toNat 22 2
      match s.groupOn x core with
      | none => .bad cDomain 0
      | some wg =>
        match s.spSpot core wg size (fld a.toNat 0 22) with
        | .ok p => if need ≠ .wr ∧ s.spBad core p.pa size then .bad cMachineCheck (spPa core) else .ok p
        | r => r
  else
    let va := x.glAddr f k l
    if va % align ≠ 0 then .bad cMisalign 0
    else if f.sp = .ctx then
      if x.k.dslot ≠ 0 then .bad cDomain 0
      else if 1 < s.region va then .bad cTranslation 0
      else if need ≠ .wr ∧ s.isLost va then .bad cMachineCheck va
      else .ok { pa := va, kind := 0, mt := 1 }
    else
      match s.translate x.c (s.dom x.c x.k.dslot) x.fr.walked va (if need = .rd then 0 else 1) with
      | .miss => .miss
      | .fault cause ipa => .bad cause ipa
      | .zeros e => if need = .rd then .ok { pa := 0, kind := 1, extra := e } else .bad cNonresStore 0
      | .ok pa t e => s.spotAt f need size hostOk pa t.mt t.shrd e

/-- The access meets a registered range of its domain slot (R157, R398). -/
def State.locked (s : State) (x : Ctx) (f : FmtM) (p : Spot) (va size : Nat) : Bool :=
  let sp := if f.sp = .sp then some 1 else if f.sp = .gl then some 0 else if f.sp = .root then some 3 else none
  let a := if f.sp = .sp then p.pa else va
  match sp with
  | none => false
  | some n => (s.core x.c).rlocks.any fun r =>
      r.space == n && r.slot == x.k.dslot && decide (a < r.hi) && decide (r.lo < a + size)

/-- All checks of a lane, the range lock last. -/
def State.checkLane (s : State) (x : Ctx) (f : FmtM) (k : Int) (align size : Nat) (need : Need) (hostOk lock : Bool)
    (l : Nat) : Chk :=
  match s.spot x f k align size need hostOk l with
  | .ok p => if lock && s.locked x f p (x.glAddr f k l) size then .bad cRangeLock 0 else .ok p
  | r => r

/-! What an issue sends (R245, R250). -/

/-- Warps of the quarter with a ready fragment, at most 15 (R434). -/
def State.slack (s : State) (c w : Nat) : Nat :=
  min 15 ((s.candidates c (quarterOf w)).map (·.1)).eraseDups.length

/-- The lanes an access counts for: the acting lanes, or EXEC for LDU and STU (R208). -/
def Ctx.covers (x : Ctx) (uni : Bool) : Nat := if uni then x.fr.exec.toNat else x.act.toNat

/-- A blank access of an issuing fragment. -/
def Ctx.fly (x : Ctx) (s : State) (kind op : Nat) (by_ : List (Nat × Nat × Nat)) (p : Spot) (accs : List LaneAcc)
    (size code left : Nat) (va : U64) (slack : Nat) : Fly :=
  { id := s.nextId, kind, op, core := x.c, slot := x.w, uid := x.k.uid, frag := x.g, by_ := by_, pa := p.pa, accs,
    bytes := [], data := [], size, code, arg := p.wg, seq := 0, left_ := left, arrives := 0, back := 0,
    performed := false, answered := false, did := s.dsDid x.c x.k.dslot, dslot := x.k.dslot,
    part := s.dsPart x.c x.k.dslot, g2 := (s.dom x.c x.k.dslot).g2, shrd := p.shrd, mt := p.mt,
    own := decide (s.region p.pa ≤ 1 ∧ homeOf p.pa = stackOf x.c), va, phase := 0, ctx := false, nofill := false, slack,
    entered := s.clock, from_ := [⟨x.k.uid, x.g, x.pc, va⟩] }

/-- A lane's access with its place. -/
structure Hit where
  acc : LaneAcc
  p : Spot
  deriving DecidableEq, Repr

def Chk.hit (x : Ctx) (f : FmtM) (k : Int) (l : Nat) (data new : List Byte) : Chk → Option Hit
  | .ok p => some ⟨{ lane := l, pa := p.pa, va := x.vaOf f k l, kind := p.kind, data, new, pass := 0 }, p⟩
  | _ => none

/-- Distinct lines of some accesses by virtual address, ascending (R250). -/
def vaLines (hs : List Hit) : List Nat :=
  (ascending (hs.map fun h => lineOf h.acc.va.toNat)).eraseDups

/-- Scratchpad accesses of an instruction set out: one for each core they name, in ascending order. -/
def State.sendBanks (s : State) (x : Ctx) (f : FmtM) (kind op code size : Nat) (cover col : Nat) (hs : List Hit)
    (place : List LaneAcc → List LaneAcc × Nat) : State :=
  let cores := (ascending (hs.map fun h => h.p.core)).eraseDups
  cores.foldl (fun s c =>
    let mine := hs.filter fun h => h.p.core == c
    let pl := place (mine.map (·.acc))
    let p : Spot := { pa := c, kind := 2, wg := ((mine.head?).map (·.p.wg)).getD 0 }
    let fl := x.fly s kind op [(x.k.uid, cover, col)] p pl.1 size code s.clock 0 0
    let fl := { fl with own := false }
    if f.sp = .sp then s.bumpId.simtAccess fl pl.2 else s.bumpId.launchBank fl) s

/-- A line's requests: reads or atomics of memory, host lines, one each (R169, R250). -/
def State.sendLine (s : State) (x : Ctx) (op code size cover col : Nat) (atomic : Bool) (slack : Nat) (hs : List Hit)
    (va left : Nat) : State :=
  let mine := hs.filter fun h => lineOf h.acc.va.toNat == va
  match mine with
  | [] => s
  | h :: _ =>
    if h.p.kind = 1 then s
    else if h.p.kind = 4 then
      mine.foldl (fun s m =>
        match s.wayOf m.p.pa with
        | none => s
        | some w =>
          let fl := x.fly s (if atomic then 12 else 10) op [(x.k.uid, cover, col)] m.p [m.acc] size code left m.acc.va
            slack
          s.bumpId.launchPeer fl w) s
    else
      let line : Spot := { h.p with pa := lineOf h.p.pa }
      let kind := if h.p.kind = 3 then (if atomic then 8 else 6) else if atomic then 2 else 0
      let fl := x.fly s kind op [(x.k.uid, cover, col)] line (if atomic then mine.map (·.acc) else [])
        (if atomic then size else 128) code (left + h.p.extra) h.acc.va slack
      if h.p.kind = 3 then s.bumpId.launchHost fl
      else if atomic then s.bumpId.launchFly fl
      else s.bumpId.launchRead fl

/-- Requests a set of accesses makes. -/
def requests (hs : List Hit) : Nat :=
  ((vaLines hs).map fun v =>
    match hs.filter fun h => lineOf h.acc.va.toNat == v with
    | [] => 0
    | h :: r => if h.p.kind = 1 then 0 else if h.p.kind = 4 then r.length + 1 else 1).foldl (· + ·) 0

/-- The last cycle in which zeros of not-present-managed pages come back (R250). -/
def zerosAt (clock : Nat) (hs : List Hit) : Nat :=
  ((vaLines hs).zip (List.range 64)).foldl (fun m v =>
    match hs.find? fun h => lineOf h.acc.va.toNat == v.1 with
    | some h => if h.p.kind = 1 then max m (clock + v.2 + h.p.extra + 30) else m
    | none => m) clock

/-- The scope at which an access is performed: RT away from the issuer's stack is PK (R217). -/
def State.scopeAt (s : State) (x : Ctx) (sc : Scope) (hs : List Hit) : Scope :=
  if sc = .rt ∧ hs.any (fun h => h.p.kind == 0 && s.region h.p.pa == 1 && homeOf h.p.pa != stackOf x.c) then .pk else sc

/-- A reading operation issues: registers held, requests out, the fragment parked when a peer serves it. -/
def State.issueOp (s : State) (x : Ctx) (f : FmtM) (kind size code cover col : Nat) (regs : List Reg) (mask : U32)
    (nrm : U64) (atomic : Bool) (hs : List Hit) (place : List LaneAcc → List LaneAcc × Nat) : Res :=
  let id := s.nextId
  let s := s.bumpId
  let slack := s.slack x.c x.w
  let bank := isSp f
  let n := if bank then ((hs.map fun h => h.p.core).eraseDups).length else requests hs
  let acq := if isAcq f.sem then s.scopeAt x f.sc hs else .none
  let op : LoadOp :=
    { id, core := x.c, slot := x.w, uid := x.k.uid, frag := x.g, kind, pc := x.pc, regs, mask,
      cover := BitVec.ofNat 32 cover, size, accs := hs.map (·.acc), left := n, got := [], nrm, acq,
      lands := if bank then 0 else zerosAt s.clock hs, dslot := x.k.dslot }
  let s := { s with loads := FMap.put s.loads id op }
  let s := s.modWarp x.c x.w fun k => k.lock id regs mask
  let s := if isAcq f.sem then s.modFrag x.c x.w x.g fun g => { g with acq := (id, x.fr.exec.toNat) :: g.acq } else s
  let s := if n = 0 then s.schedule op.lands (.space1LoadReturn id) else s
  let s :=
    if bank then
      let s := if atomic ∧ f.sp = .rsp then s.drainOwn x.c (quarterOf x.w) x.k.uid cover else s
      s.sendBanks x f (if atomic then 5 else 3) id code size cover col hs place
    else
      let s := if atomic then s.drainOwn x.c (quarterOf x.w) x.k.uid cover else s
      ((vaLines hs).zip (List.range 64)).foldl (fun s v =>
        s.sendLine x id code size cover col atomic slack hs v.1 (s.clock + v.2)) s
  if hs.any fun h => h.p.kind == 4 then .gone (s.parkFrag x (.answer id)) else .next s

/-- Lanes with their checks, and the walks still to be made before the first failing lane (R157, R258). -/
def missingOf (x : Ctx) (f : FmtM) (k : Int) (cs : List (Nat × Chk)) : List Nat :=
  (cs.filter fun c => c.2 == .miss).map fun c => x.glAddr f k c.1

/-- The first failing lane of a list. -/
def firstBad (cs : List (Nat × Chk)) : Option (Nat × Nat × Nat) :=
  cs.findSome? fun c => match c.2 with
    | .bad cause ipa => some (c.1, cause, ipa)
    | _ => none

/-- Lanes that fail with a cause. -/
def lanesBad (cs : List (Nat × Chk)) (cause : Nat) : U32 :=
  maskOf fun l => cs.any fun c => c.1 == l && (match c.2 with | .bad k _ => k == cause | _ => false)

/-- A release at SY reports discarded peer writes it covers, once (R450). -/
def State.droppedHere (s : State) (x : Ctx) (cols : Nat) : Option (U64 × State) :=
  let hit (d : List (Nat × Nat × Nat) × U64) : Bool := byHits d.1 x.k.uid x.fr.exec.toNat cols
  match s.dropped.find? hit with
  | none => none
  | some d => some (d.2, { s with dropped := s.dropped.filter fun e => !(hit e) })

/-- The check that every release at SY makes first. -/
def State.ifDropped (s : State) (x : Ctx) (rel : Bool) (sc : Scope) (cols : Nat) (go : State → Res) : Res :=
  if rel && sc == .sy then
    match s.droppedHere x cols with
    | some (va, s) => .trap s { cause := cTranslation, pc := x.pc, addr := va }
    | none => go s
  else go s

/-- Cached translations of the checked addresses reach the core's cache (R263). -/
def State.refill (s : State) (x : Ctx) (f : FmtM) (k : Int) (need : Nat) (lanes : List Nat) : State :=
  if isSp f || f.sp == .ctx then s
  else lanes.foldl (fun s l => s.refillCore x.c (s.dom x.c x.k.dslot) (x.glAddr f k l) need) s

/-! Loads (R156 to R158). -/

def execLd (h : Head) (f : FmtM) (s : State) : Host.Outcome State Fault Refusal :=
  runIsa (.ld h f) h false s fun x s =>
    let n := szBytes f.sz
    let k := offTerm f
    let cs := (lanesOf x.act).map fun l => (l, s.checkLane x f k n n .rd true true l)
    let missing := missingOf x f k cs
    if !missing.isEmpty then .gone (s.waitWalks x 0 missing)
    else
      match firstBad cs with
      | some (l, cause, ipa) =>
        .trap s { cause, pc := x.pc, addr := x.vaOf f k l, lanes := lanesBad cs cause, pa := BitVec.ofNat 64 ipa }
      | none =>
        let s := s.refill x f k 0 (lanesOf x.act)
        let hs := cs.filterMap fun c => c.2.hit x f k c.1 [] []
        let zeros := maskOf fun l => hs.any fun h => h.acc.lane == l && h.p.kind == 1
        s.issueOp x f 0 n 0 x.act.toNat 0 (x.k.destRegs f.d (szN f.sz f.d)) x.act (zeros.setWidth 64) false hs
          (placePasses false n)

/-- A failing uniform access records the lowest acting lane in FAULTLANES (DESIGN CHOICE, log 50: R157 names no lane for the one
access); so do STU and a barrier word. -/
def execLdu (h : Head) (f : FmtM) (s : State) : Host.Outcome State Fault Refusal :=
  runIsa (.ldu h f) h false s fun x s =>
    let n := szBytes f.sz
    let k := offTerm f
    match s.checkLane x f k n n .rd true true x.low with
    | .miss => .gone (s.waitWalks x 0 [x.glAddr f k x.low])
    | .bad cause ipa =>
      .trap s { cause, pc := x.pc, addr := x.vaOf f k x.low, lanes := maskOf fun l => l == x.low,
                pa := BitVec.ofNat 64 ipa }
    | .ok p =>
      let s := s.refill x f k 0 [x.low]
      let hs := ((Chk.ok p).hit x f k 0 [] []).toList
      s.issueOp x f 1 n 0 (x.covers true) 0 (x.k.destRegs f.d (szS f.sz)) 0
        (if p.kind = 1 then BitVec.ofNat 64 (2 ^ 32) else 0) false hs (placePasses false n)

/-- The sixteen-byte pieces of an XLD or XST. -/
def State.pieces (s : State) (x : Ctx) (f : FmtM) (need : Need) : List (Nat × Chk) :=
  (List.range 64).map fun j =>
    (j, s.checkLane x f (offTerm f + 16 * (j : Int)) 16 16 need true true x.low)

/-- The first failing cause of an XLD or XST in the order of its checks, with its piece (R321). -/
def pieceBad (cs : List (Nat × Chk)) : Option (Nat × Nat × Nat) :=
  [cMisalign, cDomain, cTranslation, cMachineCheck, cNonresStore, cRangeLock].findSome? fun cause =>
    cs.findSome? fun c => match c.2 with
      | .bad k ipa => if k = cause then some (c.1, k, ipa) else none
      | _ => none

/-- Eight passes of one 128-byte row each (R321). -/
def placeRows (l : List LaneAcc) : List LaneAcc × Nat := (l.map fun a => { a with pass := a.lane / 8 }, 8)

def execXld (h : Head) (f : FmtM) (s : State) : Host.Outcome State Fault Refusal :=
  runIsa (.xld h f) h false s fun x s =>
    let cs := s.pieces x f .rd
    let missing := (cs.filter fun c => c.2 == .miss).map fun c => x.glAddr f (offTerm f + 16 * (c.1 : Int)) x.low
    if !missing.isEmpty then .gone (s.waitWalks x 0 missing)
    else
      match pieceBad cs with
      | some (j, cause, ipa) =>
        .trap s { cause, pc := x.pc, addr := x.vaOf f (offTerm f + 16 * (j : Int)) x.low, pa := BitVec.ofNat 64 ipa }
      | none =>
        let hs := cs.filterMap fun c =>
          (c.2.hit x f (offTerm f + 16 * (c.1 : Int)) x.low [] []).map fun h => { h with acc := { h.acc with lane := c.1 } }
        s.issueOp x f 2 16 0 (x.covers true) 0 (x.k.regsOf x.g f.d 1) 0
          (if hs.any fun h => h.p.kind == 1 then BitVec.ofNat 64 (2 ^ 32) else 0) false hs placeRows

/-! Stores (R156, R159, R245). -/

/-- The bytes of a lane of a data register (R156). -/
def Ctx.dataBytes (x : Ctx) (d : Opd) (size l : Nat) : List Byte :=
  match d with
  | .v n =>
    if size ≤ 4 then toBytes size (x.vword n.toNat 0 l)
    else (List.range (size / 4)).flatMap fun i => toBytes 4 (x.vword n.toNat i l)
  | .s n =>
    if size ≤ 8 then toBytes size (x.k.getS n.toNat).toNat
    else toBytes 8 (x.k.getS n.toNat).toNat ++ toBytes 8 (x.k.getS (n.toNat + 1)).toNat
  | _ => toBytes size (x.wide d l)

/-- A lane mask and colour joined to those of an entry. -/
def joinBy (l : List (Nat × Nat × Nat)) (uid mask col : Nat) : List (Nat × Nat × Nat) :=
  if l.any fun b => b.1 == uid && b.2.2 == col then
    l.map fun b => if b.1 == uid && b.2.2 == col then (b.1, b.2.1 ||| mask, b.2.2) else b
  else (uid, mask, col) :: l

/-- Bytes of a line replaced in an entry's list. -/
def joinBytes (old new : List (Nat × Byte)) : List (Nat × Byte) :=
  (old.filter fun b => !(new.any fun c => c.1 == b.1)) ++ new

/-- A store's bytes enter the quarter's buffer: merged, or in an entry that leaves within 1,024 cycles (R238, R245). -/
def State.bufPut (s : State) (x : Ctx) (cover col slack : Nat) (h : Hit) : State :=
  let q := quarterOf x.w
  let l := FMap.getD (s.core x.c).bufs q []
  let line := lineOf h.p.pa
  let own := decide (homeOf h.p.pa = stackOf x.c)
  let bytes := (h.acc.data.zip (List.range 16)).map fun b => (h.p.pa - line + b.2, b.1)
  let use := ((s.dom x.c x.k.dslot).g2, h.acc.va.toNat)
  let src : StoreBy := ⟨x.k.uid, x.g, x.pc, h.acc.va⟩
  match s.entryFor x h.p.pa with
  | some e =>
    let e' := { e with bytes := joinBytes e.bytes bytes, by_ := joinBy e.by_ x.k.uid cover col, seq := s.nextId
                       uses := if e.uses.contains use then e.uses else use :: e.uses
                       from_ := if e.from_.contains src then e.from_ else e.from_ ++ [src] }
    s.bumpId.modCore x.c fun k => { k with bufs := FMap.put k.bufs q (l.map fun y => if y == e then e' else y) }
  | none =>
    let r := s.freeBelow 1025
    let s := r.2
    let leaves := (l.filter fun e => own && e.own).foldl (fun m e => max m e.leaves) (s.clock + r.1)
    let e : Entry :=
      { id := s.nextId, line, bytes, dslot := x.k.dslot, own, by_ := [(x.k.uid, cover, col)], leaves, seq := s.nextId,
        shrd := h.p.shrd, mt := h.p.mt, did := s.dsDid x.c x.k.dslot, part := s.dsPart x.c x.k.dslot,
        uses := [use], uid := x.k.uid, ctx := false, slack, from_ := [src] }
    (s.bumpId.modCore x.c fun k => { k with bufs := FMap.put k.bufs q (l ++ [e]) }).schedule leaves
      (.storeBufferDrain x.c q e.id)

/-- One lane's store is performed where it belongs (R159, R240, R245, R448). -/
def State.storeHit (s : State) (x : Ctx) (f : FmtM) (size cover slack : Nat) (h : Hit) : State :=
  let col := f.col.toNat
  if f.sp = .ctx then
    let fl := x.fly s 1 0 [(x.k.uid, cover, col)] { h.p with pa := lineOf h.p.pa } [] 128 0 s.clock h.acc.va slack
    s.bumpId.launchFly { fl with
      bytes := (h.acc.data.zip (List.range 16)).map fun b => (h.p.pa % 128 + b.2, b.1), seq := fl.id, ctx := true }
  else if h.p.kind = 3 then
    s.bumpId.launchHost (x.fly s 7 0 [(x.k.uid, cover, col)] h.p [h.acc] size 0 s.clock h.acc.va slack)
  else if h.p.kind = 4 then
    match s.wayOf h.p.pa with
    | none => s
    | some w =>
      let fl := x.fly s 11 0 [(x.k.uid, cover, col)] h.p [h.acc] size 0 s.clock h.acc.va slack
      s.bumpId.launchPeer fl w
  else s.bufPut x cover col slack h

/-- Lanes in ascending order while the buffer takes them; those it does not are left (R159, R245). -/
def State.storeList (s : State) (x : Ctx) (f : FmtM) (size cover slack : Nat) : List Hit → State × List Hit
  | [] => (s, [])
  | h :: r =>
    if h.p.kind = 0 ∧ f.sp ≠ .ctx ∧ !s.entryRoom x h.p.pa then (s, h :: r)
    else State.storeList (s.storeHit x f size cover slack h) x f size cover slack r

/-- The lanes of a store: the state, and the lanes that wait for an entry. -/
def State.storeHits (s : State) (x : Ctx) (f : FmtM) (size cover : Nat) (hs : List Hit)
    (place : List LaneAcc → List LaneAcc × Nat) : State × List Hit :=
  if isSp f then
    (let s := if hs.isEmpty ∨ f.sp = .sp then s else s.drainOwn x.c (quarterOf x.w) x.k.uid cover
     s.sendBanks x f 4 0 0 size cover f.col.toNat hs place, [])
  else s.storeList x f size cover (s.slack x.c x.w) hs

/-- The lanes before the first that fails. -/
def takeGood : List (Nat × Chk) → List (Nat × Chk)
  | [] => []
  | c :: r => match c.2 with
    | .bad _ _ => []
    | _ => c :: takeGood r

def execSt (h : Head) (f : FmtM) (s : State) : Host.Outcome State Fault Refusal :=
  runIsa (.st h f) h false s fun x s => s.ifDropped x (isRel f.sem) f.sc (2 ^ f.col.toNat) fun s =>
    let n := szBytes f.sz
    let k := offTerm f
    let cs := (lanesOf x.act).map fun l => (l, s.checkLane x f k n n .wr true true l)
    let good := takeGood cs
    let missing := missingOf x f k good
    if !missing.isEmpty then .gone (s.waitWalks x 1 missing)
    else
      let s := s.refill x f k 1 (good.map (·.1))
      let hs := good.filterMap fun c => c.2.hit x f k c.1 (x.dataBytes f.d n c.1) []
      let r := s.storeHits x f n (x.covers false) hs (placePasses false n)
      if !r.2.isEmpty then
        .gone (r.1.modFrag x.c x.w x.g fun g =>
          { g with stored := g.stored ||| maskOf fun m => hs.any (·.acc.lane == m) && !(r.2.any (·.acc.lane == m)) })
      else
        match firstBad cs with
        | some (l, cause, ipa) =>
          .trap r.1 { cause, pc := x.pc, addr := x.vaOf f k l, lanes := maskOf fun m => m == l,
                      done := maskOf fun m => good.any fun c => c.1 == m, pa := BitVec.ofNat 64 ipa }
        | none => .next r.1

def execStu (h : Head) (f : FmtM) (s : State) : Host.Outcome State Fault Refusal :=
  runIsa (.stu h f) h false s fun x s => s.ifDropped x (isRel f.sem) f.sc (2 ^ f.col.toNat) fun s =>
    let n := szBytes f.sz
    let k := offTerm f
    match s.checkLane x f k n n .wr true true x.low with
    | .miss => .gone (s.waitWalks x 1 [x.glAddr f k x.low])
    | .bad cause ipa =>
      .trap s { cause, pc := x.pc, addr := x.vaOf f k x.low, lanes := maskOf fun l => l == x.low,
                pa := BitVec.ofNat 64 ipa }
    | .ok p =>
      let s := s.refill x f k 1 [x.low]
      let hs := ((Chk.ok p).hit x f k 0 (x.dataBytes f.d n x.low) []).toList
      .next (s.storeHits x f n (x.covers true) hs (placePasses false n)).1

def execXst (h : Head) (f : FmtM) (s : State) : Host.Outcome State Fault Refusal :=
  runIsa (.xst h f) h false s fun x s => s.ifDropped x (isRel f.sem) f.sc (2 ^ f.col.toNat) fun s =>
    let cs := s.pieces x f .wr
    let missing := (cs.filter fun c => c.2 == .miss).map fun c => x.glAddr f (offTerm f + 16 * (c.1 : Int)) x.low
    if !missing.isEmpty then .gone (s.waitWalks x 1 missing)
    else
      match pieceBad cs with
      | some (j, cause, ipa) =>
        .trap s { cause, pc := x.pc, addr := x.vaOf f (offTerm f + 16 * (j : Int)) x.low, pa := BitVec.ofNat 64 ipa }
      | none =>
        let bytes := match f.d with
          | .x n => (x.k.getX n.toNat).bytes
          | _ => []
        let hs := cs.filterMap fun c =>
          (c.2.hit x f (offTerm f + 16 * (c.1 : Int)) x.low (bytes.read (16 * c.1) 16) []).map fun h =>
            { h with acc := { h.acc with lane := c.1 } }
        .next (s.storeHits x f 16 (x.covers true) hs placeRows).1

/-! PREF and CCTL (R163, R165). -/

/-- The lanes' physical addresses whose translation passes; others are ignored. -/
def okSpots (cs : List (Nat × Chk)) : List Spot :=
  cs.filterMap fun c => match c.2 with
    | .ok p => if p.kind = 0 then some p else none
    | _ => none

def execPref (h : Head) (f : FmtM) (s : State) : Host.Outcome State Fault Refusal :=
  runIsa (.pref h f) h false s fun x s =>
    let k := offTerm f
    let cs := (lanesOf x.act).map fun l => (l, s.spot x f k 1 1 .rd true l)
    let missing := missingOf x f k cs
    if !missing.isEmpty then .gone (s.waitWalks x 0 missing)
    else
      let hs := cs.filterMap fun c => (c.2.hit x f k c.1 [] []).filter fun h => h.p.kind == 0
      let lines := ascending ((hs.map fun h => lineOf h.p.pa).eraseDups)
      let slack := s.slack x.c x.w
      .next ((lines.zip (List.range 32)).foldl (fun s p =>
        match hs.filter fun h => lineOf h.p.pa == p.1 with
        | [] => s
        | h :: r =>
          let fl := x.fly s 0 0 [] { h.p with pa := p.1 } [] 128 0 (s.clock + p.2) h.acc.va slack
          s.bumpId.launchRead { fl with
            nofill := !fl.own, from_ := [], uses := (h :: r).map fun h => (fl.g2, h.acc.va.toNat) }) s)

/-- CCTL's lanes: translations first, then an effect on each line. -/
def cctlLanes (x : Ctx) (f : FmtM) (s : State) (eff : State → Nat → State) : Res :=
  let cs := (lanesOf x.act).map fun l => (l, s.spot x f 0 1 1 .rd true l)
  let missing := missingOf x f 0 cs
  if !missing.isEmpty then .gone (s.waitWalks x 0 missing)
  else .next (((okSpots cs).map fun p => lineOf p.pa).eraseDups.foldl eff s)

def execCctlIl1 (h : Head) (f : FmtM) (s : State) : Host.Outcome State Fault Refusal :=
  runIsa (.cctlIl1 h f) h false s fun x s =>
    cctlLanes x f s fun s line => s.l1Drop x.c fun pa slot _ => pa == line && slot == x.k.dslot

def execCctlIl1all (h : Head) (f : FmtM) (s : State) : Host.Outcome State Fault Refusal :=
  runIsa (.cctlIl1all h f) h false s fun x s => .next (s.l1Drop x.c fun _ slot _ => slot == x.k.dslot)

def execCctlIl1rem (h : Head) (f : FmtM) (s : State) : Host.Outcome State Fault Refusal :=
  runIsa (.cctlIl1rem h f) h false s fun x s => .next (s.l1Drop x.c fun _ slot own => slot == x.k.dslot && !own)

def execCctlEvl2 (h : Head) (f : FmtM) (s : State) : Host.Outcome State Fault Refusal :=
  runIsa (.cctlEvl2 h f) h false s fun x s =>
    cctlLanes x f s fun s line =>
      s.modStack (homeOf line) fun k =>
        { k with l2 := k.l2.map fun l =>
            if l.pa == line && l.did == s.dsDid x.c x.k.dslot then { l with used := 0 } else l }

/-! Atomics (R166 to R169). -/

/-- An atomic of the acting lanes: both phases. `regs` is what it returns into; none for RED. -/
def State.atomics (s : State) (x : Ctx) (f : FmtM) (code : Nat) (regs : List Reg) (ret : Bool)
    (data new : Nat → List Byte) : Res :=
  s.ifDropped x (isRel f.sem) f.sc (2 ^ f.col.toNat) fun s =>
    let n := szBytes f.sz
    let hostOk := code == 0 || (ret && (code == 8 || code == 16))
    let cs := (lanesOf x.act).map fun l => (l, s.checkLane x f 0 n n .at_ hostOk false l)
    let missing := missingOf x f 0 cs
    if !missing.isEmpty then .gone (s.waitWalks x 1 missing)
    else
      match firstBad cs with
      | some (l, cause, ipa) =>
        .trap s { cause, pc := x.pc, addr := x.vaOf f 0 l, lanes := lanesBad cs cause, pa := BitVec.ofNat 64 ipa }
      | none =>
        let s := s.refill x f 0 1 (lanesOf x.act)
        let cs2 := (lanesOf x.act).map fun l => (l, s.checkLane x f 0 n n .at_ hostOk true l)
        let hs := (takeGood cs2).filterMap fun c => c.2.hit x f 0 c.1 (data c.1) (new c.1)
        let mask := maskOf fun l => hs.any fun h => h.acc.lane == l
        let res : Res :=
          if hs.isEmpty then .next s
          else if ret || isAcq f.sem || hs.any (fun h => h.p.kind == 4) then
            s.issueOp x f 3 n code mask.toNat f.col.toNat regs mask 0 true hs (placePasses true n)
          else if isSp f then
            let s := if f.sp = .sp then s else s.drainOwn x.c (quarterOf x.w) x.k.uid mask.toNat
            .next (s.sendBanks x f 5 0 code n mask.toNat f.col.toNat hs (placePasses true n))
          else
            let s := s.drainOwn x.c (quarterOf x.w) x.k.uid mask.toNat
            let slack := s.slack x.c x.w
            .next (((vaLines hs).zip (List.range 64)).foldl (fun s v =>
              s.sendLine x 0 code n mask.toNat f.col.toNat true slack hs v.1 (s.clock + v.2)) s)
        match firstBad cs2, res with
        | some (l, cause, _), .next s | some (l, cause, _), .gone s =>
          .trap s { cause, pc := x.pc, addr := x.vaOf f 0 l, lanes := maskOf fun m => m == l, done := mask }
        | _, r => r

def execAtom (h : Head) (f : FmtM) (s : State) : Host.Outcome State Fault Refusal :=
  runIsa (.atom h f) h false s fun x s =>
    s.atomics x f (fld f.off.toNat 0 4) (x.k.destRegs f.d (szV f.sz)) true (x.dataBytes f.d (szBytes f.sz)) fun _ => []

def execAtomcas (h : Head) (f : FmtM) (s : State) : Host.Outcome State Fault Refusal :=
  runIsa (.atomcas h f) h false s fun x s =>
    let n := szBytes f.sz
    let d := match f.d with
      | .v m => m.toNat
      | _ => 0
    let words (i l : Nat) : List Byte := (List.range (n / 4)).flatMap fun j => toBytes 4 (x.vword d (i + j) l)
    s.atomics x f 16 (x.k.destRegs f.d (szV f.sz)) true (words 0) (words (n / 4))

def execRed (h : Head) (f : FmtM) (s : State) : Host.Outcome State Fault Refusal :=
  runIsa (.red h f) h false s fun x s =>
    s.atomics x f (fld f.off.toNat 0 4) [] false (x.dataBytes f.d (szBytes f.sz)) fun _ => []

/-! FENCE (R170, R219). -/

def execFence (h : Head) (f : FmtM) (s : State) : Host.Outcome State Fault Refusal :=
  runIsa (.fence h f) h false s fun x s =>
    let cols := if f.sem = .relaxed then 255 else fld f.off.toNat 0 8
    s.ifDropped x (f.sem != .acq) f.sc cols fun s =>
      .next (if f.sem = .rel then s else s.acquire x.c x.k.dslot f.sc)

end Sys2Proof.Machine
end

