-- ==== Sys2Proof/Machine/Copy.lean ====
section
/-! DEFINITION. The copy engine: issue, start, element work, completion, faults, TSTAT, XQNT (R278 to R286, R322, R356,
R396 to R398). -/

namespace Sys2Proof.Machine

/-! Conflicts and starts (R285). -/

/-- Two ranges meet, and one is written. -/
def RangeLock.clash (a b : RangeLock) : Bool :=
  let sp (r : RangeLock) : Nat := if r.space = 3 then 0 else r.space
  (a.write || b.write) && sp a == sp b && (sp a != 0 || a.slot == b.slot) && decide (a.lo < b.hi) && decide (b.lo < a.hi)

def EOp.clash (a b : EOp) : Bool := a.rng.any fun p => b.rng.any p.clash

def EOp.isCopy (o : EOp) : Bool := decide (o.kind < 10)

/-- The core without a workgroup's replayed operations and what they lock. -/
def State.unqueued (s : State) (c wg : Nat) : State :=
  s.modCore c fun k =>
    let gone (id : Nat) : Bool := k.ops.any fun o => o.id == id && o.wg == wg && o.again
    { k with
      ops := k.ops.filter fun o => !(gone o.id)
      rlocks := k.rlocks.filter fun r => !(gone r.op)
      warps := k.warps.map fun p => (p.1, { p.2 with locks := p.2.locks.filter fun l => !(gone l.owner) }) }

/-- A fragment may come to issue before its workgroup's replayed operations start: it is ready, and it is not they that
hold its word. -/
def State.issuesFirst (s : State) (c : Nat) (p : Nat × Warp) (f : Nat × Frag) : Bool :=
  f.2.st == .ready && f.2.heldCall.isNone && !f.2.heldTrap
    && (decide (s.clock < f.2.stall) || match f.2.word.bind decodeWord with
        | none => true
        | some i => !(s.held i (Instr.head i) c p.1 f.1) || (s.unqueued c p.2.wg).held i (Instr.head i) c p.1 f.1)

/-- A replayed operation counts as issued in the cycle before its workgroup's first issue after the restore: it waits for
that issue while some fragment may come to it (R359; DESIGN CHOICE, log 40, where none may). -/
def State.beforeFirst (s : State) (c : Nat) (o : EOp) : Bool :=
  o.again && (s.core c).warps.any fun p =>
    p.2.wg == o.wg && !p.2.parked && !p.2.stopped && p.2.frags.any (s.issuesFirst c p)

/-- Operations issued before one. -/
def Core.opsBefore (k : Core) (id : Nat) : List EOp := k.ops.takeWhile fun o => o.id != id

/-- An operation may start: no earlier one of the core conflicts, and the earlier ones of its engine have started. -/
def Core.opFree (k : Core) (o : EOp) : Bool :=
  (k.opsBefore o.id).all fun e => !(e.clash o) && (e.isCopy != o.isCopy || e.started)

def Core.op? (k : Core) (id : Nat) : Option EOp := k.ops.find? fun o => o.id == id
def State.setOp (s : State) (c : Nat) (o : EOp) : State :=
  s.modCore c fun k => { k with ops := k.ops.map fun e => if e.id = o.id then o else e }

/-- The core's engines look again at what may start. -/
def State.kickEngines (s : State) (c : Nat) : State :=
  let s := ((s.core c).ops.filter fun o => o.isCopy && !o.started).foldl (fun s o => s.schedule s.clock (.copyStart c o.id)) s
  if (s.core c).ops.any fun o => !o.isCopy && !o.started then s.schedule s.clock .matrixOpStart else s

/-! Issue (R278, R284, R396). -/

/-- Generations of the tiles that a destination's ranges meet go up by one (R278, R312). -/
def State.bumpRanges (s : State) (c wg : Nat) (l : List RangeLock) : State :=
  let base := (s.wg c wg).first
  let iv := (l.filter fun r => r.space == 1 && r.write).map fun r => (r.lo - base, r.hi - base)
  if iv.isEmpty then s else s.modCore c fun k => k.bumpTiles wg iv

/-- A free ticket record, the oldest complete one freed for it if need be. -/
def Core.roomTicket (k : Core) : Core :=
  if k.tickets.length < 32 then k
  else
    match ((k.tickets.filter fun t => t.state == 1).map (·.order)).min? with
    | some o => { k with tickets := k.tickets.filter fun t => t.order != o }
    | none => k

/-- A copy is registered: ranges, generations, ticket, promise; its d lands 2 cycles later. -/
def State.copyGo (s : State) (x : Ctx) (d : Opd) (o : EOp) (k : Cost) : State :=
  let id := s.nextId
  let rng := o.rng.map fun r => { r with op := id }
  let s := s.bumpId.bumpRanges x.c x.k.wg rng
  let co := s.core x.c
  let tid := if co.nextTicket = 0xFFFF then 1 else co.nextTicket + 1
  let o := { o with id, rng, ticket := tid, gen := ((s.warp x.c x.w).getT o.tbi).gen, cached := k.cached, homes := k.homes }
  let empty := o.locks.isEmpty
  let start := (co.ops.filter fun e => e.isCopy && e.clash o).foldl (fun m e => max m e.promise) (s.clock + 8)
  let from_ := max start co.hz
  let promise := if empty then s.clock else from_ + k.t + k.lat + k.f
  let o := { o with promise }
  let s := s.modCore x.c fun co =>
    let co := co.roomTicket
    { co with
      nextTicket := tid
      tickets := co.tickets ++ [{ id := tid, wg := x.k.wg, state := b2n empty, cause := 0, addr := 0, order := id, promise }]
      rlocks := co.rlocks ++ o.locks
      hz := if empty then co.hz else from_ + k.t
      ops := if empty then co.ops else co.ops ++ [o] }
  let s := if empty then s
    else (s.modWarp x.c x.w fun w => w.lock id (o.xw.map Reg.x)).schedule (s.clock + 8) (.copyStart x.c id)
  match d with
  | .s n => s.sendLocked x.c x.w (.s n.toNat) (BitVec.allOnes 32) [] (BitVec.ofNat 64 (tid * 2 ^ 48 + promise % 2 ^ 48)) 2
  | _ => s

/-- NRM's uniform-read mark (R158, R274). -/
def State.markNrm (s : State) (x : Ctx) (on : Bool) (bit : Nat) : State :=
  if on then s.modWarp x.c x.w fun k => { k with nrm := k.nrm ||| BitVec.ofNat 64 (2 ^ bit) } else s

/-- A copy instruction: checks, walks, registration. The free values that a peer's record may have taken are used up. -/
def State.copyIssue (s : State) (x : Ctx) (i : Instr) (d : Opd) : Res :=
  match s.copyPlan x i with
  | some (.trap t mark) => .trap (s.markNrm x mark 32) t
  | some (.miss va) => .gone (s.waitWalks x 0 [va])
  | some (.go o k) => .next (({ s with free := s.free + 16 } : State).copyGo x d o k)
  | none => .next s

def execTload (h : Head) (f : FmtE) (s : State) : Host.Outcome State Fault Refusal :=
  runIsa (.tload h f) h false s fun x s => s.copyIssue x (.tload h f) f.d
def execTstore (h : Head) (f : FmtE) (s : State) : Host.Outcome State Fault Refusal :=
  runIsa (.tstore h f) h false s fun x s => s.copyIssue x (.tstore h f) f.d
def execTgather (h : Head) (f : FmtE) (s : State) : Host.Outcome State Fault Refusal :=
  runIsa (.tgather h f) h false s fun x s => s.copyIssue x (.tgather h f) f.d
def execTscatter (h : Head) (f : FmtE) (s : State) : Host.Outcome State Fault Refusal :=
  runIsa (.tscatter h f) h false s fun x s => s.copyIssue x (.tscatter h f) f.d
def execTcopy (h : Head) (f : FmtE) (s : State) : Host.Outcome State Fault Refusal :=
  runIsa (.tcopy h f) h false s fun x s => s.copyIssue x (.tcopy h f) f.d
def execTfill (h : Head) (f : FmtE) (s : State) : Host.Outcome State Fault Refusal :=
  runIsa (.tfill h f) h false s fun x s => s.copyIssue x (.tfill h f) f.d
def execXqnt (h : Head) (f : FmtE) (s : State) : Host.Outcome State Fault Refusal :=
  runIsa (.xqnt h f) h false s fun x s => s.copyIssue x (.xqnt h f) f.d

/-! TSTAT (R284). -/

def execTstat (h : Head) (f : FmtE) (s : State) : Host.Outcome State Fault Refusal :=
  runIsa (.tstat h f) h false s fun x s =>
    let r := (s.core x.c).ticket? x.k.wg (x.uni f.a)
    let v := match r with
      | none => 3
      | some t => if t.state = 2 then 2 + 2 ^ 8 * t.cause else t.state
    let s := match r with
      | some t => if t.state = 1 then s.modCore x.c fun k => k.freeTicket t else s
      | none => s
    match f.d with
    | .s n => .next (s.sendLocked x.c x.w (.s n.toNat) (BitVec.allOnes 32) [] (BitVec.ofNat 64 v) 2)
    | _ => .next s

/-! Element work (R279 to R286). -/

/-- Work under way: the state, whether zeros of a not-present-managed page were read, the failure, the requests for lines,
latest first, and what is staged. -/
structure Job where
  s : State
  zeros : Bool := false
  fail : Option CopyFail := none
  /-- a translation that is not at hand: the address and the need; the work cannot go on before its walk (R263) -/
  miss : Option (Nat × Nat) := none
  reqs : List EngReq := []
  snap : List (Nat × List Byte) := []
  deriving DecidableEq, Repr

def Job.stop (j : Job) (cause a : Nat) (pa : Nat := 0) (detail : Nat := 0) : Job :=
  { j with fail := some { cause, addr := a, pa, detail } }

/-- One more request for a line; the next bytes of the line of the request before belong to that. -/
def Job.request (j : Job) (q : EngReq) : Job :=
  match j.reqs with
  | p :: r =>
    if lineOf p.pa = lineOf q.pa ∧ p.write = q.write then
      { j with reqs := { p with n := min (p.n + q.n) (128 - p.pa % 128) } :: r }
    else { j with reqs := q :: p :: r }
  | [] => { j with reqs := [q] }

/-- The bytes that an engine's request for a line costs (R425). -/
def EngReq.cost (q : EngReq) : Nat := if q.write ∧ q.n < 128 then 64 else 128

/-- An error in core c's scratchpad (R386, R388). -/
def Job.stopSp (j : Job) (c a : Nat) : Job := j.stop cMachineCheck a 0 (4 + c * 2 ^ 4)

/-- The place that a translation gives a piece of memory, inside a line, for a need; none when the piece fails. -/
def Job.placeAt (j : Job) (c sp va need n : Nat) : Tr → Option (Option Nat) × Job
  | .miss => (none, { j.stop cTranslation va with miss := some (va, need) })
  | .fault cause pa => (none, j.stop cause va pa (if cause = cMachineCheck then j.s.lostDetail pa else 0))
  | .zeros _ => if need = 1 then (none, j.stop cNonresStore va) else (some none, { j with zeros := true })
  | .ok pa t _ =>
    if sp = 3 ∧ j.s.region pa ≠ 1 then (none, j.stop cTranslation va)
    else if !(j.s.routable c pa) then (none, j.stop cMachineCheck va pa (j.s.lostDetail pa))
    else
      match j.s.wayOf pa with
      | some w =>
        if w.mr ∧ (need = 0 ∨ n % mrBytes w.etyp ≠ 0) then (none, j.stop cTranslation va) else (some (some pa), j)
      | none =>
        if j.s.isLost pa then (none, j.stop cMachineCheck va pa (j.s.lostDetail pa))
        else (some (some pa), if j.s.region pa ≤ 1 then j.request ⟨pa, n, need == 1, t.shrd, t.mt, va⟩ else j)

/-- The place of one piece of memory, inside a line, for a need; none when the piece fails. -/
def Job.place (j : Job) (c : Nat) (d : Dom) (sp : Nat) (va : Option Nat) (alt need n : Nat) : Option (Option Nat) × Job :=
  match va with
  | none => (none, j.stop cTranslation alt)
  | some va =>
    if 2 ^ 64 ≤ va then (none, j.stop cTranslation va) else j.placeAt c sp va need n (j.s.translateFor c d va need)

/-- Bytes at a place: a peer's are free (DESIGN CHOICE, log 22). -/
def Job.fetch (j : Job) (p : Option Nat) (n : Nat) : List Byte × Job :=
  match p with
  | none => (List.replicate n 0, j)
  | some pa =>
    if (j.s.wayOf pa).isSome then
      (List.range n).foldl (fun (r : List Byte × Job) _ =>
        let w := r.2.s.freeWord
        (r.1 ++ [w.1.setWidth 8], { r.2 with s := w.2 })) ([], j)
    else if j.s.region pa = 2 then (j.s.hostRd pa n, j)
    else (j.s.rd pa n, j)

/-- A piece of at most sixteen bytes goes to a peer as a store's would, in the issuing warp's name: a release at SY hears of it
if it is discarded (R448, R450). -/
def State.peerPut (s : State) (c : Nat) (o : EOp) (pa va : Nat) (b : List Byte) : State :=
  match s.wayOf pa with
  | none => s
  | some w =>
    let d := s.dom c o.dslot
    let acc : LaneAcc := { lane := 0, pa, va := BitVec.ofNat 64 va, kind := 4, data := b, new := [], pass := 0 }
    s.bumpId.launchPeer { s.plainFly 11 c pa b.length d.did (d.part.getD 0) d.g2 with
      slot := o.slot, uid := o.uid, frag := o.frag, by_ := [(o.uid, 2 ^ 32 - 1, 0)], accs := [acc], arg := o.id
      dslot := o.dslot, va := BitVec.ofNat 64 va } w

/-- Writes of an engine operation to peers that have not been acknowledged (R450). -/
def State.peerOut (s : State) (c : Nat) (o : EOp) : Bool :=
  s.fly.any fun f => f.2.kind == 11 && f.2.core == c && f.2.arg == o.id && f.2.uid == o.uid && !f.2.performed

/-- Bytes are put at a place. -/
def State.engPut (s : State) (c : Nat) (o : EOp) (pa va : Nat) (b : List Byte) : State :=
  if (s.wayOf pa).isSome then
    ((chunks 16 16 b).zip (List.range 16)).foldl (fun s p => s.peerPut c o (pa + 16 * p.2) (va + 16 * p.2) p.1) s
  else if s.region pa = 2 then s.hostWr pa b
  else
    (s.l1Drop c fun l _ _ => l == lineOf pa).homePut pa b

/-- The good places of a run, line by line: address, place, bytes. -/
def Job.places (j : Job) (c : Nat) (d : Dom) (sp need : Nat) (at_ : Nat → Option Nat) (alt : Nat → Nat) :
    Nat → Nat → Nat → List (Option Nat × Nat) × Job
  | 0, _, _ => ([], j)
  | fuel + 1, off, n =>
    if n = 0 then ([], j)
    else
      let k := min n (128 - alt off % 128)
      match j.place c d sp (at_ off) (alt off) need k with
      | (none, j) => ([], j)
      | (some p, j) =>
        let r := Job.places j c d sp need at_ alt fuel (off + k) (n - k)
        ((p, k) :: r.1, r.2)

/-- Elements wholly among the first n bytes, in bits. -/
def wholeBits (eb n : Nat) : Nat := 8 * n / eb * eb

/-- Bytes cut after the last whole element; the rest of its byte keeps what was there. -/
def cutBits (eb : Nat) (new old : List Byte) : List Byte :=
  let b := wholeBits eb new.length
  let full := b / 8
  let r := b % 8
  new.take full ++
    (if r = 0 then []
     else [BitVec.ofNat 8 ((new.getD full 0).toNat % 2 ^ r + ((old.getD full 0).toNat / 2 ^ r) * 2 ^ r)])

/-- Read a run: its bytes up to a failure. -/
def Job.readRun (j : Job) (c : Nat) (o : EOp) (sp : Nat) (at_ : Nat → Option Nat) (alt : Nat → Nat) (n : Nat) :
    List Byte × Job :=
  let r := j.places c (j.s.dom c o.dslot) sp 0 at_ alt (n / 128 + 2) 0 n
  r.1.foldl (fun a p =>
    let q := a.2.fetch p.1 p.2
    (a.1 ++ q.1, q.2)) ([], r.2)

/-- Write a run: whole elements up to a failure. -/
def Job.writeRun (j : Job) (c : Nat) (o : EOp) (sp eb : Nat) (at_ : Nat → Option Nat) (alt : Nat → Nat)
    (b : List Byte) : Job :=
  let r := j.places c (j.s.dom c o.dslot) sp 1 at_ alt (b.length / 128 + 2) 0 b.length
  let good := (r.1.map (·.2)).foldl (· + ·) 0
  let b := if good < b.length then
      let old := r.1.foldl (fun (a : List Byte × Job) p =>
        let q := a.2.fetch p.1 p.2
        (a.1 ++ q.1, q.2)) ([], r.2)
      cutBits eb (b.take good) old.1
    else b
  (r.1.foldl (fun (a : Job × List Byte × Nat) p =>
    match p.1 with
    | some pa => ({ a.1 with s := a.1.s.engPut c o pa (alt a.2.2) (a.2.1.take p.2) }, a.2.1.drop p.2, a.2.2 + p.2)
    | none => (a.1, a.2.1.drop p.2, a.2.2 + p.2)) (r.2, b, 0)).1

/-- Addresses of a tensor run. -/
def Run.vaAt (r : Run) (off : Nat) : Option Nat := canon57 (r.addr + (off : Int))
def Run.altAt (r : Run) (off : Nat) : Nat := canonOr (r.addr + (off : Int))

/-- The sixteen-byte pieces of part of a tile row, permuted: offset and bytes (R276). -/
def tilePieces (t : TReg) (perm row : Nat) : Nat → Nat → Nat → List (Nat × Nat)
  | 0, _, _ => []
  | fuel + 1, at_, n =>
    if n = 0 then []
    else
      let o := t.base.toNat + row * t.pitch.toNat + at_
      let k := if perm = 0 then n else min n (16 - o % 16)
      (permOff perm row o, k) :: tilePieces t perm row fuel (at_ + k) (n - k)

/-- Write part of a tile row. -/
def State.tileWr (s : State) (c wg : Nat) (t : TReg) (perm row at_ : Nat) (b : List Byte) : State :=
  let base := (s.wg c wg).first
  ((tilePieces t perm row (b.length / 16 + 2) at_ b.length).foldl (fun (a : State × List Byte) p =>
    (a.1.spWr c (base + p.1) (a.2.take p.2), a.2.drop p.2)) (s, b)).1

/-- Bytes of part of a tile row. -/
def State.tileRd (s : State) (c wg : Nat) (t : TReg) (perm row at_ n : Nat) : List Byte :=
  let base := (s.wg c wg).first
  (tilePieces t perm row (n / 16 + 2) at_ n).flatMap fun p => s.spRd c (base + p.1) p.2

/-- Scratchpad bytes that an engine reads hold an error (R386). -/
def Job.tileRead (j : Job) (c wg : Nat) (t : TReg) (perm row at_ n : Nat) : List Byte × Job :=
  let base := (j.s.wg c wg).first
  let bad := (tilePieces t perm row (n / 16 + 2) at_ n).find? fun p => j.s.spBad c (base + p.1) p.2
  match bad with
  | none => (j.s.tileRd c wg t perm row at_ n, j)
  | some p =>
    let whole := j.s.tileRd c wg t perm row at_ n
    let good := (List.range n).takeWhile fun i =>
      !(j.s.spBad c (base + permOff perm row (t.base.toNat + row * t.pitch.toNat + at_ + i)) 1)
    (whole.take good.length, j.stopSp c p.1)

/-- A piece of a tile row that lies in one 1,024-byte scratchpad row: its bytes of the tile row, from and to, and that row. -/
structure Seg where
  row : Nat
  lo : Nat
  hi : Nat
  key : Nat
  deriving DecidableEq, Repr

/-- The pieces of n bytes from at_ on, of a row that begins at an address; a group of four 6-bit elements stays whole. -/
def segsFrom (addr eb row : Nat) : Nat → Nat → Nat → List Seg
  | 0, _, _ => []
  | fuel + 1, at_, n =>
    if n = 0 then []
    else
      let k := min n (1024 - (addr + at_) % 1024)
      let k := if eb = 6 ∧ k < n then (if k < 3 then min n 3 else k - k % 3) else k
      ⟨row, at_, at_ + k, (addr + at_) / 1024⟩ :: segsFrom addr eb row fuel (at_ + k) (n - k)

/-- The pieces of a row of a tile. -/
def TReg.segs (t : TReg) (base eb bytes row : Nat) : List Seg :=
  segsFrom (base + t.base.toNat + row * t.pitch.toNat) eb row (2 * (bytes / 1024) + 4) 0 bytes

/-- The part of a run behind a piece of its tile row. -/
def Run.clip (r : Run) (g : Seg) : Run :=
  let lo := max r.at_ g.lo
  let hi := max lo (min (r.at_ + r.n) g.hi)
  { r with at_ := lo, addr := r.addr + ((lo - r.at_ : Nat) : Int), n := hi - lo }

/-- Bytes lo to hi of a row of equal elements. -/
def fillBytes (eb fill cols lo hi : Nat) : List Byte :=
  ((packRow eb (List.replicate cols (fill % 2 ^ eb))).drop lo).take (hi - lo)

/-- A piece of a row of a TLOAD or TGATHER: fill, memory, fill, in ascending columns. -/
def Job.loadSeg (c : Nat) (o : EOp) (eb : Nat) (run : Nat → Option Run) (j : Job) (g : Seg) : Job :=
  if j.fail.isSome then j
  else
    let perm := rPerm o.rcd
    let fill (lo hi : Nat) (j : Job) : Job :=
      { j with s := j.s.tileWr c o.wg o.tb perm g.row lo (fillBytes eb (rFill o.rcd) o.tb.cols.toNat lo hi) }
    match run g.row with
    | none => fill g.lo g.hi j
    | some r =>
      let r := r.clip g
      if r.n = 0 then fill g.lo g.hi j
      else
        let j := fill g.lo r.at_ j
        let q := j.readRun c o o.sp r.vaAt r.altAt r.n
        let b := if q.1.length < r.n then cutBits eb q.1 (q.2.s.tileRd c o.wg o.tb perm g.row r.at_ q.1.length) else q.1
        let j : Job := { q.2 with s := q.2.s.tileWr c o.wg o.tb perm g.row r.at_ b }
        if j.fail.isSome then j else fill (r.at_ + r.n) g.hi j

/-- A piece of a row of a TSTORE or TSCATTER. -/
def Job.storeSeg (c : Nat) (o : EOp) (eb : Nat) (run : Nat → Option Run) (j : Job) (g : Seg) : Job :=
  match run g.row with
  | none => j
  | some r =>
    let r := r.clip g
    if j.fail.isSome ∨ r.n = 0 then j
    else
      let q := j.tileRead c o.wg o.tb (rPerm o.rcd) g.row r.at_ r.n
      match q.2.fail with
      | none => q.2.writeRun c o o.sp eb r.vaAt r.altAt q.1
      | some _ =>
        let part := q.1.take (wholeBits eb q.1.length / 8)
        let w := ({ q.2 with fail := none } : Job).writeRun c o o.sp eb r.vaAt r.altAt part
        if w.fail.isSome then w else { w with fail := q.2.fail }

/-- The run behind a row. -/
def runOf (l : List Run) (row : Nat) : Option Run := l.find? fun x => x.row == row

/-- Rows of a tile with the run behind each. -/
def rowRuns (n : Nat) (l : List Run) : List (Nat × Option Run) := (List.range n).map fun r => (r, runOf l r)

/-- A scale byte of a TLOAD's stream goes to its place in the X registers. -/
def State.putScale (s : State) (c : Nat) (o : EOp) (i : Nat) (b : Byte) : State :=
  s.modWarp c o.slot fun k =>
    let n := o.xw.getD (i / 1024) 0
    let xr := k.getX n
    { k with x := FMap.put k.x n { xr with bytes := xr.bytes.set (i % 1024) b } }

/-- One tile row's part of the scale stream of a TLOAD (R277). -/
def Job.loadScale (c : Nat) (o : EOp) (nb : Nat) (one : Byte) (j : Job) (p : Nat × Option Run) : Job :=
  if j.fail.isSome then j
  else
    let put (j : Job) (q : Nat) (b : List Byte) : Job :=
      { j with s := (b.zip (List.range b.length)).foldl (fun s e => s.putScale c o (p.1 * nb + q + e.2) e.1) j.s }
    match p.2 with
    | none => put j 0 (List.replicate nb one)
    | some r =>
      let j := put j 0 (List.replicate r.at_ one)
      let g := j.readRun c o o.sp r.vaAt r.altAt r.n
      let j := put g.2 r.at_ g.1
      if j.fail.isSome then j else put j (r.at_ + r.n) (List.replicate (nb - (r.at_ + r.n)) one)

/-- The scale bytes a TSTORE captured. -/
def EOp.scaleAt (o : EOp) (i : Nat) : Byte :=
  match o.xs[i / 1024]? with
  | some p => p.2.get (i % 1024)
  | none => 0

/-- One tile row's part of the scale stream of a TSTORE. -/
def Job.storeScale (c : Nat) (o : EOp) (nb : Nat) (j : Job) (r : Run) : Job :=
  if j.fail.isSome then j
  else j.writeRun c o o.sp 8 r.vaAt r.altAt ((List.range r.n).map fun q => o.scaleAt (r.row * nb + r.at_ + q))

/-- A copy's work is done in parts, in the order of its elements: a part moves what lies in one 1,024-byte scratchpad row, which
takes the row port a cycle, or nothing of the scratchpad; and what it does (R205, DESIGN CHOICE, log 53). -/
structure CopyPart where
  keys : List Nat
  run : Job → Job

/-- Neighbours with one key are put together. -/
def joinRuns {α : Type} (key : α → Nat) : List α → List (List α)
  | [] => []
  | a :: r =>
    match joinRuns key r with
    | (b :: t) :: rest => if key a = key b then (a :: b :: t) :: rest else [a] :: (b :: t) :: rest
    | _ => [[a]]

/-- The 1,024-byte rows of an interval. -/
def rowKeys (lo n : Nat) : List Nat :=
  if n = 0 then [] else (List.range ((lo + n - 1) / 1024 - lo / 1024 + 1)).map (lo / 1024 + ·)

/-- The parts of work on the rows of a tile: pieces in one scratchpad row go together. -/
def tileParts (base : Nat) (t : TReg) (eb bytes : Nat) (f : Job → Seg → Job) (rows : List Nat) : List CopyPart :=
  (joinRuns (·.key) (rows.flatMap (t.segs base eb bytes))).map fun g =>
    { keys := dedup (g.map (·.key)), run := fun j => g.foldl f j }

/-- The parts of a TLOAD, TSTORE, TGATHER or TSCATTER on its tile; a store moves only rows that have a run. -/
def tensorTile (base c : Nat) (o : EOp) (eb n : Nat) (load : Bool) (runs : List Run) : List CopyPart :=
  if load then tileParts base o.tb eb (o.tb.rowBytes o.fb) (Job.loadSeg c o eb (runOf runs)) (List.range n)
  else tileParts base o.tb eb (o.tb.rowBytes o.fb) (Job.storeSeg c o eb (runOf runs)) (runs.map (·.row))

/-- TLOAD and TSTORE (R279, R280). -/
def State.tensorParts (s : State) (c : Nat) (o : EOp) : List CopyPart :=
  let r := o.rcd
  let f := NFmt.of o.fb
  let xs := (List.range 7).map fun d => sextN 32 (fld (o.svals.getD (d + 1) 0).toNat 0 32)
  let x0 := xs.getD 0 0
  let eb := eBits (rFmt r) o.fb
  let n := boxRows r
  let rows := (List.range n).map (boxRow r xs f.blk)
  let runs := dataRuns r x0 eb rows
  let nb := rBox r 0 / f.blk
  let scales := if o.flag then scaleRuns r x0 f.blk rows else []
  let base := (s.wg c o.wg).first
  if o.kind = 0 then
    tensorTile base c o eb n true runs
      ++ (if o.flag then (joinRuns (fun (p : Nat × Option Run) => p.1 * nb / 1024) (rowRuns n scales)).map fun g =>
            { keys := [], run := fun j => g.foldl (fun j p => j.loadScale c o nb (if f.e4m3 then 0x38 else 0x7F) p) j }
          else [])
  else
    tensorTile base c o eb n false runs
      ++ (joinRuns (fun (p : Run) => p.row * nb / 1024) scales).map fun g =>
          { keys := [], run := fun j => g.foldl (fun j p => j.storeScale c o nb p) j }

/-- A piece of the index list is read. -/
def Job.listSeg (c : Nat) (o : EOp) (off : Nat) (j : Job) (g : Seg) : Job :=
  let base := (j.s.wg c o.wg).first
  if j.fail.isSome then j
  else if j.s.spBad c (base + off + g.lo) (g.hi - g.lo) then j.stopSp c (off + g.lo)
  else
    { j with snap := [(0, ((j.snap.head?).map (·.2)).getD [] ++ j.s.spRd c (base + off + g.lo) (g.hi - g.lo))] }

/-- TGATHER and TSCATTER: the index list, then the tile by it (R281). -/
def State.gatherParts (s : State) (c : Nat) (o : EOp) : List CopyPart :=
  let r := o.rcd
  let x0 := sextN 32 (fld (o.svals.getD 2 0).toNat 0 32)
  let off := fld (o.svals.getD 1 0).toNat 0 32
  let eb := eBits (rFmt r) o.fb
  let n := o.tb.rows.toNat
  let list := ((o.snap.head?).map (·.2)).getD []
  let base := (s.wg c o.wg).first
  ((segsFrom (base + off) 32 0 (4 * n / 1024 + 4) 0 (4 * n)).map fun g =>
      ({ keys := [g.key], run := fun j => j.listSeg c o off g } : CopyPart))
    ++ tensorTile base c o eb n (o.kind == 2) (dataRuns r x0 eb (gatherRows r (indexList list n)))

/-- One sixteen-byte chunk of a TCOPY between memory and the scratchpad, or within memory, read and then written (R282). -/
def Job.copyChunk (c : Nat) (o : EOp) (j : Job) (i : Nat) : Job :=
  if j.fail.isSome then j
  else
    let a := (o.svals.getD 0 0).toNat + 16 * i
    let b := (o.svals.getD 1 0).toNat + 16 * i
    let base := (j.s.wg c o.wg).first
    let q : List Byte × Job :=
      if o.sp = 1 then
        (if j.s.spBad c (base + a) 16 then ([], j.stopSp c a) else (j.s.spRd c (base + a) 16, j))
      else j.readRun c o o.sp (fun k => some (a + k)) (fun k => a + k) 16
    if q.2.fail.isSome then q.2
    else if o.sp2 = 1 then { q.2 with s := q.2.s.spWr c (base + b) q.1 }
    else q.2.writeRun c o o.sp2 128 (fun k => some (b + k)) (fun k => b + k) q.1

/-- A chunk of a TCOPY within the scratchpad is read: what an earlier chunk of the copy goes to is that chunk (R282). -/
def Job.chunkIn (c : Nat) (o : EOp) (j : Job) (i : Nat) : Job :=
  if j.fail.isSome then j
  else
    let a := (o.svals.getD 0 0).toNat + 16 * i
    let b := (o.svals.getD 1 0).toNat
    let base := (j.s.wg c o.wg).first
    match if b ≤ a ∧ (a - b) / 16 < i then j.snap.find? (fun p => p.1 == (a - b) / 16) else none with
    | some p => { j with snap := j.snap ++ [(i, p.2)] }
    | none =>
      if j.s.spBad c (base + a) 16 then j.stopSp c a else { j with snap := j.snap ++ [(i, j.s.spRd c (base + a) 16)] }

/-- It is written. -/
def Job.chunkOut (c : Nat) (o : EOp) (j : Job) (i : Nat) : Job :=
  match j.snap.find? fun p => p.1 == i with
  | some p => { j with s := j.s.spWr c ((j.s.wg c o.wg).first + (o.svals.getD 1 0).toNat + 16 * i) p.2 }
  | none => j

/-- A source row of a TCOPY within the scratchpad: its chunks are read; those that an error keeps back leave the chunks before
them to be written first. -/
def Job.rowIn (c : Nat) (o : EOp) (j : Job) (g : List Nat) : Job :=
  let q := g.foldl (Job.chunkIn c o) j
  if q.fail.isNone then q
  else { (q.snap.map (·.1)).foldl (Job.chunkOut c o) { q with fail := none } with fail := q.fail }

/-- The parts of a TCOPY within the scratchpad: each source row is read, and each destination row written once its chunks have
been read. -/
def copyWithin (c : Nat) (o : EOp) (b : Nat → Nat) : List (List Nat) → List (List Nat) → List (Nat × List Nat) → List CopyPart
  | [], outs, _ => outs.map fun g => { keys := [b (g.headD 0) / 1024], run := fun j => g.foldl (Job.chunkOut c o) j }
  | g :: ins, outs, keys =>
    let last := g.getLastD 0
    let now := outs.takeWhile fun q => decide (q.getLastD 0 ≤ last)
    { keys := ((keys.head?).map (·.2)).getD [], run := fun j => j.rowIn c o g }
      :: (now.map fun q => ({ keys := [b (q.headD 0) / 1024], run := fun j => q.foldl (Job.chunkOut c o) j } : CopyPart))
      ++ copyWithin c o b ins (outs.dropWhile fun q => decide (q.getLastD 0 ≤ last)) keys.tail

def State.tcopyParts (s : State) (c : Nat) (o : EOp) : List CopyPart :=
  let base := (s.wg c o.wg).first
  let a (i : Nat) : Nat := (if o.sp = 1 then base else 0) + (o.svals.getD 0 0).toNat + 16 * i
  let b (i : Nat) : Nat := (if o.sp2 = 1 then base else 0) + (o.svals.getD 1 0).toNat + 16 * i
  let all := List.range ((o.svals.getD 2 0).toNat / 16)
  if o.sp = 1 ∧ o.sp2 = 1 then
    let ins := joinRuns (fun i => a i / 1024) all
    copyWithin c o b ins (joinRuns (fun i => b i / 1024) all) (ins.map fun g => (0, [a (g.headD 0) / 1024]))
  else
    (joinRuns (fun i => (if o.sp = 1 then a i else b i) / 1024) all).map fun g =>
      let i := g.headD 0
      { keys := if o.sp = 1 then [a i / 1024] else if o.sp2 = 1 then [b i / 1024] else []
        run := fun j => g.foldl (Job.copyChunk c o) j }

/-- A piece of a row of a TFILL. -/
def Job.fillSeg (c : Nat) (o : EOp) (eb : Nat) (j : Job) (g : Seg) : Job :=
  { j with s := j.s.tileWr c o.wg o.tb 0 g.row g.lo (fillBytes eb (o.svals.getD 0 0).toNat o.tb.cols.toNat g.lo g.hi) }

def State.tfillParts (s : State) (c : Nat) (o : EOp) : List CopyPart :=
  let eb := eBits o.tb.fmt.toNat o.fb
  tileParts (s.wg c o.wg).first o.tb eb (o.tb.rowBytes o.fb) (Job.fillSeg c o eb) (List.range o.tb.rows.toNat)

/-- A block's codes with the generators its elements step (R70, R83): element i of the tile uses lane i mod 32,
in a block that is not finite too (DEDUCED, log 34). -/
def quantBlock (f : NFmt) (r : Rnd) (first : Nat) (b : List Exact) (gen : Lanes) : List Nat × Lanes :=
  let k := blockExp f b
  (b.zip (List.range b.length)).foldl (fun (a : List Nat × Lanes) e =>
    let l := (first + e.2) % 32
    let g := genStep (a.2.get l)
    (a.1 ++ [blockCode f k r g e.1], if r = .sr then Lanes.build fun m => if m = l then g else a.2.get m else a.2)) ([], gen)

/-- A list cut into blocks. -/
def blocks {α : Type} (n : Nat) : Nat → List α → List (List α)
  | 0, _ => []
  | fuel + 1, l => if l.isEmpty then [] else l.take n :: blocks n fuel (l.drop n)

/-- XQNT stages a piece of a row of its source (R84); one that holds an error stops it. -/
def Job.stageSeg (c : Nat) (o : EOp) (j : Job) (g : Seg) : Job :=
  if j.fail.isSome then j
  else
    let q := j.tileRead c o.wg o.ta 0 g.row g.lo (g.hi - g.lo)
    { q.2 with snap := if g.lo = 0 then q.2.snap ++ [(g.row, q.1)]
                       else q.2.snap.map fun p => if p.1 = g.row then (p.1, p.2 ++ q.1) else p }

/-- XQNT quantises what it has staged: the rows become rows of codes, the scale bytes go to the X registers (R83, R84, R322). -/
def Job.quantise (c : Nat) (o : EOp) (j : Job) : Job :=
  let f := NFmt.of o.fb
  let ea := eBits o.ta.fmt.toNat o.fa
  let eb := eBits o.tb.fmt.toNat o.fb
  let cols := o.ta.cols.toNat
  let all := j.snap.foldl (fun (a : List (Nat × List Byte) × List Nat × Lanes) row =>
    let bs := blocks f.blk cols ((unpackRow ea cols row.2).map (elemVal o.ta.fmt.toNat o.fa))
    let q := (bs.zip (List.range bs.length)).foldl (fun (b : List Nat × List Nat × Lanes) e =>
      let z := quantBlock f o.rnd (row.1 * cols + f.blk * e.2) e.1 b.2.2
      (b.1 ++ z.1, b.2.1 ++ [blockScale f e.1], z.2)) (([] : List Nat), a.2.1, a.2.2)
    (a.1 ++ [(row.1, packRow eb q.1)], q.2.1, q.2.2))
    (([] : List (Nat × List Byte)), ([] : List Nat), (j.s.warp c o.slot).gen)
  let s := j.s.modWarp c o.slot fun k =>
    let xs := (all.2.1.zip (List.range all.2.1.length)).foldl (fun (m : FMap XReg) e =>
      let n := o.xw.getD (e.2 / 1024) 0
      let xr := FMap.getD m n {}
      FMap.put m n { xr with bytes := xr.bytes.set (e.2 % 1024) (BitVec.ofNat 8 e.1) }) k.x
    { k with x := xs, gen := all.2.2 }
  { j with s, snap := all.1 }

/-- XQNT writes a piece of a row of codes. -/
def Job.codeSeg (c : Nat) (o : EOp) (j : Job) (g : Seg) : Job :=
  match j.snap.find? fun p => p.1 == g.row with
  | some p => { j with s := j.s.tileWr c o.wg o.tb 0 g.row g.lo ((p.2.drop g.lo).take (g.hi - g.lo)) }
  | none => j

/-- XQNT: stage, quantise, write codes and scales (R84, R322). -/
def State.xqntParts (s : State) (c : Nat) (o : EOp) : List CopyPart :=
  let base := (s.wg c o.wg).first
  let rows := List.range o.ta.rows.toNat
  tileParts base o.ta (eBits o.ta.fmt.toNat o.fa) (o.ta.rowBytes o.fa) (Job.stageSeg c o) rows
    ++ { keys := [], run := Job.quantise c o }
    :: tileParts base o.tb (eBits o.tb.fmt.toNat o.fb) (o.tb.rowBytes o.fb) (Job.codeSeg c o) rows

/-- A copy's parts. -/
def State.copyParts (s : State) (c : Nat) (o : EOp) : List CopyPart :=
  if o.kind ≤ 1 then s.tensorParts c o
  else if o.kind ≤ 3 then s.gatherParts c o
  else if o.kind = 4 then s.tcopyParts c o
  else if o.kind = 5 then s.tfillParts c o
  else s.xqntParts c o

/-- The work of some parts, up to a failure. -/
def runParts (l : List CopyPart) (j : Job) : Job := l.foldl (fun j p => if j.fail.isSome then j else p.run j) j

/-- What a copy has still to do. -/
def State.copyWork (s : State) (c : Nat) (o : EOp) : Job :=
  runParts ((s.copyParts c o).drop o.part) { s, zeros := o.zeros, snap := o.snap }

/-- Row-port cycles of the parts after some others: each scratchpad row takes one. -/
def portCycles (before : List CopyPart) (l : List CopyPart) : Nat :=
  (l.foldl (fun (a : Nat × List Nat) p =>
    let new := p.keys.filter fun k => !a.2.contains k
    (a.1 + new.length, a.2 ++ new)) (0, before.flatMap (·.keys))).1

/-! Steps of the engine. -/

/-- Other traffic that a copy meets (R396): on its core, at its stack, at its home stacks, or between stacks when it goes
between stacks itself. -/
def State.meets (s : State) (c : Nat) (o : EOp) : Bool :=
  let ks := stackOf c :: o.homes.map (·.1)
  let far := o.homes.any fun h => h.1 != stackOf c
  (s.fly.any fun f => !f.2.performed && (f.2.core == c || f.2.pa == c || ks.contains (stackOf f.2.core)
      || (decide (s.region f.2.pa ≤ 1) && (ks.contains (homeOf f.2.pa) || (far && homeOf f.2.pa != stackOf f.2.core)))))
    || (s.cores.any fun k => k.2.ops.any fun e =>
        e.started && !(k.1 == c && e.id == o.id)
          && (k.1 == c || (e.isCopy && (ks.contains (stackOf k.1) || e.homes.any fun h => ks.contains h.1))))
    || (s.walks.any fun w => ks.contains w.2.stack)
    || (s.cmds.any fun g => g.2.core == c || ks.contains (stackOf g.2.core))
    || (s.migs.any fun m => ks.contains m.2.src || ks.contains (homeOf m.2.newPa))

/-- A copy is kept by nothing that could make it late (R356, R396). -/
def State.onTime (s : State) (c : Nat) (o : EOp) : Bool :=
  o.cached && !s.meets c o && o.homes.all fun h => decide (s.level h.1 ≤ h.2)

/-- The next cycle of a copy, from one on, with row-port cycles left after it: within the promise where R396 bounds it, else
free. -/
def State.copyNext (s : State) (c : Nat) (o : EOp) (from_ left : Nat) : Nat × State :=
  let r := if s.onTime c o then s.freeBelow (o.promise + 1 - from_ - left) else s.freeLat 0
  (from_ + r.1, r.2)

/-- A copy's next step at a cycle: a part, whose row-port access comes after the issue of its cycle (R206), or its end. -/
def State.copyAt (s : State) (c : Nat) (o : EOp) (t : Nat) (again : Instr) : State :=
  let s := s.setOp c { o with occ := t }
  if o.part < (s.copyParts c o).length then s.scheduleLate t again else s.schedule t again

/-- A copy starts when R285 lets it; the cycles of its parts are free, and within the promise where R396 bounds it. -/
def execCopyStart (core op : Nat) (s : State) : Host.Outcome State Fault Refusal :=
  match (s.core core).op? op with
  | none => .next s
  | some o =>
    if o.started || !o.isCopy then .next s
    else if s.beforeFirst core o then .next (s.scheduleOnce (s.clock + 1) (.copyStart core op))
    else if o.again then .next ((s.firstIssue core o.wg).kickEngines core)
    else if !(s.core core).opFree o then .next s
    else if s.clock < o.issued + 8 then .next (s.schedule (o.issued + 8) (.copyStart core op))
    else if 4 ≤ s.level (stackOf core) then .next (s.schedule s.nextSample (.copyStart core op))
    else
      let o := { o with started := true, start := s.clock, cached := s.onTime core o }
      let r := s.copyNext core o (s.clock + 1) (portCycles [] (s.copyParts core o))
      .next ((r.2.copyAt core o r.1 (if o.kind = 6 then .xqntComplete core op else .copyComplete core op)).kickEngines core)

/-- Fragments that sleep on a ticket with .EARLY look at it (R151). -/
def State.pokeEarly (s : State) (c wg ticket : Nat) : State :=
  let here := ((s.core c).warps.filter fun w => w.2.wg == wg).flatMap fun w => w.2.frags.filterMap fun g =>
    match g.2.st with
    | .parked (.promise t true) => if fld t.toNat 48 16 = ticket then some (w.1, g.1) else none
    | _ => none
  here.foldl (fun s p => s.schedule s.clock (.sleepuntilWake c p.1 p.2)) s

/-- A copy ends: locks and ranges go, its record says how (R284, R286). -/
def State.copyEnd (s : State) (c : Nat) (o : EOp) (zeros : Bool) (fail : Option CopyFail) : State :=
  let s := s.modCore c fun k =>
    { k with
      ops := k.ops.filter fun e => e.id != o.id
      rlocks := k.rlocks.filter fun r => r.op != o.id
      tickets := k.tickets.map fun t =>
        if t.order = o.id ∧ t.state = 0 then
          (match fail with
           | none => { t with state := 1 }
           | some f => { t with state := 2, cause := f.cause, addr := BitVec.ofNat 64 f.addr, pa := BitVec.ofNat 64 f.pa,
                                detail := BitVec.ofNat 64 f.detail })
        else t }
  let s := if (s.warp c o.slot).uid = o.uid then
      s.modWarp c o.slot fun k =>
        Warp.unlock { k with nrm := if zeros then k.nrm ||| BitVec.ofNat 64 (2 ^ 33) else k.nrm } o.id
    else s
  ((s.dropLines o.id).pokeEarly c o.wg o.ticket).kickEngines c

/-- The grafts a completed scale stream leaves: one that a generation's wrap had unbound is current again (R279, R322,
R363). -/
def State.graftNow (s : State) (c : Nat) (o : EOp) : State :=
  s.modWarp c o.slot fun k =>
    o.xw.foldl (fun k n =>
      let xr := k.getX n
      let f := NFmt.of o.fb
      let new : XReg :=
        if o.kind = 6 then
          { xr with tix := BitVec.ofNat 4 o.tbi, bnd := true, tag := o.gen, sfmt := f.e4m3, blk := f.blk32 }
        else { xr with tix := BitVec.ofNat 4 o.tbi, bnd := true, tag := o.gen }
      { k with x := FMap.put k.x n new }) k

/-- The cycle in which a part may be tried again, where a line that it needs is held: by a migration, by a home that is not
ready, by a network between its stack and the home, or in the DRAM of a stack at H4 (R269, R351, R435, R439). -/
def State.partHeld (s : State) (k did : Nat) (l : List EngReq) : Option Nat :=
  let way := (l.map fun q => s.wayFrom k q.pa).foldl max s.clock
  if l.any fun q => s.pageHeld q.pa || !s.homeReady q.pa then some (s.clock + 1)
  else if s.clock < way then some way
  else if l.any fun q => decide (s.region q.pa = 0) && decide (4 ≤ s.level (homeOf q.pa))
      && (s.l2Look (lineOf q.pa) did q.shrd q.write).1.isNone then some s.nextSample
  else none

/-- The requests of a copy that nothing else hinders pay at their slices' ports, or none does (R425). -/
def State.payAll (s : State) (did : Nat) : List EngReq → Option State
  | [] => some s
  | q :: r => (s.engPay q.pa did q.cost).bind fun t => State.payAll t did r

/-- What a part would do now. -/
def State.partNow (s : State) (o : EOp) (p : CopyPart) : Job := p.run { s, zeros := o.zeros, snap := o.snap }

/-- A part is done: a copy within its promise has read ahead, and its lines are looked up and filled at their slices now; the
copy's next cycle is chosen (R286, R396, R423). -/
def State.partDone (s : State) (core : Nat) (o : EOp) (again : Instr) (p : CopyPart) : State :=
  let parts := s.copyParts core o
  let j := s.partNow o p
  let d := s.dom core o.dslot
  let t := j.reqs.foldr (fun q t =>
    if (s.tokenOf o.id q).isSome then t else (t.engLine q.pa d.did (d.part.getD 0) q.shrd q.write q.mt).2) j.s
  let t := t.dropLines o.id
  match j.fail with
  | some _ => (t.setOp core { o with zeros := j.zeros, fail := j.fail, occ := s.clock }).schedule s.clock (.copyFault core o.id)
  | none =>
    let o' := { o with part := o.part + 1, port := false, snap := j.snap, zeros := j.zeros }
    let r := t.copyNext core o' (s.clock + portCycles (parts.take o.part) [p])
      (portCycles (parts.take (o.part + 1)) (parts.drop (o.part + 1)))
    r.2.copyAt core o' r.1 again

/-- A part's lines are at hand: the row port takes it in its turn, then it is done (R205). -/
def State.partPort (s : State) (core : Nat) (o : EOp) (again : Instr) (p : CopyPart) : State :=
  if portCycles ((s.copyParts core o).take o.part) [p] = 0 then s.partDone core o again p
  else if (s.core core).rowBusy s.clock then s.copyAt core { o with port := true, cached := false } (s.clock + 1) again
  else (s.rowUse core).partDone core o again p

/-- The next part of a copy whose cycle has come; put off at H4, where a level has risen or other traffic is met, for a walk, for
its lines and for the row port; after the last part, and the peers' acknowledgements, the copy is complete (R205, R263, R269,
R351, R356, R425, R450). -/
def State.copyStep (s : State) (core op : Nat) (again : Instr) : State :=
  match (s.core core).op? op with
  | none => s
  | some o =>
    let later (s : State) (t : Nat) : State := s.copyAt core { o with cached := false } t again
    if !o.started || o.occ != s.clock || o.fail.isSome then s
    else if 4 ≤ s.level (stackOf core) then later s s.nextSample
    else if o.cached && !s.onTime core o then
      let r := s.freeLat 0
      later r.2 (s.clock + r.1)
    else
      match (s.copyParts core o)[o.part]? with
      | none => if s.peerOut core o then later s (s.clock + 1) else (s.graftNow core o).copyEnd core o o.zeros none
      | some p =>
        let j := s.partNow o p
        let d := s.dom core o.dslot
        match j.miss with
        | some (va, need) => later (s.askFor core d va need) (s.clock + 1)
        | none =>
          if o.port then s.partPort core o again p
          else if o.cached then
            match s.partHeld (stackOf core) o.did j.reqs, s.payAll o.did j.reqs.reverse with
            | none, some s => s.partPort core o again p
            | some t, _ => later s t
            | none, none => later s (s.clock + 1)
          else
            match s.askLines ⟨o.id, core, d⟩ (j.reqs.reverse.map fun q => (q, q.cost)) with
            | (false, s) => later s (s.clock + 1)
            | (true, s) => s.partPort core o again p

def execCopyComplete (core op : Nat) (s : State) : Host.Outcome State Fault Refusal :=
  .next (s.copyStep core op (.copyComplete core op))

def execXqntComplete (core op : Nat) (s : State) : Host.Outcome State Fault Refusal :=
  .next (s.copyStep core op (.xqntComplete core op))

/-- A copy stops at its first element that fails (R286). -/
def execCopyFault (core op : Nat) (s : State) : Host.Outcome State Fault Refusal :=
  match (s.core core).op? op with
  | none => .next s
  | some o =>
    match o.fail with
    | some f => .next (s.copyEnd core o o.zeros (some f))
    | none => .next s

end Sys2Proof.Machine
end

