-- ==== Sys2Proof/Machine/Matrix.lean ====
section
/-! DEFINITION. The matrix quadrants: issue checks, starts, streams, results, batches, fusion (R86 to R88, R287 to R298,
R340 to R346, R358). -/

namespace Sys2Proof.Machine

/-! Shapes and groups (R86, R289, R290). -/

/-- The class of a storage width: 0 BF16/F16, 1 8-bit, 2 4-bit. -/
def classOf (eb : Nat) : Nat := if eb = 4 then 2 else if eb ≤ 8 then 1 else 0
def groupG (cls : Nat) : Nat := if cls = 0 then 1 else if cls = 1 then 2 else 8
def shapeK (cls e : Nat) : Nat := (if cls = 0 then 32 else if cls = 1 then 64 else 256) * 2 ^ fld e 3 2
def shapeN (e : Nat) : Nat := 32 * 2 ^ fld e 1 2

/-- The cores of a fusion group, in member order. -/
def membersOf (mode leader : Nat) : List Nat :=
  match mode with
  | 1 => [leader, leader + 1]
  | 2 => [leader, leader + 2]
  | 3 => [leader, leader + 1, leader + 2, leader + 3]
  | _ => [leader]

/-- The members whose banks receive results, in column order. -/
def receiversOf (mode leader : Nat) : List Nat :=
  match mode with
  | 1 => [leader, leader + 1]
  | 2 => [leader + 2]
  | 3 => [leader + 2, leader + 3]
  | _ => [leader]

def fusedN (mode : Nat) : Bool := mode == 1 || mode == 3
def fusedK (mode : Nat) : Bool := mode == 2 || mode == 3

def State.quad (s : State) (c : Nat) : Quad := (s.core c).quad
def State.modQuad (s : State) (c : Nat) (f : Quad → Quad) : State := s.modCore c fun k => { k with quad := f k.quad }
def State.modQuads (s : State) (cs : List Nat) (f : Quad → Quad) : State := cs.foldl (fun s c => s.modQuad c f) s

/-! The issued state (R342). -/

/-- The issued state of a quadrant with nothing queued. -/
def Quad.asIssued (q : Quad) : QIssued :=
  { valid := q.latch.valid, did := q.latch.did, cls := q.latch.cls, k := q.latch.k, n := q.latch.n, fmt := q.latch.fmt,
    fval := q.latch.fval, stamps := q.stamps, mode := q.mode, leader := q.leader }

/-- A bank not stamped yet takes a DID. -/
def stampBank (m : FMap Nat) (b did : Nat) : FMap Nat := if (FMap.get? m b).isSome then m else FMap.put m b did

/-- The banks of a mask. -/
def banksOf (mask : Nat) : List Nat := (List.range 4).filter mask.testBit

/-- The banks an operation names, and whose: cores and bank numbers. -/
def EOp.banks (o : EOp) (c : Nat) : List Nat × List Nat :=
  if o.kind = 11 ∨ o.kind = 12 then (receiversOf o.mode c, [o.bank])
  else if o.kind = 13 then (membersOf o.mode c, banksOf o.bank)
  else if o.kind = 15 ∧ o.flag then (membersOf o.mode c, [0, 1, 2, 3])
  else ([], [])

/-- An operation's effect on the issued state (R342). MFUSE.NONE keeps the members' latches, as R290 drops them at the forming
(DESIGN CHOICE, log 57). -/
def State.issueEffect (s : State) (c : Nat) (o : EOp) : State :=
  let on (cs : List Nat) (f : QIssued → QIssued) : State := s.modQuads cs fun q => { q with issued := f q.issued }
  let b := o.banks c
  if o.kind = 10 then
    on [(membersOf o.mode c).getD o.member c] fun q =>
      { q with valid := true, did := o.did, cls := o.cls, k := o.k, n := o.n, fmt := o.ta.fmt.toNat, fval := o.fa }
  else if o.kind = 11 ∨ o.kind = 12 ∨ o.kind = 13 then
    on b.1 fun q => { q with stamps := b.2.foldl (fun m i => stampBank m i o.did) q.stamps }
  else if o.kind = 15 then
    on (membersOf o.mode c) fun q => { q with valid := false, stamps := if o.flag then [] else q.stamps }
  else if o.kind = 16 ∧ o.stat = 0 then
    (if o.bank = 0 then on (membersOf o.mode c) fun q => { q with mode := 0, leader := 0 }
     else on (membersOf o.bank c) fun q => { q with valid := false, mode := o.bank, leader := c })
  else s

/-- The issued state of a cluster from its working state and what is queued. -/
def State.reissue (s : State) (c : Nat) : State :=
  let cs := (List.range 4).map (c / 4 * 4 + ·)
  let s := s.modQuads cs fun q => { q with issued := q.asIssued }
  let ops := cs.flatMap fun k => ((s.core k).ops.filter fun o => !o.isCopy).map fun o => (k, o)
  (sortBy (fun (a b : Nat × EOp) => decide (a.2.id ≤ b.2.id)) ops).foldl (fun s p => s.issueEffect p.1 p.2) s

/-! Checks (R272, R288 to R295). -/

def Ctx.fuseTrap (x : Ctx) : Trap := { cause := cFuse, pc := x.pc }

/-- The array is granted to the issuing slot; slot 0 has no partition (R287, R409, R416). -/
def State.granted (s : State) (x : Ctx) : Bool := x.k.dslot != 0 && s.inPart (s.dsPart x.c x.k.dslot) x.c

/-- A matrix instruction on a follower core (R290). -/
def State.follower (s : State) (x : Ctx) : Bool :=
  let q := (s.quad x.c).issued
  q.mode != 0 && q.leader != x.c

/-- A format the array takes: BF16, F16 and the narrow ones. -/
def arrayFmt (c : Nat) : Bool := c == 9 || c == 10 || decide (16 ≤ c)

/-- An operand's own format checks (R288). -/
def Ctx.operandChecks (x : Ctx) (s : State) (t : TReg) (f : U32) (b : Opd) : List (Bool × Trap) :=
  [x.validCheck t, x.placeCheck s t f, (!arrayFmt t.fmt.toNat, x.ill 3),
   (b.isX && decide (t.fmt.toNat < 16), x.ill 0x0D)]

/-- The graft check, with the scale count and format around it (R272, R277, R288). -/
def Ctx.graftChecks (x : Ctx) (ti : Nat) (t : TReg) (f : U32) (b : Opd) : List (Bool × Trap) :=
  let sc := scaleCount t (NFmt.of f).blk
  let nx := ceilDiv sc 1024
  let j := xNo b
  if b.isX then
    [(decide (8192 < sc) || decide (7 < j + nx - 1), x.ill 6),
     ((x.k.lowX ti).isNone, x.staleTrap ti 15),
     ((x.k.graftBad ti t.gen true j nx).isSome, x.staleTrap ti ((x.k.graftBad ti t.gen true j nx).getD 0)),
     (x.k.scaleFmtBad f j nx, x.ill 0x0E)]
  else []

/-- The X registers behind an operand's scales. -/
def Ctx.operandXs (x : Ctx) (t : TReg) (f : U32) (b : Opd) : List (Nat × Memory) :=
  if b.isX then x.k.takeXs (xNo b) (ceilDiv (scaleCount t (NFmt.of f).blk) 1024) else []

/-- A row offset: S[c][7:0], or 0 for ZERO (R292). -/
def Ctx.row0 (x : Ctx) (c : Opd) : Nat := if c.isZero then 0 else (x.uni c).toNat % 256

/-- A DID other than the issuer's on one of some banks. -/
def State.otherStamp (s : State) (x : Ctx) (cores banks : List Nat) : Bool :=
  let did := s.dsDid x.c x.k.dslot
  cores.any fun c => banks.any fun b => match FMap.get? (s.quad c).issued.stamps b with
    | some d => d != did
    | none => false

/-- The outcome of a matrix instruction's checks. -/
abbrev MPlan := Except Trap EOp

def MPlan.of (t : Option Trap) (o : EOp) : MPlan := match t with
  | some t => .error t
  | none => .ok o

def State.mwldPlan (s : State) (x : Ctx) (i : Instr) (f : FmtE) : MPlan :=
  let e := f.e.toNat
  let q := (s.quad x.c).issued
  let ti := tNo f.a
  let t := x.k.getT ti
  let ft := x.k.fOf t.fmt.toNat
  let own := classOf (eBits t.fmt.toNat ft)
  let cls := if fld e 7 2 = 0 then own else fld e 7 2 - 1
  let k := shapeK cls e
  let n := shapeN e
  let xs := x.operandXs t ft f.b
  MPlan.of
    (firstTrap ([(s.follower x, x.fuseTrap), (decide ((membersOf q.mode x.c).length ≤ fld e 5 2), x.fuseTrap)]
      ++ x.operandChecks s t ft f.b
      ++ [(decide (own < cls), x.ill 7), (t.rows.toNat != n || t.cols.toNat != k, x.ill 2)]
      ++ x.graftChecks ti t ft f.b))
    { x.eop s 10 i with
      ta := t, tai := ti, fa := ft, xs, gen := t.gen, member := fld e 5 2, cls, k, n, mode := q.mode
      rng := [x.range s 1 t.lo t.hi false] ++ (if f.b.isX then [x.xRange (xNo f.b) xs.length false] else []) }

def State.mmaPlan (s : State) (x : Ctx) (i : Instr) (f : FmtE) : MPlan :=
  let e := f.e.toNat
  let q := (s.quad x.c).issued
  let did := s.dsDid x.c x.k.dslot
  let ti := tNo f.a
  let t := x.k.getT ti
  let ft := x.k.fOf t.fmt.toNat
  let eb := eBits t.fmt.toNat ft
  let rows := t.rows.toNat
  let fixed := e % 2 == 1
  let m := if fixed then 16 else rows
  let ms := membersOf q.mode x.c
  let ls := ms.map fun c => (s.quad c).issued
  let cls := ((ls.head?).map (·.cls)).getD 0
  let need := min cls (classOf eb)
  let k := shapeK cls e
  let n := shapeN e
  let kl := if fusedK q.mode then k / 2 else k
  let nl := if fusedN q.mode then n / 2 else n
  let rcv := receiversOf q.mode x.c
  let row0 := x.row0 f.c
  let xs := x.operandXs t ft f.b
  MPlan.of
    (firstTrap ([
        (!s.granted x, x.domTrap 0),
        (s.follower x, x.fuseTrap),
        (q.mode != 0 && (fusedK q.mode != (fld e 3 2 == 3) || fusedN q.mode != (fld e 1 2 == 3)), x.fuseTrap)]
      ++ x.operandChecks s t ft f.b
      ++ [(if fixed then decide (rows < 1 ∨ 16 < rows) else decide (rows < 16 ∨ 256 < rows), x.ill 2),
        (ls.any fun l => !l.valid, x.ill 8),
        ((ls.any fun l => l.did != did) || s.otherStamp x rcv [fld e 5 2], x.domTrap 0),
        ((ls.any fun l => l.cls != need || l.k != kl || l.n != nl) || t.cols.toNat != k, x.ill 7),
        (decide (256 < row0 + m), x.ill 9)]
      ++ x.graftChecks ti t ft f.b))
    { x.eop s 11 i with
      ta := t, tai := ti, fa := ft, xs, gen := t.gen, bank := fld e 5 2, cls, row0, m, k, n, mode := q.mode
      svals := if f.c.isZero then [] else [x.uni f.c]
      rng := [x.range s 1 t.lo t.hi false] ++ (if f.b.isX then [x.xRange (xNo f.b) xs.length false] else []) }

def State.mreadPlan (s : State) (x : Ctx) (i : Instr) (f : FmtE) : MPlan :=
  let e := f.e.toNat
  let q := (s.quad x.c).issued
  let ti := tNo f.a
  let t := x.k.getT ti
  let m := t.rows.toNat
  let n := t.cols.toNat
  let row0 := x.row0 f.c
  MPlan.of
    (firstTrap [
      (s.follower x, x.fuseTrap), x.validCheck t, x.placeCheck s t (x.k.fOf t.fmt.toNat),
      (decide ((if fusedN q.mode then 256 else 128) < n), x.ill 2),
      (decide (256 < row0 + m), x.ill 9),
      (!isOutFmt t.fmt.toNat, x.ill 3),
      (s.otherStamp x (receiversOf q.mode x.c) [fld e 5 2], x.domTrap 0)])
    { x.eop s 12 i with
      ta := t, tai := ti, bank := fld e 5 2, row0, m, n, flag := e.testBit 7, mode := q.mode
      svals := if f.c.isZero then [] else [x.uni f.c]
      rng := [x.range s 1 t.lo t.hi true] }

def State.mzeroPlan (s : State) (x : Ctx) (i : Instr) (f : FmtE) : MPlan :=
  let q := (s.quad x.c).issued
  MPlan.of
    (firstTrap [
      (!s.granted x, x.domTrap 0), (s.follower x, x.fuseTrap),
      (s.otherStamp x (membersOf q.mode x.c) (banksOf f.e.toNat), x.domTrap 0)])
    { x.eop s 13 i with bank := f.e.toNat % 16, mode := q.mode }

def State.mhadPlan (s : State) (x : Ctx) (i : Instr) (f : FmtE) : MPlan :=
  let ai := tNo f.a
  let bi := tNo f.b
  let ta := x.k.getT ai
  let tb := x.k.getT bi
  let n := 16 * 2 ^ (f.e.toNat % 4)
  MPlan.of
    (firstTrap [
      (s.follower x, x.fuseTrap), x.validCheck ta, x.validCheck tb, x.placeCheck s ta (x.k.fOf ta.fmt.toNat),
      x.placeCheck s tb (x.k.fOf tb.fmt.toNat),
      (!isOutFmt ta.fmt.toNat || !isOutFmt tb.fmt.toNat, x.ill 3),
      (ta.rows != tb.rows || ta.cols != tb.cols, x.ill 2),
      (ta.cols.toNat % n != 0, x.ill 0x0A)])
    { x.eop s 14 i with
      ta, tai := ai, tb, tbi := bi, n, m := ta.rows.toNat
      rng := [x.range s 1 ta.lo ta.hi false, x.range s 1 tb.lo tb.hi true] }

def State.mreleasePlan (s : State) (x : Ctx) (i : Instr) (f : FmtE) : MPlan :=
  MPlan.of (firstTrap [(s.follower x, x.fuseTrap)])
    { x.eop s 15 i with flag := f.e.getLsbD 0, mode := (s.quad x.c).issued.mode }

/-- MFUSE: mode 0 dissolves (R290). A group is formed over a member that belongs to another group, and that member then
belongs to the new one (DESIGN CHOICE, log 57). -/
def State.mfusePlan (s : State) (x : Ctx) (i : Instr) (mode : Nat) (d : Opd) : MPlan :=
  let q := (s.quad x.c).issued
  let local_ := x.c % 4
  let leads := if mode = 1 then local_ % 2 == 0 else if mode = 2 then decide (local_ < 2) else local_ == 0
  let stat := if mode = 0 then b2n (q.mode == 0) else b2n (q.mode != 0)
  MPlan.of
    (firstTrap [
      (s.follower x, x.fuseTrap),
      (mode != 0 && !leads, x.fuseTrap),
      (mode != 0 && (membersOf mode x.c).any fun c => (s.groupOn x c).isNone, x.fuseTrap)])
    { x.eop s 16 i with bank := mode, mode := q.mode, stat, d }

/-! Issue. -/

/-- Lost banks that an operation names: their marks go; a read or an MMA marks its batch (R358). -/
def State.clearLost (s : State) (x : Ctx) (o : EOp) : State :=
  let b := o.banks x.c
  let hit := b.1.any fun c => b.2.any fun n => (s.quad c).lost.contains n
  let s := s.modQuads b.1 fun q => { q with lost := q.lost.filter fun n => !b.2.contains n }
  if hit ∧ (o.kind = 11 ∨ (o.kind = 12 ∧ !o.flag)) then
    s.modWarp x.c x.w fun k => { k with lostBatches := o.batch :: k.lostBatches }
  else s

/-- A matrix operation enters its queue. -/
def State.matrixIssue (s : State) (x : Ctx) (p : MPlan) : Res :=
  match p with
  | .error t => .trap s t
  | .ok o =>
    let id := s.nextId
    let o := { o with id, rng := o.rng.map fun r => { r with op := id } }
    let s := (s.bumpId.clearLost x o).bumpRanges x.c x.k.wg o.rng
    let s := s.modCore x.c fun k => { k with ops := k.ops ++ [o] }
    let s := s.issueEffect x.c o
    let s := if o.kind = 16 ∧ o.stat = 0 ∧ o.bank ≠ 0 then
        s.modQuads (membersOf o.bank x.c) fun q => { q with group := (s.wg x.c x.k.wg).group }
      else s
    let s := s.modWarp x.c x.w fun k => k.lock id (k.destRegs o.d 1)
    .next (s.scheduleOnce (s.clock + 1) .matrixOpStart)

def execMwld (h : Head) (f : FmtE) (s : State) : Host.Outcome State Fault Refusal :=
  runIsa (.mwld h f) h false s fun x s => s.matrixIssue x (s.mwldPlan x (.mwld h f) f)
def execMma (h : Head) (f : FmtE) (s : State) : Host.Outcome State Fault Refusal :=
  runIsa (.mma h f) h false s fun x s => s.matrixIssue x (s.mmaPlan x (.mma h f) f)
def execMread (h : Head) (f : FmtE) (s : State) : Host.Outcome State Fault Refusal :=
  runIsa (.mread h f) h false s fun x s => s.matrixIssue x (s.mreadPlan x (.mread h f) f)
def execMzero (h : Head) (f : FmtE) (s : State) : Host.Outcome State Fault Refusal :=
  runIsa (.mzero h f) h false s fun x s => s.matrixIssue x (s.mzeroPlan x (.mzero h f) f)
def execMhad (h : Head) (f : FmtE) (s : State) : Host.Outcome State Fault Refusal :=
  runIsa (.mhad h f) h false s fun x s => s.matrixIssue x (s.mhadPlan x (.mhad h f) f)
def execMrelease (h : Head) (f : FmtE) (s : State) : Host.Outcome State Fault Refusal :=
  runIsa (.mrelease h f) h false s fun x s => s.matrixIssue x (s.mreleasePlan x (.mrelease h f) f)
def execMfuseNone (h : Head) (d : Opd) (s : State) : Host.Outcome State Fault Refusal :=
  runIsa (.mfuseNone h d) h false s fun x s => s.matrixIssue x (s.mfusePlan x (.mfuseNone h d) 0 d)
def execMfuseNpair (h : Head) (d : Opd) (s : State) : Host.Outcome State Fault Refusal :=
  runIsa (.mfuseNpair h d) h false s fun x s => s.matrixIssue x (s.mfusePlan x (.mfuseNpair h d) 1 d)
def execMfuseKpair (h : Head) (d : Opd) (s : State) : Host.Outcome State Fault Refusal :=
  runIsa (.mfuseKpair h d) h false s fun x s => s.matrixIssue x (s.mfusePlan x (.mfuseKpair h d) 2 d)
def execMfuseQuad (h : Head) (d : Opd) (s : State) : Host.Outcome State Fault Refusal :=
  runIsa (.mfuseQuad h d) h false s fun x s => s.matrixIssue x (s.mfusePlan x (.mfuseQuad h d) 3 d)

/-! Batches (R297, R338, R358). -/

def execMbatch (h : Head) (f : FmtE) (s : State) : Host.Outcome State Fault Refusal :=
  runIsa (.mbatch h f) h false s fun x s =>
    let n := x.k.batch + 1
    let s := s.modCore x.c fun k =>
      { k with ops := k.ops.map fun o => if o.uid = x.k.uid ∧ !o.isCopy ∧ o.batch = 0 then { o with batch := n } else o }
    let s := s.modWarp x.c x.w fun k =>
      { k with batch := n, lostBatches := k.lostBatches.map fun b => if b = 0 then n else b }
    match f.d with
    | .s m => .next (s.sendLocked x.c x.w (.s m.toNat) (BitVec.allOnes 32) [] (BitVec.ofNat 64 n) 2)
    | _ => .next s

/-- A batch of the warp up to one has not retired. -/
def State.batchOut (s : State) (c uid n : Nat) : Bool :=
  (s.core c).ops.any fun o => o.uid == uid && !o.isCopy && o.batch != 0 && decide (o.batch ≤ n)

/-- MWAIT's status, reporting and clearing the marks of what it awaited (R297, R358). -/
def State.mwaitLand (s : State) (c w g n : Nat) (beyond : Bool) (d : Opd) : State :=
  let k := s.warp c w
  let mine (b : Nat) : Bool := b != 0 && decide (b ≤ n)
  let v := if k.lostBatches.any mine then 2 else b2n beyond
  let s := s.modWarp c w fun k => { k with lostBatches := k.lostBatches.filter fun b => !(mine b) }
  (k.destRegs d 1).foldl (fun (s : State) r => s.landReg c w (s.waiterOf c w g) r (BitVec.allOnes 32) [] (BitVec.ofNat 64 v)) s

def execMwait (h : Head) (f : FmtE) (s : State) : Host.Outcome State Fault Refusal :=
  runIsa (.mwait h f) h false s fun x s =>
    let a := (x.uni f.a).toNat
    let n := min a x.k.batch
    let beyond := decide (x.k.batch < a)
    if s.batchOut x.c x.k.uid n then .gone (s.parkFrag x (.mwait n beyond f.d))
    else .next (s.mwaitLand x.c x.w x.g n beyond f.d)

/-- Fragments whose awaited batches have all retired go on. -/
def State.wakeMwait (s : State) (c : Nat) : State :=
  let here := (s.core c).warps.flatMap fun w => w.2.frags.filterMap fun g =>
    match g.2.st with
    | .parked (.mwait n beyond d) => if w.2.stopped || s.batchOut c w.2.uid n then none else some (w.1, g.1, n, beyond, d)
    | _ => none
  here.foldl (fun s p => (s.mwaitLand c p.1 p.2.1 p.2.2.1 p.2.2.2.1 p.2.2.2.2).resume c p.1 p.2.1) s

/-! Start (R285, R296, R345). -/

/-- Occupancy end and retirement of an operation that starts at s with factor f (R296). -/
def EOp.times (o : EOp) (s f : Nat) : Nat × Nat :=
  if o.kind = 10 then
    let t := s + f * (o.k / groupG o.cls + 4)
    (t, t)
  else if o.kind = 11 then (s + f * o.m, s + f * (o.m + o.k / groupG o.cls + o.n + 12))
  else if o.kind = 12 then
    let t := s + f * (ceilDiv (o.m * o.n * 4) 1024 + 8)
    (t, t)
  else if o.kind = 13 then (s + 8 * f, s + 8 * f)
  else if o.kind = 14 then
    let t := s + f * (o.m * ceilDiv (o.ta.rowBytes o.fa) 1024 + 16)
    (t, t)
  else (s + 4 * f, s + 4 * f)

/-- The quadrants an operation takes part on: its group's, and those of a group that it forms (R346). -/
def EOp.quads (o : EOp) (c : Nat) : List Nat :=
  membersOf o.mode c ++ (if o.kind = 16 then membersOf o.bank c else [])

/-- The first cycle from which nothing but eligibility and conflicts holds an operation: after the occupancy of the previous
operation on any of its quadrants, and after the results that it reads or clears (R296, R345, R346). -/
def State.opEarliest (s : State) (c : Nat) (o : EOp) : Nat :=
  let b := o.banks c
  let waits := o.kind = 12 ∨ o.kind = 13 ∨ o.kind = 15
  let results := if waits then b.1.foldl (fun m k => b.2.foldl (fun m n => max m (FMap.getD (s.quad k).results n 0)) m) 0
    else 0
  max ((o.quads c).foldl (fun m k => max m (s.quad k).occ) (o.issued + 1)) results

/-- Matrix operations of a cluster with their cores. -/
def State.matrixOps (s : State) (c : Nat) : List (Nat × EOp) :=
  ((List.range 4).map (c / 4 * 4 + ·)).flatMap fun k => ((s.core k).ops.filter fun o => !o.isCopy).map fun o => (k, o)

/-- Operations on one array start in the order of their issue: one issued earlier that takes part on one of the quadrants has
not started; or one of them has retired in this cycle and has not had its effect (R290, R343, R345, R346). -/
def State.opBehind (s : State) (c : Nat) (o : EOp) : Bool :=
  let meets (p : Nat × EOp) : Bool := (p.2.quads p.1).any fun k => (o.quads c).contains k
  (s.matrixOps c).any fun p => p.2.id != o.id && meets p
    && (if p.2.started then decide (p.2.retire ≤ s.clock) else decide (p.2.id < o.id))

/-- MFUSE waits, before it forms a group, until no member has an earlier operation that has not retired (R290). -/
def State.membersIdle (s : State) (c : Nat) (o : EOp) : Bool :=
  !(s.matrixOps c).any fun p => decide (p.2.id < o.id) && (p.2.quads p.1).any fun k => (membersOf o.bank c).contains k

/-- The rows of its tile that an operation reads. -/
def EOp.rowsRead (o : EOp) : Nat :=
  if o.kind = 10 then o.n
  else if o.kind = 11 then min o.m o.ta.rows.toNat
  else if o.kind = 14 then o.m
  else 0

/-- A row of an operation's tile holds a word with an error (R386). -/
def State.rowBad (s : State) (c : Nat) (o : EOp) (r : Nat) : Bool :=
  s.spBad c ((s.wg c o.wg).first + o.ta.base.toNat + r * o.ta.pitch.toNat) (o.ta.rowBytes o.fa)

def State.opBad (s : State) (c : Nat) (o : EOp) : Bool := (List.range o.rowsRead).any (s.rowBad c o)

/-- An operation leaves the queue: ranges, locks, waiting fragments, engines (R296, R338). -/
def State.opGone (s : State) (c : Nat) (o : EOp) : State :=
  let s := s.modCore c fun k => { k with ops := k.ops.filter fun e => e.id != o.id }
  let s := if (s.warp c o.slot).uid = o.uid then s.modWarp c o.slot fun k => k.unlock o.id else s
  ((s.wakeMwait c).kickEngines c).scheduleOnce s.clock .matrixOpStart

/-- The operation cannot go on for an error in its tile: its warp's next issue raises MACHINE_CHECK at it (R386). -/
def State.opFails (s : State) (c : Nat) (o : EOp) : State :=
  let s := s.modWarp c o.slot fun k => if k.uid = o.uid then
      { k with pendingFail := some (none, { cause := cMachineCheck, pc := o.pc, pa := BitVec.ofNat 64 (spPa c) }) } else k
  (s.opGone c o).reissue c

/-- The cycle in which a stream reads a row (R289, R291). -/
def EOp.rowCycle (o : EOp) (r : Nat) : Nat :=
  o.start + o.lev * (if o.kind = 10 then min r (o.k / groupG o.cls + 3) else r)

/-- Cycles of the row port are a matrix operation's (R205). -/
def State.takeRows (s : State) (c : Nat) (l : List Nat) : State :=
  s.modCore c fun k => { k with rowTaken := dedup (l ++ k.rowTaken.filter fun t => decide (s.clock ≤ t)) }

/-- The steps in which an MREAD writes its rows, and an MHAD reads and writes them: up to 1,024 bytes in each (DESIGN CHOICE,
log 57). -/
def EOp.steps (o : EOp) : List (List Nat) :=
  joinRuns (fun r => r * o.ta.rowBytes o.fa / 1024) (List.range o.m)

/-- The next such step is at a free cycle of the occupancy that leaves a cycle for each one after it (R236, R296). -/
def State.nextRows (s : State) (c : Nat) (o : EOp) (from_ left : Nat) : State :=
  let r := s.freeBelow (o.occ - from_ - left)
  (r.2.takeRows c [from_ + r.1]).scheduleLate (from_ + r.1) (.matrixOpRetire c o.id)

/-- An operation starts (R287, R296, R343). An MMA's result comes after that of every earlier one into its bank (R89, DEDUCED,
log 54). -/
def State.opStart (s : State) (c : Nat) (o : EOp) : State :=
  let f := levelF (s.level (stackOf c))
  let t := o.times s.clock f
  let t := (t.1, if o.kind = 11 then
    (o.banks c).1.foldl (fun m k => max m (FMap.getD (s.quad k).results o.bank 0)) t.2 else t.2)
  let ms := membersOf o.mode c
  let o := { o with
    started := true, start := s.clock, occ := t.1, retire := t.2, lev := f
    lat := if o.kind = 11 then ms.map fun m => (s.quad m).latch else [] }
  let s := (s.setOp c o).modQuads (o.quads c) fun q => { q with occ := t.1 }
  let s := if o.kind = 10 ∨ o.kind = 11 then s.takeRows c ((List.range o.rowsRead).map o.rowCycle) else s
  let b := o.banks c
  let s := if o.kind = 11 then s.modQuads b.1 fun q =>
      { q with results := FMap.put q.results o.bank (max t.2 (FMap.getD q.results o.bank 0)),
               stamps := stampBank q.stamps o.bank o.did }
    else s
  let s := s.schedule t.2 (.matrixOpRetire c o.id)
  let s := s.scheduleOnce t.1 .matrixOpStart
  if o.kind = 10 ∨ o.kind = 11 then s.scheduleLate s.clock (.matrixOpRetire c o.id)
  else if o.kind = 12 ∨ o.kind = 14 then s.nextRows c o s.clock (o.steps.length - 1)
  else s.kickEngines c

/-- The first queued operation of a core starts if it may. -/
def State.tryStart (s : State) (c : Nat) : State :=
  match (s.core c).ops.find? fun o => !o.isCopy && !o.started with
  | none => s
  | some o =>
    if s.beforeFirst c o then s.scheduleOnce (s.clock + 1) .matrixOpStart
    else if o.again then (s.firstIssue c o.wg).kickEngines c
    else
    let e := s.opEarliest c o
    if s.clock < e then s.scheduleOnce e .matrixOpStart
    else if !(s.core c).opFree o || s.opBehind c o || (o.kind == 16 && o.stat == 0 && o.bank != 0 && !s.membersIdle c o) then s
    else if 4 ≤ s.level (stackOf c) then s.scheduleOnce s.nextSample .matrixOpStart
    else if !s.eligibleAt (stackOf c) s.clock then s.scheduleOnce (s.clock + 1) .matrixOpStart
    else if s.opBad c o then s.opFails c o
    else s.opStart c o

/-- Queued matrix operations start where they may (R285, R296). -/
def execMatrixOpStart (s : State) : Host.Outcome State Fault Refusal :=
  .next (s.cores.foldl (fun s p => if p.2.ops.any (fun o => !o.isCopy && !o.started) then s.tryStart p.1 else s) s)

/-! Streams and results (R87, R88, R291 to R295, R340). -/

/-- The scale value of block q of a row, from a list of scale bytes; 1 without scales. -/
def scaleOf (f : NFmt) (has : Bool) (get : Nat → Nat) (cols row k : Nat) : Exact :=
  if has then scaleVal f.e4m3 (get (row * (cols / f.blk) + k / f.blk)) else .fin false 1 0 false

/-- A row's scaled values. -/
def rowVals (fmt : Nat) (fv : U32) (has : Bool) (get : Nat → Nat) (cols row : Nat) (b : List Byte) : List Exact :=
  let f := NFmt.of fv
  ((unpackRow (eBits fmt fv) cols b).zip (List.range cols)).map fun p =>
    let v := elemVal fmt fv p.1
    if has then scaled v (scaleOf f has get cols row p.2) else v

/-- A weight row of a latch. -/
def Latch.col (l : Latch) (j : Nat) : List Exact :=
  rowVals l.fmt l.fval l.hasScale (fun i => (l.scales.getD i 0).toNat) l.k j (l.rows.getD j [])

/-- The weights of a column of a fused shape, along all of K (R88, R290). -/
def EOp.weights (o : EOp) (j : Nat) : List Exact :=
  let l (i : Nat) : Latch := o.lat.getD i {}
  match o.mode with
  | 1 => (l (j / 128)).col (j % 128)
  | 2 => (l 0).col j ++ (l 1).col j
  | 3 => (l (j / 128)).col (j % 128) ++ (l (2 + j / 128)).col (j % 128)
  | _ => (l 0).col j

/-- An activation row of the tile. -/
def EOp.activation (o : EOp) (i : Nat) : List Exact :=
  match o.snap.find? fun p => p.1 == i with
  | some p =>
    let get (n : Nat) : Nat := match o.xs[n / 1024]? with
      | some x => (x.2.get (n % 1024)).toNat
      | none => 0
    rowVals o.ta.fmt.toNat o.fa (!o.xs.isEmpty) get o.k i p.2
  | none => List.replicate o.k Exact.zero

def bankKey (b r c : Nat) : Nat := b * 32768 + r * 128 + c

/-- A bank's cell; +0 is not listed. -/
def putCell (m : FMap Nat) (k v : Nat) : FMap Nat := if v = 0 then FMap.drop m k else FMap.put m k v

/-- An MMA's results are added; a row past the tile's adds +0 (R87, R292). A latch lost on the way loses the banks (R386). -/
def State.mmaResult (s : State) (c : Nat) (o : EOp) : State :=
  let rcv := receiversOf o.mode c
  if o.lat.any fun l => !l.valid then
    let s := s.modQuads rcv fun q => { q with lost := o.bank :: q.lost }
    if (s.warp c o.slot).uid = o.uid then
      s.modWarp c o.slot fun k => { k with lostBatches := o.batch :: k.lostBatches }
    else s
  else
    let g := groupG o.cls
    let acts := (List.range o.m).map o.activation
    (List.range o.n).foldl (fun s j =>
      let w := o.weights j
      s.modQuad (rcv.getD (j / 128) c) fun q =>
        { q with banks := (acts.zip (List.range o.m)).foldl (fun m a =>
            let p := if a.2 < o.ta.rows.toNat then chainP g (o.k + 1) (a.1.zip w) 0 else 0
            let key := bankKey o.bank (o.row0 + a.2) (j % 128)
            putCell m key (f32.round .rne 0 (Exact.add false (f32.decode (FMap.getD m key 0)) (f32.decode p)))) q.banks }) s

/-- Rows of an MREAD's tile are written (R293). -/
def State.mreadRows (s : State) (c : Nat) (o : EOp) (rows : List Nat) : State :=
  let rcv := receiversOf o.mode c
  let fmt := o.ta.fmt.toNat
  rows.foldl (fun s i =>
    let row := (List.range o.n).map fun j =>
      let v := FMap.getD (s.quad (rcv.getD (j / 128) c)).banks (bankKey o.bank (o.row0 + i) (j % 128)) 0
      (codeFmt fmt).round .rne 0 (f32.decode v)
    s.tileWr c o.wg o.ta 0 i 0 (packRow (eBits fmt 0) row)) s

/-- Rows of an MHAD are read, transformed and written (R85, R295). -/
def State.mhadRows (s : State) (c : Nat) (o : EOp) (rows : List Nat) : State :=
  let cols := o.ta.cols.toNat
  let ca := o.ta.fmt.toNat
  let cb := o.tb.fmt.toNat
  rows.foldl (fun s r =>
    let v := (unpackRow (eBits ca 0) cols (s.tileRd c o.wg o.ta 0 r 0 (o.ta.rowBytes o.fa))).map (elemVal ca 0)
    let y := (blocks o.n cols v).flatMap fun b => (List.range o.n).map fun i =>
      (codeFmt cb).round .rne 0 (hadamardRow o.n i b)
    s.tileWr c o.wg o.tb 0 r 0 (packRow (eBits cb 0) y)) s

/-- The latch an MWLD has filled (R287, R291, R343). -/
def EOp.latch (o : EOp) : Latch :=
  let f := NFmt.of o.fa
  { valid := true, did := o.did, cls := o.cls, k := o.k, n := o.n, fmt := o.ta.fmt.toNat, fval := o.fa
    rows := (List.range o.n).map fun r => ((o.snap.find? fun p => p.1 == r).map (·.2)).getD []
    scales := (List.range (if o.xs.isEmpty then 0 else o.n * (o.k / f.blk))).map fun i =>
      match o.xs[i / 1024]? with
      | some x => x.2.get (i % 1024)
      | none => 0
    hasScale := !o.xs.isEmpty, sfmt := f.e4m3, tix := o.tai, gen := o.gen, xix := ((o.xs.head?).map (·.1)).getD 0
    uid := o.uid, word := o.word, pc := o.pc, wg := o.wg }

/-- Rows that a stream reads in this cycle. -/
def EOp.rowsNow (o : EOp) (clock : Nat) : List Nat := (List.range o.rowsRead).filter fun r => o.rowCycle r == clock

/-- The row-port work of a started operation in this cycle (R205, R206); an error in a row met then ends the operation (DESIGN
CHOICE, log 57). -/
def State.opStream (s : State) (c : Nat) (o : EOp) : State :=
  if o.kind = 10 ∨ o.kind = 11 then
    let rows := o.rowsNow s.clock
    if rows.any (s.rowBad c o) then s.opFails c o
    else
    let new := rows.map fun r => (r, s.tileRd c o.wg o.ta 0 r 0 (o.ta.rowBytes o.fa))
    let s := s.setOp c { o with snap := o.snap ++ new }
    if s.clock + o.lev < o.occ then s.scheduleLate (s.clock + o.lev) (.matrixOpRetire c o.id) else s
  else if o.kind = 12 ∨ o.kind = 14 then
    match o.steps.drop o.part with
    | [] => s
    | rows :: rest =>
      if o.kind = 14 ∧ rows.any (s.rowBad c o) then s.opFails c o
      else
      let s := if o.kind = 12 then s.mreadRows c o rows else s.mhadRows c o rows
      let s := s.setOp c { o with part := o.part + 1 }
      if rest = [] then s else s.nextRows c o (s.clock + 1) (rest.length - 1)
  else s

/-- The end of a started operation. -/
def State.opEnd (s : State) (c : Nat) (o : EOp) : State :=
  let b := o.banks c
  let ms := membersOf o.mode c
  let s :=
    if o.kind = 10 then
      let wi := if (s.warp c o.slot).uid = o.uid then (s.warp c o.slot).wi else 0
      s.modQuad (ms.getD o.member c) fun q => { q with latch := { o.latch with wi } }
    else if o.kind = 11 then s.mmaResult c o
    else if o.kind = 12 then
      let s := s.modQuads b.1 fun q => { q with stamps := stampBank q.stamps o.bank o.did }
      if o.flag then
        (b.1.zip (List.range b.1.length)).foldl (fun s p => s.modQuad p.1 fun q =>
          { q with banks := q.banks.filter fun e =>
              !(e.1 / 32768 == o.bank && decide (o.row0 ≤ e.1 / 128 % 256) && decide (e.1 / 128 % 256 < o.row0 + o.m)
                && decide (128 * p.2 + e.1 % 128 < o.n)) }) s
      else s
    else if o.kind = 13 then
      s.modQuads b.1 fun q =>
        { q with banks := q.banks.filter fun e => !b.2.contains (e.1 / 32768),
                 stamps := b.2.foldl (fun m n => stampBank m n o.did) q.stamps }
    else if o.kind = 15 then
      s.modQuads ms fun q =>
        if o.flag then { q with latch := {}, banks := [], stamps := [], lost := [] } else { q with latch := {} }
    else
      let s := if o.stat ≠ 0 then s
        else if o.bank = 0 then
          s.modQuads ms fun q => { q with mode := 0, leader := 0, group := if q.issued.mode = 0 then (0, 0) else q.group }
        else if (s.quad c).group = (s.wg c o.wg).group then
          s.modQuads (membersOf o.bank c) fun q => { q with mode := o.bank, leader := c, latch := {} }
        else s
      if (s.warp c o.slot).uid = o.uid then
        ((s.warp c o.slot).destRegs o.d 1).foldl (fun (s : State) r =>
          s.landReg c o.slot o.id r (BitVec.allOnes 32) [] (BitVec.ofNat 64 o.stat)) s
      else s
  s.opGone c o

/-- A started matrix operation: its row-port work of a cycle, and at its retirement its effect (R291, R292, R296). -/
def execMatrixOpRetire (core op : Nat) (s : State) : Host.Outcome State Fault Refusal :=
  match (s.core core).op? op with
  | none => .next s
  | some o =>
    if !o.started || o.isCopy then .next s
    else if o.retire ≤ s.clock then .next (s.opEnd core o)
    else .next (s.opStream core o)

end Sys2Proof.Machine
end

