-- ==== Sys2Proof/Machine/Transc.lean ====
section
/-! DEFINITION. The transcendental functions (R119), to far more bits than any rounding needs. Values between powers
of two are fixed-point numbers with `tS` fraction bits; the last `tG` bits absorb the truncation of the series. A result
that is not exact is a floor with a tail. -/

namespace Sys2Proof.Machine

/-- Fraction bits of the series. -/
def tS : Nat := 1264

/-- Guard bits dropped from a result. -/
def tG : Nat := 64

/-- floor (pi * 2^1500). -/
def piFix : Nat :=
  0x3243f6a8885a308d313198a2e03707344a4093822299f31d0082efa98ec4e6c89452821e638d01377be5466cf34e90c6cc0ac29b7c97c50dd3f84d5b5b54709179216d5d98979fb1bd1310ba698dfb5ac2ffd72dbd01adfb7b8e1afed6a267e96ba7c9045f12c7f9924a19947b3916cf70801f2e2858efc16636920d871574e69a458fea3f4933d7e0d95748f728eb658718bcd5882154aee7b54a41dc25a59b59c30d5392af26013c5d1b023286085f0ca417918b8db38ef8e79dcb

/-- Sum of the terms t, t*x/n, t*x*x/(n(n+1)), ... (the exponential series from term t). -/
def expSeries (x : Nat) : Nat → Nat → Nat → Nat → Nat
  | 0, _, _, acc => acc
  | fuel + 1, n, t, acc =>
    let t' := (t * x / 2 ^ tS) / n
    expSeries x fuel (n + 1) t' (acc + t')

/-- Sum with alternating signs of t, t*xx/(n(n+1)), ...: the sine and cosine series. -/
def altSeries (xx : Nat) : Nat → Nat → Nat → Bool → Int → Int
  | 0, _, _, _, acc => acc
  | fuel + 1, n, t, minus, acc =>
    let t' := (t * xx / 2 ^ tS) / (n * (n + 1))
    altSeries xx fuel (n + 2) t' (!minus) (if minus then acc - t' else acc + t')

/-- z + z^3/3 + z^5/5 + ... from the power p = z^(2i+1). -/
def atanhSeries (zz : Nat) : Nat → Nat → Nat → Nat → Nat
  | 0, _, _, acc => acc
  | fuel + 1, n, p, acc => atanhSeries zz fuel (n + 2) (p * zz / 2 ^ tS) (acc + p / n)

/-- ln of a fixed-point number in [1, 2): 2 atanh ((m - 1) / (m + 1)). -/
def lnFix (m : Nat) : Nat :=
  let one := 2 ^ tS
  let z := (m - one) * one / (m + one)
  2 * atanhSeries (z * z / one) 420 1 z 0

/-- ln 2. -/
def ln2Fix : Nat :=
  let one := 2 ^ tS
  let z := one / 3
  2 * atanhSeries (z * z / one) 420 1 z 0

/-- 2^f for a fixed-point f in [0, 1). -/
def exp2Fix (f : Nat) : Nat :=
  let one := 2 ^ tS
  expSeries (f * ln2Fix / one) 220 1 one one

/-- The sine (true) or cosine of a fixed-point r in [0, pi/4 + tiny]. -/
def sinCosFix (isSin : Bool) (r : Nat) : Nat :=
  let one := 2 ^ tS
  let rr := r * r / one
  (if isSin then altSeries rr 110 2 r true r else altSeries rr 110 1 one true one).toNat

/-- A fixed-point result as an inexact value. -/
def fixResult (neg : Bool) (v : Nat) (e : Int) : Exact :=
  .fin neg (v / 2 ^ tG) (e - (tS : Int) + (tG : Int)) true

/-- The integer part of m * 2^e * 2^tS (the magnitude in fixed point, truncated). -/
def toFix (m : Nat) (e : Int) : Nat :=
  let k := e + (tS : Int)
  if 0 ≤ k then m * 2 ^ k.toNat else m / 2 ^ (-k).toNat

/-- 2^x (R119). -/
def exp2Exact : Exact → Exact
  | .nan => .nan
  | .inf n => if n then .fin false 0 0 false else .inf false
  | .fin n m e _ =>
    if m = 0 then .fin false 1 0 false
    else if 11 ≤ e + (Nat.log2 m : Int) then
      (if n then .fin false 1 (-4000) true else .fin false 1 4000 true)
    else
      let x := toFix m e
      let ip := x / 2 ^ tS
      let fp := x % 2 ^ tS
      if fp = 0 then .fin false 1 (if n then -(ip : Int) else (ip : Int)) false
      else if n then fixResult false (exp2Fix (2 ^ tS - fp)) (-(ip : Int) - 1)
      else fixResult false (exp2Fix fp) (ip : Int)

/-- log2 x (R119). -/
def log2Exact : Exact → Exact
  | .nan => .nan
  | .inf n => if n then .nan else .inf false
  | .fin n m e _ =>
    if m = 0 then .inf true
    else if n then .nan
    else
      let k := Nat.log2 m
      let ex := e + (k : Int)
      if m = 2 ^ k then Exact.ofInt false ex 0
      else
        let mant := m * 2 ^ (tS - k)
        let fr := lnFix mant * 2 ^ tS / ln2Fix
        let v : Int := ex * ((2 ^ tS : Nat) : Int) + (fr : Int)
        fixResult (decide (v < 0)) v.natAbs 0

/-- The quadrant and the reduced argument of |x|, both with respect to pi/2: |x| = k pi/2 + r, 0 ≤ r < pi/2. -/
def reducePi (m : Nat) (e : Int) : Nat × Nat :=
  -- pi/2 with 1501 fraction bits is piFix
  let k0 := e + 1501
  let x := if 0 ≤ k0 then m * 2 ^ k0.toNat else m / 2 ^ (-k0).toNat
  (x / piFix, (x % piFix) / 2 ^ (1501 - tS))

/-- pi/2 in fixed point. -/
def halfPi : Nat := piFix / 2 ^ (1501 - tS)

/-- sin of a reduced argument in the first quadrant; `co` gives cos. -/
def sinQ (co : Bool) (r : Nat) : Nat :=
  if 2 * r ≤ halfPi then sinCosFix (!co) r else sinCosFix co (halfPi - r)

/-- sin x (R119). -/
def sinExact : Exact → Exact
  | .nan => .nan
  | .inf _ => .nan
  | .fin n m e _ =>
    if m = 0 then .fin n 0 0 false
    else
      let kr := reducePi m e
      let v := sinQ (kr.1 % 2 == 1) kr.2
      fixResult (n != (kr.1 / 2 % 2 == 1)) v 0

/-- cos x (R119). -/
def cosExact : Exact → Exact
  | .nan => .nan
  | .inf _ => .nan
  | .fin _ m e _ =>
    if m = 0 then .fin false 1 0 false
    else
      let kr := reducePi m e
      let v := sinQ (kr.1 % 2 == 0) kr.2
      fixResult ((kr.1 + 1) / 2 % 2 == 1) v 0

/-- tanh x (R119): (1 - t) / (1 + t) with t = exp (-2|x|). -/
def tanhExact : Exact → Exact
  | .nan => .nan
  | .inf n => .fin n 1 0 false
  | .fin n m e _ =>
    if m = 0 then .fin n 0 0 false
    else if 7 ≤ e + (Nat.log2 m : Int) then .fin n (2 ^ 200 - 1) (-200) true
    else
      let y := 2 * toFix m e * 2 ^ tS / ln2Fix
      let ip := y / 2 ^ tS
      let fp := y % 2 ^ tS
      let t := if fp = 0 then 2 ^ tS / 2 ^ ip else exp2Fix (2 ^ tS - fp) / 2 ^ (ip + 1)
      let one := 2 ^ tS
      fixResult n ((one - t) * one / (one + t)) 0

end Sys2Proof.Machine
end

