-- ==== Sys2Proof/Machine/Barrier.lean ====
section
/-! DEFINITION. Barriers: words and their ALUs, WSYNC, GSYNC (R171 to R177, R210, R231, R232). -/

namespace Sys2Proof.Machine

/-! The word and its ALU (R171, R173). -/


/-- Two barrier operations name one word. A waiter at a word of a page that was not present has no physical address: it waits for
the word of its domain's virtual address (DEDUCED, log 50). -/
def sameWord (f g : Fly) : Bool :=
  (g.kind == 9 || g.kind == 16 || g.kind == 17) && (f.kind == 9) == (g.kind == 9)
    && (if g.accs.isEmpty then f.did == g.did && f.part == g.part && f.va == g.va
        else (f.kind == 9 || f.pa == g.pa) && f.wordAt == g.wordAt)

def State.barWord (s : State) (f : Fly) : Nat :=
  if f.kind = 9 then s.rdN f.wordAt 8 else ofBytes (s.spRd f.pa f.wordAt 8)

def State.setBarWord (s : State) (f : Fly) (v : Nat) : State :=
  if f.kind = 9 then
    s.lineWrite (some (f.core, f.dslot)) (lineOf f.wordAt) (((toBytes 8 v).zip (List.range 8)).map fun b => (f.wordAt % 128 + b.2, b.1))
  else s.spWr f.pa f.wordAt (toBytes 8 v)

/-- A word with its count, arrivals and phase replaced; bits [63:48] stay as they are (R171). -/
def barMake (m count arrived phase : Nat) : Nat :=
  count % 2 ^ 16 + arrived % 2 ^ 16 * 2 ^ 16 + phase % 2 ^ 16 * 2 ^ 32 + fld m 48 16 * 2 ^ 48

/-- The ALU wakes every fragment parked on the word whose token differs from its phase (R173); what it sends takes the way
back of the waiter (R460, DEDUCED, log 21). -/
def State.barWake (s : State) (f : Fly) : State :=
  let phase := fld (s.barWord f) 32 16
  s.fly.foldl (fun s g =>
    if g.2.phase = 7 ∧ sameWord f g.2 ∧ g.2.seq ≠ phase then
      (s.setFly { g.2 with phase := 8, performed := true }).schedule (s.clock + g.2.back) (.lineRequestAnswer g.1)
    else s) s

/-- The fragment of a barrier operation. -/
def State.barFrag (s : State) (f : Fly) : Bool :=
  (s.warp f.core f.slot).uid == f.uid && (match (s.frag f.core f.slot f.frag).st with
    | .parked (.answer id) => id == f.id
    | .parked (.barrier id _ _ _ _) => id == f.id
    | _ => false)

/-- A waiter stays at the word with a token. -/
def State.barPark (s : State) (f : Fly) (token : Nat) (sc : Scope) : State :=
  let s := s.setFly { f with phase := 7, seq := token, performed := true }
  let space := if f.kind = 9 then 0 else if f.kind = 16 then 1 else 2
  s.modFrag f.core f.slot f.frag fun g =>
    { g with st := .parked (.barrier f.id space f.va token sc), token := if f.code % 8 = 2 then some token else none }

/-- The scope a barrier operation carries, in `code`: operation + 8 * scope. -/
def scopeNo : Scope → Nat
  | .none => 0 | .wg => 1 | .cl => 2 | .rt => 3 | .st => 4 | .pk => 5 | .sy => 6
def scopeOf (n : Nat) : Scope :=
  match n with
  | 1 => .wg | 2 => .cl | 3 => .rt | 4 => .st | 5 => .pk | 6 => .sy | _ => .none

/-- Its answer goes back. -/
def State.barReply (s : State) (f : Fly) : State :=
  (s.setFly { f with performed := true, phase := 8 }).schedule (s.clock + f.back) (.lineRequestAnswer f.id)

/-- A barrier operation at the word (R173, R210). `seq` is the count, the value or the token; operation 0 BARINIT,
1 ARRIVE, 2 ARRWAIT, 3 WAITB. -/
def State.barAct (s : State) (f : Fly) : State :=
  let m := s.barWord f
  let count := fld m 0 16
  let arrived := fld m 16 16
  let phase := fld m 32 16
  let op := f.code % 8
  let sc := scopeOf (f.code / 8)
  if op = 0 then ((s.setBarWord f f.seq).barWake f).dropFly f.id
  else if op = 3 then
    if phase ≠ f.seq then s.barReply f else s.barPark f f.seq sc
  else if count ≠ 0 ∧ count ≠ f.seq then
    (s.barWake f).barReply { f with nofill := true }
  else if arrived + 1 = f.seq then
    ((s.setBarWord f (barMake m 0 0 (phase + 1))).barWake f).barReply { f with seq := phase }
  else
    let s := (s.setBarWord f (barMake m f.seq (arrived + 1) phase)).barWake f
    if op = 1 then s.barReply { f with seq := phase } else s.barPark f phase sc

/-- The word's ALU performs a barrier operation and wakes waiters (R173). -/
def execBarrierWordOperation (id : Nat) (s : State) : Host.Outcome State Fault Refusal :=
  match FMap.get? s.fly id with
  | none => .next s
  | some f => .next (if f.performed then s else s.barAct f)

/-- A barrier operation answers its fragment: the token, BARRIER_MISMATCH, or the end of the wait (R173, R231). -/
def State.barAnswer (s : State) (f : Fly) : State :=
  let here := s.barFrag f
  let s := s.dropFly f.id
  let op := FMap.get? s.loads f.op
  let s := { s with loads := FMap.drop s.loads f.op }
  if !here then s
  else
    let pc := (s.frag f.core f.slot f.frag).pc
    let s := s.modWarp f.core f.slot fun k => k.unlock f.op
    if f.nofill then s.trapParked f.core f.slot f.frag { cause := cBarrierMismatch, pc, addr := f.va }
    else
      let v := BitVec.ofNat 64 f.seq
      let s := match op with
        | some o => o.regs.foldl (fun (s : State) r => s.landReg f.core f.slot o.id r o.mask [] v) s
        | none => s
      let s := if f.code % 8 = 1 then s else s.acquire f.core f.dslot (scopeOf (f.code / 8))
      s.resume f.core f.slot f.frag

/-- A line request, remote scratchpad access or atomic answers (R250, R460). A returning atomic writes its lanes at once
(R168). -/
def execLineRequestAnswer (id : Nat) (s : State) : Host.Outcome State Fault Refusal :=
  match FMap.get? s.fly id with
  | none => .next s
  | some f =>
    if !f.performed then .next s
    else if f.kind = 9 ∨ f.kind = 16 ∨ f.kind = 17 then .next (s.barAnswer f)
    else
      let s := s.dropFly id
      let s := if f.kind = 0 then s.l1Fill f else s
      match FMap.get? s.loads f.op with
      | none => .next s
      | some op =>
        let op := op.take (if f.kind = 0 ∨ f.kind = 6 then lineBytes op f else f.bytes)
        let s :=
          if op.kind = 3 ∧ (s.warp op.core op.slot).uid = op.uid then
            s.modWarp op.core op.slot fun k => k.landLanes op (maskOf fun l => f.accs.any fun a => a.lane == l)
          else s
        .next (s.answerOp op)


/-! The barrier opcodes (R172, R173). -/

/-- A barrier operation sets out for its word. -/
def State.sendBarrier (s : State) (x : Ctx) (f : FmtM) (code seq op : Nat) (p : Spot) (va : U64) : Nat × State :=
  let acc : LaneAcc := { lane := x.low, pa := p.pa, va, kind := p.kind, data := [], new := [], pass := 0 }
  let kind := if f.sp = .gl then 9 else if f.sp = .sp then 16 else 17
  let place : Spot := if f.sp = .gl then { p with pa := lineOf p.pa } else { p with pa := p.core }
  let fl := x.fly s kind op [(x.k.uid, x.fr.exec.toNat, 0)] place [acc] 8 (code + 8 * scopeNo f.sc) (s.clock + p.extra) va
    (s.slack x.c x.w)
  let fl := { fl with seq := seq, own := fl.own && kind == 9 }
  let s := if code = 0 ∧ kind ≠ 16 then s.bumpId.drainOwn x.c (quarterOf x.w) x.k.uid x.fr.exec.toNat else s.bumpId
  if kind = 9 then (fl.id, s.launchFly fl)
  else if kind = 17 then (fl.id, s.launchBank fl)
  else
    let t := max s.clock (s.core x.c).simtFree
    let s := s.modCore x.c fun k => { k with simtFree := t + 1 }
    (fl.id, (s.setFly { fl with arrives := t, back := 24 }).schedule t (.barrierWordOperation fl.id))

/-- The checks of a barrier operation, then its effect: hold the fragment unless it is BARINIT (R173). The address is checked
before k = 0, and a word in host or peer memory raises TRANSLATION (DESIGN CHOICE, log 50: R172 and R173 give no order and no
outcome). -/
def State.barrier (s : State) (x : Ctx) (i : Instr) (f0 : FmtM) (code seq : Nat) (regs : List Reg) : Res :=
  let f := { f0 with b := .zero }
  let k := offTerm f
  let va := x.vaOf f k x.low
  let lanes := maskOf fun l => l == x.low
  s.ifDropped x (code == 1 || code == 2) f.sc 255 fun s =>
    match s.checkLane x f k 8 8 (if code = 3 then .rd else .at_) false true x.low with
    | .miss => .gone (s.waitWalks x (if code = 3 then 0 else 1) [x.glAddr f k x.low])
    | .bad cause ipa => .trap s { cause, pc := x.pc, addr := va, lanes, pa := BitVec.ofNat 64 ipa }
    | .ok p =>
      let s := s.refill x f k (if code = 3 then 0 else 1) [x.low]
      if 3 ≤ p.kind then .trap s { cause := cTranslation, pc := x.pc, addr := va, lanes }
      else if (code = 1 ∨ code = 2) ∧ seq = 0 then .trap s { cause := cBarrierMismatch, pc := x.pc, addr := va }
      else if p.kind = 1 then
        let s := s.modWarp x.c x.w fun k => { k with nrm := k.nrm ||| BitVec.ofNat 64 (2 ^ 32) }
        if seq ≠ 0 then .next (s.acquire x.c x.k.dslot f.sc)
        else
          let fl := x.fly s 9 0 [(x.k.uid, x.fr.exec.toNat, 0)] p [] 8 (3 + 8 * scopeNo f.sc) s.clock va 15
          let s := s.bumpId.setFly { fl with phase := 7, performed := true, back := 60 }
          .gone (s.parkFrag x (.barrier fl.id 0 va 0 f.sc))
      else if code = 0 then .next (s.sendBarrier x f 0 seq 0 p va).2
      else
        let id := s.nextId
        let op : LoadOp :=
          { id, core := x.c, slot := x.w, uid := x.k.uid, frag := x.g, kind := 4, pc := x.pc, regs,
            mask := BitVec.allOnes 32, cover := x.fr.exec, size := 8, accs := [], left := 1, got := [], nrm := 0,
            acq := .none, lands := 0, dslot := x.k.dslot, word := (encode i).getD 0
            svals := ([f0.a, f0.b].filter (·.isS)).map x.uni }
        let s : State := { s.bumpId with loads := FMap.put s.loads id op }
        let s := s.modWarp x.c x.w fun k => k.lock id regs
        let r := s.sendBarrier x f code seq id p va
        .gone (r.2.parkFrag x (.answer r.1))

def execBarinit (h : Head) (f : FmtM) (s : State) : Host.Outcome State Fault Refusal :=
  runIsa (.barinit h f) h false s fun x s =>
    s.barrier x (.barinit h f) f 0 (if f.b.isS then fld (x.uni f.b).toNat 0 16 else 0) []

def execArrive (h : Head) (f : FmtM) (s : State) : Host.Outcome State Fault Refusal :=
  runIsa (.arrive h f) h false s fun x s =>
    s.barrier x (.arrive h f) f 1 (fld (x.uni f.b).toNat 0 16) (x.k.destRegs f.d 1)

def execWaitb (h : Head) (f : FmtM) (s : State) : Host.Outcome State Fault Refusal :=
  runIsa (.waitb h f) h false s fun x s => s.barrier x (.waitb h f) f 3 (fld (x.uni f.b).toNat 0 16) []

def execArrwait (h : Head) (f : FmtM) (s : State) : Host.Outcome State Fault Refusal :=
  runIsa (.arrwait h f) h false s fun x s =>
    match x.fr.token with
    | some t => s.barrier x (.arrwait h f) f 3 t []
    | none => s.barrier x (.arrwait h f) f 2 (fld (x.uni f.b).toNat 0 16) []

/-! WSYNC (R176). -/

/-- The mask of a fragment parked in WSYNC at a PC. -/
def Frag.wsyncAt (f : Frag) (pc : U64) : Option U32 :=
  match f.st with
  | .parked (.wsync m) => if f.pc = pc then some m else none
  | _ => none

/-- The fragments released together: each lane of their masks waits at the PC, has exited, or is held on the stack; their
release at WG is done (R176). -/
def State.wsyncReady (s : State) (c w : Nat) (pc : U64) : List (Nat × Frag) :=
  let k := s.warp c w
  let waiting := k.frags.filter fun p => (p.2.wsyncAt pc).isSome
  let arrived := waiting.foldl (fun a p => a ||| p.2.memb) 0
  let busy := k.liveLanes &&& ~~~arrived
  let go := waiting.filter fun p => ((p.2.wsyncAt pc).getD 0 &&& busy) == 0
  if go.any fun p => s.storesOut c k.uid p.2.exec.toNat 255 .wg || s.readsOut c k.uid p.2.exec.toNat then [] else go

/-- Whether a WSYNC is over is looked at again in every cycle in which one waits. -/
def execWsyncRelease (core slot : Nat) (pc : U64) (s : State) : Host.Outcome State Fault Refusal :=
  match s.warp? core slot with
  | none => .next s
  | some _ =>
    let s := (s.wsyncReady core slot pc).foldl (fun s p => s.resume core slot p.1) s
    .next (if (s.warp core slot).frags.any fun p => (p.2.wsyncAt pc).isSome then
        s.schedule (s.clock + 1) (.wsyncRelease core slot pc)
      else s)

def execWsync (h : Head) (f : FmtA) (s : State) : Host.Outcome State Fault Refusal :=
  runIsa (.wsync h f) h false s fun x s =>
    let m := BitVec.ofNat 32 (x.wide f.a 0)
    let first := !((s.warp x.c x.w).frags.any fun p => (p.2.wsyncAt x.pc).isSome)
    let s := s.parkFrag x (.wsync m)
    .gone (if first then s.schedule (s.clock + 1) (.wsyncRelease x.c x.w x.pc) else s)

/-! GSYNC (R177). -/

/-- A fragment parked in GSYNC. -/
def Frag.inGsync (f : Frag) : Bool := match f.st with
  | .parked .gsync => true
  | _ => false

/-- The resident warps of a grid. -/
def State.gridWarps (s : State) (g : Nat) : List (Nat × Nat × Warp) :=
  s.cores.flatMap fun c =>
    (c.2.warps.filter fun p => (FMap.getD c.2.wgs p.2.wg {}).grid == g).map fun p => (c.1, p.1, p.2)

/-- The resident warps of workgroups of other grids that have withdrawn workgroups of a grid (R407). -/
def State.withdrawers (s : State) (g : Nat) : List (Nat × Nat × Warp) :=
  s.cores.flatMap fun c =>
    (c.2.warps.filter fun p =>
      let w := FMap.getD c.2.wgs p.2.wg {}
      w.grid != g && w.withdrawn.contains g).map fun p => (c.1, p.1, p.2)

/-- Every workgroup of the grid is placed or withdrawn and every warp, the withdrawers' too, has arrived or exited, its release
done (R177, R407). -/
def State.gsyncReady (s : State) (g : Nat) (gr : Grid) : Bool :=
  let total := fld gr.rcd 64 32 * fld gr.rcd 96 32 * fld gr.rcd 128 32
  decide (total ≤ gr.next)
    && !(s.ctxRecs.any fun r => (r.wg.grid == g || r.wg.withdrawn.contains g) && s.rdN r.addr 1 % 4 == 1
        && !(r.gs && (r.wg.grid != g || r.gen == gr.gsync)))
    && (s.gridWarps g ++ s.withdrawers g).all fun r => r.2.2.frags.all fun p => p.2.inGsync
        && !(s.storesOut r.1 r.2.2.uid p.2.exec.toNat 255 .pk) && !(s.readsOut r.1 r.2.2.uid p.2.exec.toNat)

/-- All of a grid's fragments in GSYNC go on, with an acquire at PK. -/
def State.gsyncGo (s : State) (g : Nat) : State :=
  let s : State := { s with grids := s.grids.map fun p => if p.1 = g then (g, { p.2 with gsync := p.2.gsync + 1 }) else p }
  (s.gridWarps g).foldl (fun s r =>
    (r.2.2.frags.filter fun p => p.2.inGsync).foldl (fun s p =>
      (s.acquire r.1 r.2.2.dslot .pk).resume r.1 r.2.1 p.1) s) s

/-- Whether a grid's barrier is over is looked at again in every cycle in which a fragment waits in one. -/
def execGsyncRelease (s : State) : Host.Outcome State Fault Refusal :=
  let waiting := (s.grids.filter fun g => (s.gridWarps g.1).any fun r => r.2.2.frags.any fun p => p.2.inGsync)
  let go := waiting.filter fun g => s.gsyncReady g.1 g.2
  let s' := go.foldl (fun s g => s.gsyncGo g.1) s
  .next (if go.length < waiting.length then s'.schedule (s.clock + 1) .gsyncRelease else s')

/-- The cooperative flag of a launch record is set (R189). -/
def coopFlag (rcd : Nat) : Bool := rcd.testBit 217

def execGsync (h : Head) (s : State) : Host.Outcome State Fault Refusal :=
  runIsa (.gsync h) h false s fun x s =>
    match FMap.get? s.grids (s.wg x.c x.k.wg).grid with
    | none => .trap s { cause := cGridNotCoop, pc := x.pc }
    | some g =>
      if !coopFlag g.rcd then .trap s { cause := cGridNotCoop, pc := x.pc }
      else
        let busy := s.grids.any fun g => (s.gridWarps g.1).any fun r => r.2.2.frags.any fun p => p.2.inGsync
        let s := s.parkFrag x .gsync
        .gone (if busy then s else s.schedule (s.clock + 1) .gsyncRelease)

end Sys2Proof.Machine
end

