-- ==== Sys2Proof/Machine/Work.lean ====
section
/-! DEFINITION. Work: launch records, queue entries, dependences, placement, admission, retirement, LAUNCH, FETCHWG (R178 to
R180, R189 to R195, R389, R399 to R407, R419, R461). -/

namespace Sys2Proof.Machine

/-! The launch record (R189, R190). -/

def rTotal (r : Nat) : Nat := fld r 64 32 * fld r 96 32 * fld r 128 32
def rScratch (r : Nat) : Nat := fld r 160 32
def rWarps (r : Nat) : Nat := fld r 192 8
def rRegs (r : Nat) : Nat := fld r 200 8
def rCluster (r : Nat) : Nat := fld r 208 8
def rScales (r : Nat) : Bool := r.testBit 216
def rPrio (r : Nat) : Nat := fld r 218 2
def rDone (r : Nat) : Nat := fld r 320 64
def rDepAddr (r i : Nat) : Nat := fld r (384 + 128 * i) 64
def rDepVal (r i : Nat) : Nat := fld r (448 + 128 * i) 64
def rHint (r i : Nat) : Nat := fld r (640 + 96 * i) 96

/-- LAUNCH's order-1 check: the record is INVALID (R178, R189, R190). -/
def recordBad (r : Nat) : Bool :=
  fld r 0 3 != 0 || rTotal r == 0 || decide (2 ^ 31 - 1 < rTotal r) || rWarps r == 0 || decide (16 < rWarps r)
    || decide (rRegs r < 16) || decide (128 < rRegs r) || rRegs r % 8 != 0 || decide (3145728 < rScratch r)
    || rScratch r % 1024 != 0 || !([1, 2, 4].contains (rCluster r)) || rTotal r % (max 1 (rCluster r)) != 0
    || fld r 220 36 != 0 || fld r 320 3 != 0 || fld r 384 3 != 0 || fld r 512 3 != 0
    || (List.range 4).any fun i =>
        let h := rHint r i
        if h.testBit 63 then fld h 57 6 != 0 else h != 0

/-! Cores, partitions, domains (R184, R191, R409, R437). -/

/-- A core that is present and has reported ready (R437, R438). -/
def State.coreReady (s : State) (c : Nat) : Bool :=
  !s.fuseCore.contains c && (s.stack (stackOf c)).ready.getLsbD (8 + c % 16)

/-- The ready cores that serve a partition, or DID 0 (partition 64). -/
def State.partCores (s : State) (p : Nat) : List Nat :=
  (List.range 192).filter fun c => s.coreReady c && (p == 64 || s.inPart p c)

/-- The core's slot through which a domain's workgroups are admitted (R191, R416, R419). -/
def State.admitSlot (s : State) (c did p : Nat) : Option Nat :=
  if did = 0 then some 0
  else (List.range 8).find? fun k =>
    k != 0 && s.dsValid c k && s.dsDid c k == did && s.dsPart c k == p && s.dsCtx c k != 0

/-- Some core and slot that hold a domain in a partition: whose tables translate its records and words. -/
def State.domCore (s : State) (did p : Nat) : Option (Nat × Nat) :=
  if did = 0 then some (0, 0)
  else (List.range 192).findSome? fun c =>
    ((List.range 8).find? fun k => k != 0 && s.dsValid c k && s.dsDid c k == did && s.dsPart c k == p).map fun k => (c, k)

/-! Admission (R191 to R195). -/

/-- A free row range of a slot: first fit from the lowest row. -/
def State.rowFit (s : State) (c slot rows : Nat) : Option Nat :=
  let lo := fld (s.dslim c slot) 20 12
  let hi := lo + fld (s.dslim c slot) 32 12
  let used := (s.core c).wgs.map fun g => (g.2.rowBase, g.2.rowBase + g.2.scratch / 1024)
  let free (r : Nat) : Bool :=
    decide (lo ≤ r ∧ r + rows ≤ hi) && used.all fun u => decide (u.2 ≤ r) || decide (r + rows ≤ u.1)
  if rows = 0 then some lo
  else (ascending (lo :: used.map (·.2))).find? free

/-- Warps and scale blocks of a slot in use. -/
def State.slotWarps (s : State) (c slot : Nat) : Nat := ((s.core c).warps.filter fun w => w.2.aslot == slot).length
def State.slotBlocks (s : State) (c slot : Nat) : Nat :=
  ((s.core c).warps.filter fun w => w.2.aslot == slot && (s.wg c w.2.wg).scales).length

/-- A core can take a workgroup of a shape now: the slot and the first row (R191). -/
def State.canAdmit (s : State) (c did p w g scratch : Nat) (scales : Bool) : Option (Nat × Nat) :=
  match s.admitSlot c did p with
  | none => none
  | some slot =>
    let lim := s.dslim c slot
    if s.coreReady c ∧ s.slotWarps c slot + w ≤ fld lim 0 7
        ∧ s.regsUsed c slot + w * (g + 16) ≤ fld lim 8 9 * 8
        ∧ w * (g + 16) ≤ s.regsFree c slot
        ∧ (!scales ∨ s.slotBlocks c slot + w ≤ fld lim 52 5) then
      (s.rowFit c slot (scratch / 1024)).map fun r => (slot, r)
    else none

/-- The core's slot that holds a domain in a partition, whether or not it admits work now. -/
def State.holdSlot (s : State) (c did p : Nat) : Option Nat :=
  if did = 0 then some 0
  else (List.range 8).find? fun k => k != 0 && s.dsValid c k && s.dsDid c k == did && s.dsPart c k == p

/-- The cores of a partition, or of the package for DID 0, ready or not. -/
def State.partHas (s : State) (p c : Nat) : Bool := !s.fuseCore.contains c && (p == 64 || s.inPart p c)

/-- Workgroups of a shape that an empty core's slot can hold (R178, R194). -/
def State.capacity (s : State) (c did p : Nat) (r : Nat) : Nat :=
  match s.holdSlot c did p with
  | none => 0
  | some slot =>
    let lim := s.dslim c slot
    let w := rWarps r
    let a := min (fld lim 0 7 / max 1 w) (fld lim 8 9 * 8 / max 1 (w * (rRegs r + 16)))
    let a := if rScratch r = 0 then a else min a (fld lim 32 12 / (rScratch r / 1024))
    if rScales r then min a (fld lim 52 5 / max 1 w) else a

/-- The cores of one cluster group beginning at a cluster and offset (R192). -/
def groupCores (base n : Nat) : List Nat := (List.range n).map (base + ·)

/-- The first cores on which a cluster group of size n may lie on a stack, in order (R192, R404). -/
def groupBases (k n : Nat) : List Nat := (List.range (16 / n)).map fun i => 16 * k + n * i

/-- The whole grid fits within the partition's resources at once (R178). -/
def State.fitsWhole (s : State) (did p r : Nat) : Bool :=
  let n := rCluster r
  let cap (c : Nat) : Nat := if s.partHas p c then s.capacity c did p r else 0
  let all := (List.range 12).foldl (fun a k =>
    (groupBases k n).foldl (fun a b => a + n * ((groupCores b n).map cap).foldl min 1000000) a) 0
  decide (rTotal r ≤ all)

/-- Some core, or cluster, could hold a workgroup when empty (R194). A grid for whose domain no core has a slot waits for one, and
so does a cluster some of whose cores have none (R405, R419). -/
def State.fitsEver (s : State) (did p r : Nat) : Bool :=
  let n := rCluster r
  let slotted (c : Nat) : Bool := (s.holdSlot c did p).isSome
  let here := (List.range 192).filter fun c => s.partHas p c && slotted c
  let fits (c : Nat) : Bool := decide (0 < s.capacity c did p r)
  here.isEmpty
    || here.any fits && (List.range 12).any fun k => (groupBases k n).any fun b =>
      (groupCores b n).all fun c => s.partHas p c && (fits c || !slotted c)

/-- The slot that the next warp of a workgroup takes: in the quarter with the most free slots open to the domain, the
lowest (R193). -/
def State.freeSlot (s : State) (c did : Nat) : Option Nat :=
  let free (i : Nat) : Bool := (s.warp? c i).isNone && (if did = 0 then i == 63 else i != 63)
  let n (q : Nat) : Nat := ((List.range 16).filter fun i => free (16 * q + i)).length
  let q := (List.range 4).foldl (fun b q => if n b < n q then q else b) 0
  ((List.range 16).map (16 * q + ·)).find? free

/-- A new warp (R69, R195). -/
def State.newWarp (s : State) (c slot dslot wg wi lin grid g prio entry : Nat) : State :=
  let uid := s.nextId
  let s := s.bumpId
  let w : Warp :=
    { uid, wg, wi, gen := Lanes.build fun l => genSeed grid lin wi l, alloc := g,
      spillPtr := BitVec.ofNat 64 (s.dsSpill c dslot + 16777216 * slot), aslot := dslot, dslot := dslot, prio,
      age := s.clock,
      frags := [(0, { pc := BitVec.ofNat 64 entry, exec := BitVec.allOnes 32, memb := BitVec.allOnes 32, prio,
                      age := s.clock, stall := s.clock + 30, fresh := true })] }
  let s := (s.setWarp c slot w).startFetch c slot 0
  if slot = 63 then s.schedule s.clock .systemHandlerEntry else s

/-- The instruction cache holds nothing older than this admission (R253). -/
def State.refreshIcache (s : State) (c : Nat) : State :=
  s.modCore c fun k => { k with icache := k.icache.map fun e => (e.1, BitVec.ofNat 64 (s.physRead e.1 8), e.2.2) }

/-- One workgroup is admitted on a core: rows zeroed, warps made (R191 to R195, R209). -/
def State.placeWg (s : State) (c slot row did member lin : Nat) (g : Grid) : State :=
  let r := g.rcd
  let key := s.nextId
  let wg : WG :=
    { grid := g.id, lin, did, slot, member, rowBase := row, scratch := rScratch r, warps := rWarps r, regs := rRegs r,
      scales := rScales r }
  let lo := row * 1024
  let hi := lo + rScratch r
  let s := s.bumpId.modCore c fun k =>
    { k with
      wgs := FMap.put k.wgs key wg
      scratch := k.scratch.filter fun b => !(decide (lo ≤ b.1) && decide (b.1 < hi))
      badScratch := k.badScratch.filter fun w => !(decide (lo ≤ 4 * w) && decide (4 * w < hi)) }
  let s := s.refreshIcache c
  (List.range (rWarps r)).foldl (fun s wi =>
    match s.freeSlot c did with
    | none => s
    | some sl => s.newWarp c sl slot key wi lin g.id (rRegs r) (rPrio r) (fld r 0 64)) s

/-! Words that the device itself reads and writes for a domain (R237, R268, R400, R429). -/

/-- What came of a word to be written: it has set out, as an access that can be waited for; it needs a walk; its page fails. -/
inductive WordSent where
  | sent (id : Nat)
  | walk
  | skipped
  deriving DecidableEq, Repr

/-- A word is written, or added to, at a virtual address of a domain: it goes to its home as an access does (R400, R448, R452,
R460). -/
def State.sendWord (s : State) (c : Nat) (d : Dom) (va : Nat) (b : List Byte) (add : Bool) : WordSent × State :=
  match s.translateFor c d va 1 with
  | .miss => (.walk, s.askFor c d va 1)
  | .ok pa t _ =>
    let acc : LaneAcc := { lane := 0, pa, va := BitVec.ofNat 64 va, kind := 0, data := b, new := [], pass := 0 }
    let f : Fly :=
      { s.plainFly 14 c pa b.length d.did (d.part.getD 0) d.g2 with
        dslot := d.dslot, va := BitVec.ofNat 64 va, shrd := t.shrd, mt := t.mt, accs := if add then [acc] else []
        bytes := if add then [] else (List.range b.length).zip b, own := decide (s.region pa ≤ 1 ∧ homeOf pa = stackOf c) }
    let id := s.nextId
    (match s.wayOf pa with
     | some w =>
       if w.mr ∧ (add ∨ b.length % mrBytes w.etyp ≠ 0) then (.skipped, s)
       else (.sent id, s.bumpId.launchPeer { f with kind := if add then 12 else 11, accs := [acc] } w)
     | none =>
       if s.region pa = 2 then (.sent id, s.bumpId.launchHost { f with kind := if add then 8 else 7, accs := [acc] })
       else if s.isLost pa then (.skipped, s)
       else (.sent id, s.bumpId.launchFly f))
  | _ => (.skipped, s)

/-- An access has not been performed. -/
def State.underWay (s : State) (id : Nat) : Bool :=
  match FMap.get? s.fly id with
  | some f => !f.performed
  | none => false

/-- What came of a word to be read: its value, no value, or the cycle to try again. -/
inductive WordGot where
  | ok (v : Nat)
  | fail
  | wait (t : Nat)
  deriving DecidableEq, Repr

/-- A read of bytes within a line that a core's stack makes at a physical address: held, as any read, by a migration, a home that is
not ready, a way that is shut, refresh and H4; of a peer's memory they are free (R251, R269, R351, R435, R439, DESIGN CHOICE,
log 22). -/
def State.lineGet (s : State) (c : Nat) (d : Dom) (pa n : Nat) (t : Tlb) : WordGot × State :=
  match s.wayOf pa with
  | some w =>
    if w.mr then (.fail, s)
    else
      let r := (List.range (ceilDiv n 8)).foldl (fun (a : Nat × State) i =>
        let v := a.2.freeWord
        (a.1 + v.1.toNat * 2 ^ (64 * i), v.2)) (0, s)
      (.ok (r.1 % 2 ^ (8 * n)), r.2.request w.port w.dest 0 (pkt 1 0 w.addr (toBytes 4 n)))
  | none =>
    if s.isLost pa ∨ !(s.routable c pa) then (.fail, s)
    else if s.region pa = 2 then (.ok (s.physRead pa n), s)
    else if s.clock < s.wayFrom (stackOf c) pa then (.wait (s.wayFrom (stackOf c) pa), s)
    else if s.pageHeld pa then (.wait (s.clock + 1), s)
    else
      let q := s.engLine pa d.did (d.part.getD 0) t.shrd false t.mt
      if s.clock < q.1 then (.wait q.1, q.2) else (.ok (q.2.physRead pa n), q.2)

/-- Bytes at a virtual address of a domain, within a line; none when the translation fails or the line is lost. -/
def State.domGet (s : State) (did part va n : Nat) : WordGot × State :=
  match s.domCore did part with
  | none => (.fail, s)
  | some (c, k) =>
    let d := s.dom c k
    match s.translateFor c d va 0 with
    | .miss => (.wait (s.clock + 1), s.askFor c d va 0)
    | .ok pa t _ => s.lineGet c d pa n t
    | .zeros _ => (.ok 0, s)
    | .fault _ _ => (.fail, s)

/-! Queue entries (R399). -/

/-- A domain's general pool. -/
def State.poolSize (s : State) (did : Nat) : Nat :=
  if did = 0 then 64
  else (List.range 512).foldl (fun a f =>
    let v := (s.sysReg 0x400 f).toNat
    if v.testBit 63 ∧ fld v 0 10 = did then a + fld v 32 10 else a) 0

/-- The pool an entry comes from: 0 general, e the reserve of depth e; none when spent. -/
def State.queueEntry (s : State) (did depth : Nat) : Option Nat :=
  let mine := s.grids.filter fun g => g.2.did == did
  if (mine.filter fun g => g.2.pool == 0).length < s.poolSize did then some 0
  else if depth ≠ 0 ∧ !(mine.any fun g => g.2.pool == depth) then some depth
  else none

/-- Ask for a placement round of a partition unless one is coming. -/
def State.pokePart (s : State) (p : Nat) : State :=
  if s.agenda.any fun a => a.2 == .workgroupPlacement p then s else s.schedule (s.clock + 1) (.workgroupPlacement p)

def State.setGrid (s : State) (g : Grid) : State := { s with grids := FMap.put s.grids g.id g }

/-- A grid takes its queue entry; its dependence words are read at once (R399, R400). -/
def State.enqueue (s : State) (rcd did part : Nat) (fn : Option Nat) (parent : Option (Nat × Nat × Nat))
    (depth pool : Nat) : State :=
  let id := s.nextLaunch
  let g : Grid :=
    { id, rcd, did, part, fn, parent, depth, pool, dep0 := rDepAddr rcd 0 == 0, dep1 := rDepAddr rcd 1 == 0,
      readyAt := s.clock, lastRead := s.clock, next := 0, withdrawn := [], exited := 0, placed := 0, ended := false,
      skips := 0, nmOut := 0 }
  let s : State := { s with nextLaunch := (s.nextLaunch + 1) % 2 ^ 32 }
  let s := s.setGrid g
  if g.dep0 && g.dep1 then s.pokePart part else s.schedule s.clock (.dependenceRead id)

/-- A grid's remaining workgroups will not run: it counts as ended by system software (R179, R194, R400). -/
def State.endGrid (s : State) (g : Grid) : State :=
  (s.setGrid { g with ended := true, exited := g.exited + (rTotal g.rcd - g.next), next := rTotal g.rcd }).schedule s.clock
    (.gridRetire g.id)

/-- The device reads a grid's unmet dependence words, and again after a free time of at most 4,096 cycles (R400, DESIGN CHOICE, log 2). -/
def execDependenceRead (grid : Nat) (s : State) : Host.Outcome State Fault Refusal :=
  match FMap.get? s.grids grid with
  | none => .next s
  | some g =>
    if (g.dep0 && g.dep1) || decide (rTotal g.rcd ≤ g.next) then .next s
    else
      let r0 := if g.dep0 then (.ok (rDepVal g.rcd 0), s) else s.domGet g.did g.part (rDepAddr g.rcd 0) 8
      let r1 := if g.dep1 then (.ok (rDepVal g.rcd 1), r0.2) else r0.2.domGet g.did g.part (rDepAddr g.rcd 1) 8
      let s := r1.2
      match r0.1, r1.1 with
      | .fail, _ | _, .fail => .next (s.endGrid g)
      | .wait t, .wait u => .next (s.schedule (min t u) (.dependenceRead grid))
      | .wait t, _ | _, .wait t => .next (s.schedule t (.dependenceRead grid))
      | .ok a, .ok b =>
        let g := { g with dep0 := decide (rDepVal g.rcd 0 ≤ a), dep1 := decide (rDepVal g.rcd 1 ≤ b), lastRead := s.clock }
        if g.dep0 && g.dep1 then .next ((s.setGrid { g with readyAt := s.clock }).pokePart g.part)
        else
          let r := s.freeBelow 4096
          .next ((r.2.setGrid g).schedule (s.clock + 1 + r.1) (.dependenceRead grid))

/-! Placement (R355, R401 to R405, R407). -/

/-- Bytes hinted for each stack by the workgroups of a placement (R402). -/
def State.hintBytes (s : State) (g : Grid) (lins : List Nat) : List Nat :=
  match s.domCore g.did g.part with
  | none => List.replicate 12 0
  | some (c, k) =>
    let d := s.dom c k
    let pages := lins.flatMap fun (w : Nat) => (List.range 4).flatMap fun (i : Nat) =>
      let h := rHint g.rcd i
      let len := fld h 80 16
      if h.testBit 63 ∧ len ≠ 0 then
        let lo := (fld h 0 57 : Int) + (w : Int) * sextN 16 (fld h 64 16) * 65536
        let first := lo / 65536
        let last := (lo + (len : Int) * 65536 - 1) / 65536
        (List.range (min 64 (last - first + 1).toNat)).map fun (j : Nat) =>
          canonOr ((wrapN 57 ((first + (j : Int)) * 65536) : Nat) : Int)
      else []
    pages.foldl (fun r va =>
      match s.look (stackOf c) d va 0 with
      | .ok pa _ _ => if s.region pa ≤ 1 then r.set (homeOf pa) (r.getD (homeOf pa) 0 + 65536) else r
      | _ => r) (List.replicate 12 0)

/-- Twice the placement weight of a level (R355). -/
def placeWeight (l : Nat) : Nat := if l ≤ 1 then 2 else if l = 2 then 1 else 0

/-- The workgroups of the next placement: from the counter up to the next multiple of the cluster size (R402). -/
def Grid.nextGroup (g : Grid) : List Nat :=
  let n := rCluster g.rcd
  (List.range n).map (fun i => g.next / n * n + i) |>.filter fun l => decide (g.next ≤ l ∧ l < rTotal g.rcd)

/-- Where the next group of a grid would go on a stack: members with core, slot and row (R404). -/
def State.spotOn (s : State) (g : Grid) (k : Nat) : Option (List (Nat × Nat × Nat × Nat)) :=
  let n := rCluster g.rcd
  let lins := g.nextGroup
  let cores := s.partCores g.part
  let can (c : Nat) : Option (Nat × Nat) :=
    if cores.contains c then s.canAdmit c g.did g.part (rWarps g.rcd) (rRegs g.rcd) (rScratch g.rcd) (rScales g.rcd)
    else none
  if n = 1 then
    let open_ (c : Nat) : Nat :=
      ((List.range 64).filter fun i => (s.warp? c i).isNone && (if g.did = 0 then i == 63 else i != 63)).length
    let best := ((List.range 16).map (16 * k + ·)).foldl (fun (b : Option (Nat × Nat × Nat)) c =>
      match can c with
      | none => b
      | some p => match b with
        | none => some (c, p.1, p.2)
        | some (c', _, _) => if open_ c' < open_ c then some (c, p.1, p.2) else b) none
    best.bind fun b => lins.head?.map fun l => [(l, b.1, b.2.1, b.2.2)]
  else
    (groupBases k n).findSome? fun b =>
      lins.foldr (fun l acc =>
        match acc, can (b + l % n) with
        | some r, some p => some ((l, b + l % n, p.1, p.2) :: r)
        | _, _ => none) (some [])

/-- The stack chosen for the next group: the highest score, then the lower level, then the lower index (R355, R402). -/
def State.chooseStack (s : State) (g : Grid) : Option (Nat × List (Nat × Nat × Nat × Nat)) :=
  let cands := (List.range 12).filterMap fun k =>
    if 4 ≤ s.level k then none else (s.spotOn g k).map fun p => (k, p)
  let hb := s.hintBytes g g.nextGroup
  let score (k : Nat) : Nat := hb.getD k 0 * placeWeight (s.level k)
  cands.foldl (fun (b : Option (Nat × List (Nat × Nat × Nat × Nat))) c =>
    match b with
    | none => some c
    | some d =>
      if score d.1 < score c.1 ∨ (score c.1 = score d.1 ∧ s.level c.1 < s.level d.1) then some c else b) none

/-- Place the next group of a grid, if a stack can take it. -/
def State.placeNext (s : State) (g : Grid) : Option State :=
  (s.chooseStack g).map fun (_, ms) =>
    let n := rCluster g.rcd
    let s := ms.foldl (fun s m => s.placeWg m.2.1 m.2.2.1 m.2.2.2 g.did (m.1 % n) m.1 g) s
    let g := { g with next := g.next + ms.length, placed := g.placed + ms.length, skips := 0 }
    s.setGrid g

/-- Place a cooperative grid whole: every group or none (R407). -/
def State.placeAll (s : State) (gid : Nat) : Nat → Option State
  | 0 => none
  | fuel + 1 =>
    match FMap.get? s.grids gid with
    | none => none
    | some g =>
      if rTotal g.rcd ≤ g.next then some s
      else
        match s.placeNext g with
        | some s => State.placeAll s gid fuel
        | none => none

/-- A time-sliced function that owns a domain on a partition and is not running: its grids are passed over (R430). -/
def State.offTurnOf (s : State) (did part : Nat) : Bool :=
  (List.range 512).any fun f =>
    let v := (s.sysReg 0x400 f).toNat
    v.testBit 63 && v.testBit 24 && fld v 0 10 == did && fld v 16 6 == part && (s.part part).running != some f
def State.offTurn (s : State) (g : Grid) : Bool := s.offTurnOf g.did g.part

/-- The arbiter's order of a partition's ready grids with work to place (R401). -/
def State.arbiterOrder (s : State) (p : Nat) : List Grid :=
  let key (g : Grid) : List Nat := [3 - rPrio g.rcd, g.readyAt, g.id]
  sortBy (fun a b => !(rankLt (key b) (key a))) ((s.grids.map (·.2)).filter fun g =>
    g.part == p && g.dep0 && g.dep1 && decide (g.next < rTotal g.rcd) && !s.offTurn g)

/-- One round: the first grid in order that can be placed; those passed over count a skip. A grid reserves after 256 skips, a
cooperative one at once while it is the first, and holds up those after it until its next placement (R401, R407). -/
def State.placeRound (s : State) (p : Nat) (first : Bool) : List Grid → State
  | [] => s
  | g :: r =>
    let free (s : State) : State := s.modPart p fun q => { q with reserve := q.reserve.filter (· != g.id) }
    if g.next = 0 ∧ !(s.fitsEver g.did p g.rcd) then (free s).endGrid g
    else
      let coop := coopFlag g.rcd
      let out : Option State := if coop then s.placeAll g.id (rTotal g.rcd + 1) else s.placeNext g
      match out with
      | some s => { (free s).modPart p (fun q => { q with lastPlace := s.clock }) with lastPlaceAny := s.clock }
      | none =>
        let g := { g with skips := g.skips + 1 }
        let s := s.setGrid g
        let holds := decide (p ≠ 64) && (decide (256 ≤ g.skips) || (coop && first))
        let s := free s
        if holds then s.modPart p fun q => { q with reserve := g.id :: q.reserve } else State.placeRound s p false r

/-- Every child of a list has retired. -/
def State.kidsGone (s : State) (ids : List Nat) : Bool := !(ids.any fun i => (FMap.get? s.grids i).isSome)

/-- A workgroup whose children have retired waits to return to a partition: it comes before new placements (R401). -/
def State.returning (s : State) (p : Nat) : Bool :=
  s.parkedWgs.any fun w => w.2.part == p && s.kidsGone w.2.kids && !s.offTurnOf w.2.did p

/-- The home distributor's turn for a partition (R401, R402). -/
def execWorkgroupPlacement (part : Nat) (s : State) : Host.Outcome State Fault Refusal :=
  let again (s : State) : State :=
    if (s.arbiterOrder part).isEmpty then s else s.schedule (s.clock + 4) (.workgroupPlacement part)
  if s.lastPlaceAny = s.clock ∧ s.clock ≠ 0 then .next (s.schedule (s.clock + 1) (.workgroupPlacement part))
  else if s.clock < (s.part part).lastPlace + 4 ∧ (s.part part).lastPlace ≠ 0 then
    .next (s.schedule ((s.part part).lastPlace + 4) (.workgroupPlacement part))
  else if s.returning part then .next (s.schedule (s.clock + 1) (.workgroupPlacement part))
  else .next (again (s.placeRound part true (s.arbiterOrder part)))

/-! Exit and retirement (R144, R180, R294, R400). -/

/-- A quadrant forgets what is stamped with a domain (R294). -/
def Quad.forget (q : Quad) (did : Nat) : Quad :=
  let mine := (q.stamps.filter fun b => b.2 == did).map (·.1)
  { q with
    latch := if q.latch.did = did then {} else q.latch
    issued := { q.issued with
      valid := q.issued.valid && q.issued.did != did, stamps := q.issued.stamps.filter fun b => b.2 != did }
    stamps := q.stamps.filter fun b => b.2 != did
    banks := q.banks.filter fun e => !mine.contains (e.1 / 32768)
    lost := q.lost.filter fun b => !mine.contains b }

/-- A fusion group that a cluster group formed dissolves (R290). -/
def Quad.dissolve (q : Quad) (group : Nat × Nat) : Quad :=
  if q.group = group then
    { q with mode := 0, leader := 0, group := (0, 0), issued := { q.issued with mode := 0, leader := 0 } }
  else q

/-- A workgroup leaves its core: its resources return; a slot's last one clears the quadrant (R144, R294). -/
def State.leaveWg (s : State) (c key : Nat) : State :=
  let g := s.wg c key
  let s := s.modCore c fun k => { k with wgs := FMap.drop k.wgs key, tickets := k.tickets.filter fun t => t.wg != key }
  let s := if (s.core c).wgs.any fun o => o.2.slot == g.slot then s
    else s.modCore c fun k => { k with quad := k.quad.forget g.did }
  if g.grid = 0 then s
  else (List.range 4).foldl (fun s i => s.modCore (c / 4 * 4 + i) fun k => { k with quad := k.quad.dissolve g.group }) s

/-- A workgroup has exited: it and what it withdrew count, and grids may retire (R180, R400). -/
def State.exitWg (s : State) (c key : Nat) : State :=
  let g := s.wg c key
  let s := s.leaveWg c key
  let one (s : State) (id : Nat) : State :=
    match FMap.get? s.grids id with
    | none => s
    | some gr => (s.setGrid { gr with exited := gr.exited + 1, ended := gr.ended || (id == g.grid && g.ended) }).schedule
        s.clock (.gridRetire id)
  let s := (g.grid :: g.withdrawn).foldl one s
  s.grids.foldl (fun s p => if p.2.next < rTotal p.2.rcd then s.pokePart p.2.part else s) s

/-- A warp with no lane left may release its resources: stores, atomics and engine operations are done (R144). -/
def State.warpDone (s : State) (c : Nat) (k : Warp) : Bool :=
  k.frags.isEmpty && !k.parked && k.pend.isEmpty
    && !(s.storesOut c k.uid (2 ^ 32 - 1) 255 .sy)
    && !(s.loads.any fun l => l.2.uid == k.uid && l.2.kind != 7)
    && !((s.core c).ops.any fun o => o.uid == k.uid) && !((s.wg c k.wg).held.any fun o => o.uid == k.uid)

/-- A warp exits; with the last of its workgroup, the workgroup. -/
def State.exitWarp (s : State) (c w : Nat) : State :=
  let key := (s.warp c w).wg
  let s := s.modCore c fun k => { k with warps := FMap.drop k.warps w }
  if (s.core c).warps.any fun p => p.2.wg == key then s else s.exitWg c key

/-- The warps that exit in this cycle. -/
def State.reap (s : State) : State :=
  (s.cores.flatMap fun c => (c.2.warps.filter fun p => s.warpDone c.1 p.2).map fun p => (c.1, p.1)).foldl
    (fun s p => s.exitWarp p.1 p.2) s

/-- Fragments parked in CWAIT whose children have all retired go on (R179). -/
def State.cwaitStatus (s : State) (ids : List Nat) : Option Nat :=
  if !(s.kidsGone ids) then none
  else some (b2n (ids.any fun i => FMap.getD s.retired i false))

/-- CWAIT completes in a fragment: its d, its acquire at PK (R179). -/
def State.cwaitGo (s : State) (c w g : Nat) (d : Opd) (st : Nat) : State :=
  let s := ((s.warp c w).destRegs d 1).foldl (fun (s : State) r =>
    s.landReg c w (s.waiterOf c w g) r (BitVec.allOnes 32) [] (BitVec.ofNat 64 st)) s
  (s.acquire c (s.warp c w).dslot .pk).resume c w g

def State.wakeCwait (s : State) : State :=
  let waiting := s.cores.flatMap fun c => c.2.warps.flatMap fun w => w.2.frags.filterMap fun g =>
    match g.2.st with
    | .parked (.cwait ids d) => (s.cwaitStatus ids).map fun st => (c.1, w.1, g.1, d, st)
    | _ => none
  let s := waiting.foldl (fun s x => s.cwaitGo x.1 x.2.1 x.2.2.1 x.2.2.2.1 x.2.2.2.2) s
  s.parkedWgs.foldl (fun s p =>
    if (s.cwaitStatus p.2.kids).isSome then s.schedule s.clock (.cwaitWorkgroupRestore p.1) else s) s

/-- Waiting kicks look again for an entry (R399, R461). -/
def State.pokeKicks (s : State) : State :=
  s.funcs.foldl (fun s f => match f.2.slots with
    | [] => s
    | sl :: _ => s.schedule (s.clock + 1) (.kickTaken f.1 sl.1)) s

/-- The dependence words are looked at again after a done word has been signalled (R400). -/
def State.pokeDeps (s : State) : State :=
  s.grids.foldl (fun s p =>
    if p.2.dep0 && p.2.dep1 then s else s.schedule (s.clock + 1) (.dependenceRead p.1)) s

/-- The done word's add of 1 sets out, or is skipped and counted (R400). -/
def State.signalDone (s : State) (g : Grid) : WordSent × State :=
  let a := rDone g.rcd
  if a = 0 then (.skipped, s)
  else
    match s.domCore g.did g.part with
    | none => (.skipped, s.count 0x707 0 1)
    | some (c, k) =>
      match s.sendWord c (s.dom c k) a (toBytes 8 1) true with
      | (.skipped, s) => (.skipped, s.count 0x707 0 1)
      | r => r

/-- A grid is retired: RETIRED and MSI-X, its entry freed, who waits for it goes on (R179, R400, R446). -/
def State.retire (s : State) (g : Grid) : State :=
  let s := match g.fn with
    | some f => s.modFunc f fun u => { u with retired := u.retired + 1, msix := u.msix + 1 }
    | none => s
  let s : State := { s with grids := FMap.drop s.grids g.id, retired := FMap.put s.retired g.id g.ended }
  let s := s.modPart g.part fun q => { q with reserve := q.reserve.filter (· != g.id) }
  let s := s.wakeCwait
  let s := match g.parent with
    | some p => s.schedule s.clock (.gridRetire p.1)
    | none => s
  (s.pokePart g.part).pokeKicks

/-- A grid whose work is over retires: the done word is written, then RETIRED and MSI-X, and its entry is freed (R400, R446). -/
def execGridRetire (grid : Nat) (s : State) : Host.Outcome State Fault Refusal :=
  match FMap.get? s.grids grid with
  | none => .next s
  | some g =>
    let again (s : State) : State := s.scheduleOnce (s.clock + 1) (.gridRetire grid)
    if g.exited < rTotal g.rcd ∨ g.nmOut ≠ 0 ∨ s.grids.any (fun h => (h.2.parent.map (·.1)) == some grid) then .next s
    else
      match g.done with
      | some id => if s.underWay id then .next (again s) else .next (s.pokeDeps.retire g)
      | none =>
        match s.signalDone g with
        | (.walk, s) => .next (again s)
        | (.sent id, s) => .next (again (s.setGrid { g with done := some id }))
        | (.skipped, s) => .next (s.retire g)

/-! LAUNCH (R178, R390). -/

/-- The stores that a record's read comes after: the lanes' own, and what their quarter has buffered of the record (R178, R246,
R390). -/
def State.recordAfter (s : State) (x : Ctx) (p : Option (Nat × Tlb)) : List Nat :=
  let near := match p with
    | none => []
    | some q => s.nearStores x.c (quarterOf x.w) (lineOf q.1) 128
  s.storeIds x.c x.k.uid x.fr.exec.toNat 255 .pk ++ near

/-- LAUNCH's S[a] checked; the record is read once the release completes. -/
def State.recordOp (s : State) (x : Ctx) (kind : Nat) (d : Opd) (va : U64) (p : Option (Nat × Tlb)) (extra : Nat)
    (sc : Scope) (cols : Nat) : State :=
  let id := s.nextId
  let accs : List LaneAcc := match p with
    | none => []
    | some q => (List.range 8).map fun i =>
        { lane := i, pa := q.1 + 16 * i, va, kind := 0, data := [], new := [], pass := 0 }
  let regs := x.k.destRegs d 1
  let op : LoadOp :=
    { id, core := x.c, slot := x.w, uid := x.k.uid, frag := x.g, kind, pc := x.pc, regs, mask := BitVec.ofNat 32 cols,
      cover := x.fr.exec, size := 16, accs, left := 1, got := [],
      nrm := if p.isNone then BitVec.ofNat 64 (2 ^ 32) else 0, acq := sc, lands := 0, dslot := x.k.dslot, wg := x.k.wg
      after := s.recordAfter x p, shrd := (p.map (·.2.shrd)).getD false, mt := (p.map (·.2.mt)).getD 0
      from_ := s.clock + extra }
  let s : State := { s.bumpId with loads := FMap.put s.loads id op }
  let s := s.modWarp x.c x.w fun k => k.lock id regs
  if kind = 5 then s.scheduleLate s.clock (.launchRecordRead id) else s.schedule s.clock (.nmRecordRead id)

/-- A record's line request leaves (R178), to a peer as a read of 128 bytes (R448); a non-resident record's zeros come back by
themselves. -/
def State.sendRecord (s : State) (op : LoadOp) (again : Instr) : State :=
  match op.accs with
  | [] =>
    let s : State := { s with loads := FMap.put s.loads op.id { op with left := 0 } }
    s.schedule (s.clock + 32) again
  | a :: _ =>
    let d := s.dom op.core op.dslot
    let host := s.region a.pa == 2
    let s : State := { s with loads := FMap.put s.loads op.id { op with lands := 1 } }
    let way := if op.kind = 5 then s.wayOf a.pa else none
    let fl : Fly :=
      { id := s.nextId, kind := if way.isSome then 10 else if host then 6 else 0, op := op.id, core := op.core, slot := op.slot, uid := op.uid,
        frag := op.frag, by_ := [(op.uid, op.cover.toNat, 0)], pa := a.pa, accs := if way.isSome then [a] else [], bytes := [], data := [],
        size := 128, code := 0, arg := 0, seq := 0, left_ := max s.clock op.from_, arrives := 0, back := 0, performed := false,
        answered := false, did := d.did, dslot := op.dslot, part := s.dsPart op.core op.dslot, g2 := d.g2, shrd := op.shrd,
        mt := op.mt, own := !host && homeOf a.pa == stackOf op.core, va := a.va, phase := 0, ctx := false, nofill := false,
        slack := 15, entered := s.clock }
    match way with
    | some w => s.bumpId.launchPeer fl w
    | none => if host then s.bumpId.launchHost fl else s.bumpId.launchRead fl

/-- A record operation's word reaches its destination. -/
def State.landWord (s : State) (op : LoadOp) (v : U64) : State :=
  let s : State := { s with loads := FMap.drop s.loads op.id }
  if (s.warp op.core op.slot).uid ≠ op.uid then s
  else
    let s := op.regs.foldl (fun (s : State) r => s.landReg op.core op.slot op.id r (BitVec.allOnes 32) [] v) s
    (s.modWarp op.core op.slot fun k => Warp.unlock { k with nrm := k.nrm ||| op.nrm } op.id).nrmToFrame op.core op.slot op.id
      op.nrm

/-- A store that a record's read comes after has not been performed (R178, R390), or its quarter has buffered bytes of the record
meanwhile (R246). -/
def State.recordWaits (s : State) (op : LoadOp) : Bool :=
  (op.after.any fun i =>
    ((s.core op.core).bufs.any fun q => q.2.any fun e => e.id == i)
      || (match FMap.get? s.fly i with
          | some f => !f.performed
          | none => false))
    || (match op.accs with
        | a :: _ => !(s.nearStores op.core (quarterOf op.slot) (lineOf a.pa) 128).isEmpty
        | [] => false)

/-- Something that a record's read comes after is still to be performed in this cycle. -/
def State.performsNow (s : State) (op : LoadOp) : Bool :=
  op.after.any fun i => s.agenda.contains (2 * s.clock + 1, .homeArrival i) || s.agenda.contains (2 * s.clock + 1, .barrierWordOperation i)

/-- The address check of LAUNCH, NMEXP and NMRED, then the record's operation (R178). -/
def State.recordIssue (s : State) (x : Ctx) (kind : Nat) (d a : Opd) (sc : Scope) : Res :=
  let va := x.uni a
  if va.toNat % 128 ≠ 0 then .trap s { cause := cMisalign, pc := x.pc, addr := va }
  else
    match s.translate x.c (s.dom x.c x.k.dslot) x.fr.walked va.toNat 0 with
    | .miss => .gone (s.waitWalks x 0 [va.toNat])
    | .fault cause ipa => .trap s { cause, pc := x.pc, addr := va, pa := BitVec.ofNat 64 ipa }
    | .zeros _ => .next (s.recordOp x kind d va none 0 sc 255)
    | .ok pa t extra =>
      if s.inReduce pa then .trap s { cause := cTranslation, pc := x.pc, addr := va }
      else if s.isLost pa then .trap s { cause := cMachineCheck, pc := x.pc, addr := va, pa := BitVec.ofNat 64 pa }
      else .next ((s.refillCore x.c (s.dom x.c x.k.dslot) va.toNat 0).recordOp x kind d va (some (pa, t)) extra sc 255)

def execLaunch (h : Head) (f : FmtE) (s : State) : Host.Outcome State Fault Refusal :=
  runIsa (.launch h f) h false s fun x s => s.recordIssue x 5 f.d f.a .pk

/-- The status of a launch, and the pool its entry would come from (R178). -/
def State.launchStatus (s : State) (op : LoadOp) (rcd : Nat) : Nat × Nat :=
  let did := s.dsDid op.core op.dslot
  let part := if op.dslot = 0 then 64 else s.dsPart op.core op.dslot
  let depth := ((FMap.get? s.grids (s.wg op.core op.wg).grid).map (·.depth)).getD 0
  if op.nrm ≠ 0 ∨ !op.failed.isEmpty ∨ recordBad rcd then (4, 0)
  else if 10 ≤ depth then (2, 0)
  else if coopFlag rcd ∧ !(s.fitsWhole did part rcd) then (3, 0)
  else
    match s.queueEntry did (depth + 1) with
    | none => (1, 0)
    | some p => (0, p)

/-- A launch's record: read when the release completes; then its checks and the child's queue entry (R178, R399). -/
def execLaunchRecordRead (id : Nat) (s : State) : Host.Outcome State Fault Refusal :=
  match FMap.get? s.loads id with
  | none => .next s
  | some op =>
    if op.left = 0 then
      let rcd := ofBytes (op.got.read 0 128)
      let st := s.launchStatus op rcd
      if st.1 = 0 then
        let part := if op.dslot = 0 then 64 else s.dsPart op.core op.dslot
        let gr := FMap.get? s.grids (s.wg op.core op.wg).grid
        let child := s.nextLaunch
        let s := s.enqueue rcd (s.dsDid op.core op.dslot) part none (gr.map fun g => (g.id, op.core, op.wg))
          (((gr.map (·.depth)).getD 0) + 1) st.2
        let s := if (FMap.get? (s.core op.core).wgs op.wg).isSome then
            s.modWg op.core op.wg fun g => { g with kids := child :: g.kids }
          else s
        .next (s.landWord op (BitVec.ofNat 64 (child % 2 ^ 32 * 2 ^ 32)))
      else .next (s.landWord op (BitVec.ofNat 64 st.1))
    else if op.lands ≠ 0 then .next s
    else if s.recordWaits op then
      .next (s.scheduleLate (if s.performsNow op then s.clock else s.clock + 1) (.launchRecordRead id))
    else .next (s.sendRecord op (.launchRecordRead id))

/-! CWAIT (R179). -/

/-- A fragment is parked in CWAIT. -/
def Frag.inCwait (f : Frag) : Bool := match f.st with
  | .parked (.cwait _ _) => true
  | _ => false

/-- A warp counts as parked in CWAIT: CWAIT parks the fragment that issues it, and each of the warp's fragments is parked so, or
waits at a join or for a call to return for one that is (R179, R408, DEDUCED, log 50). -/
def Warp.inCwait (k : Warp) : Bool :=
  (k.frags.any fun f => f.2.inCwait) && k.frags.all fun f => f.2.inCwait || f.2.heldCall.isSome || (match f.2.st with
    | .arrived _ => true
    | _ => false)

/-- The workgroups of a cluster group: core and key. -/
def State.groupOf (s : State) (c key : Nat) : List (Nat × Nat) :=
  let g := s.wg c key
  s.cores.flatMap fun k => (k.2.wgs.filter fun o => o.2.group == g.group && (g.grid != 0 || (k.1 == c && o.1 == key))).map
    fun o => (k.1, o.1)

/-- Every warp of the workgroup's group waits in CWAIT. -/
def State.allCwait (s : State) (c key : Nat) : Bool :=
  (s.groupOf c key).all fun m => (s.core m.1).warps.all fun w => w.2.wg != m.2 || w.2.inCwait

def execCwait (h : Head) (f : FmtE) (s : State) : Host.Outcome State Fault Refusal :=
  runIsa (.cwait h f) h false s fun x s =>
    let kids := (s.wg x.c x.k.wg).kids
    let one := (x.uni f.a).toNat % 2 ^ 32
    let ids := if f.a.isZero then kids else [one]
    let done (st : Nat) : Res :=
      .next ((s.acquire x.c x.k.dslot .pk).sendLocked x.c x.w (match f.d with | .s n => .s n.toNat | _ => .p 0)
        (BitVec.allOnes 32) [] (BitVec.ofNat 64 st) 1)
    if !f.a.isZero ∧ !kids.contains one then done 2
    else
      match s.cwaitStatus ids with
      | some st => done st
      | none =>
        .gone ((s.parkFrag x (.cwait ids f.d)).scheduleOnce (s.clock + 1) (.cwaitWorkgroupPark x.c x.k.wg))

/-! FETCHWG (R180, R389). -/

/-- The mailbox bytes of a withdrawal: the id's coordinates and the flag. -/
def mailbox (rcd lin flag : Nat) : List Byte :=
  if flag = 1 then
    let gx := fld rcd 64 32
    let gy := fld rcd 96 32
    toBytes 4 (lin % max 1 gx) ++ toBytes 4 (lin / max 1 gx % max 1 gy) ++ toBytes 4 (lin / max 1 gx / max 1 gy)
      ++ toBytes 4 1
  else toBytes 12 0 ++ toBytes 4 flag

/-- Withdraw the lowest unplaced workgroup of a grid for a workgroup (R180). Inside a gate too the grid's domain is compared
with the workgroup's own (DESIGN CHOICE, log 50). -/
def State.withdraw (s : State) (c key gid : Nat) : List Byte × State :=
  match FMap.get? s.grids gid with
  | none => (mailbox 0 0 3, s)
  | some g =>
    if g.did ≠ (s.wg c key).did then (mailbox 0 0 3, s)
    else if rTotal g.rcd ≤ g.next then (mailbox 0 0 2, s)
    else
      (mailbox g.rcd g.next 1,
        (s.setGrid { g with next := g.next + 1, withdrawn := g.next :: g.withdrawn }).modWg c key fun w =>
          { w with withdrawn := gid :: w.withdrawn })

def execFetchwg (h : Head) (f : FmtE) (s : State) : Host.Outcome State Fault Refusal :=
  runIsa (.fetchwg h f) h false s fun x s =>
    let off := x.uni f.b
    let land (s : State) (v : Nat) : State :=
      s.sendLocked x.c x.w (match f.d with | .s n => .s n.toNat | _ => .p 0) (BitVec.allOnes 32) [] (BitVec.ofNat 64 v) 1
    if off.toNat % 16 ≠ 0 then .trap s { cause := cMisalign, pc := x.pc, addr := off }
    else if (s.wg x.c x.k.wg).scratch < off.toNat + 16 then .trap s { cause := cDomain, pc := x.pc, addr := off }
    else if 16 ≤ (s.core x.c).fetchOut then .next (land s 1)
    else
      let r := s.withdraw x.c x.k.wg ((x.uni f.a).toNat % 2 ^ 32)
      let wait := r.2.freeBelow 505
      let s := wait.2
      let id := s.nextId
      let op : LoadOp :=
        { id, core := x.c, slot := x.w, uid := x.k.uid, frag := x.g, kind := 7, pc := x.pc, regs := [], mask := 0,
          cover := 0, size := 16, accs := [], left := 1,
          got := (Memory.write [] 0 r.1), nrm := off, acq := .none, lands := 0, dslot := x.k.dslot, wg := x.k.wg }
      let s : State := { s.bumpId with loads := FMap.put s.loads id op }
      let s := s.modCore x.c fun k => { k with fetchOut := k.fetchOut + 1 }
      .next (land (s.schedule (s.clock + 1 + 8 + wait.1) (.fetchwgMailboxWrite id)) 0)

/-- The mailbox is written: the coordinates, then the flag; tiles that hold a byte of it go up by one (R180, R312). -/
def execFetchwgMailboxWrite (id : Nat) (s : State) : Host.Outcome State Fault Refusal :=
  match FMap.get? s.loads id with
  | none => .next s
  | some op =>
    let s : State := { s with loads := FMap.drop s.loads id }
    let s := s.modCore op.core fun k => { k with fetchOut := k.fetchOut - 1 }
    if (FMap.get? (s.core op.core).wgs op.wg).isNone then .next s
    else .next (s.spEvent op.core op.wg [(op.nrm.toNat, op.got.read 0 16)])

end Sys2Proof.Machine
end

