-- ==== Sys2Proof/Machine/Trowel.lean ====
section
/-! DEFINITION. Trowel commands: records, element programs, bag sums, completion records (R237, R299 to R304, R390,
R393 to R395). -/

namespace Sys2Proof.Machine

/-! Records (R300, R303). -/

/-- Bytes of an element type of a command. -/
def nmBytes (c : Nat) : Nat := if c = 9 ∨ c = 10 then 2 else 4
def nmFloat (c : Nat) : Bool := c == 9 || c == 10 || c == 11

/-- Operation j of a program. -/
def nmOp (r j : Nat) : Nat := fld r (384 + 5 * j) 5
def nmOps (r : Nat) : List Nat := (List.range (fld r 16 5)).map (nmOp r)

/-- Entries popped and pushed by an operation, or none for a code outside the table (R301). -/
def opArity (op : Nat) : Option (Nat × Nat) :=
  if 1 ≤ op ∧ op ≤ 6 then some (0, 1)
  else if op = 0x0A ∨ op = 0x12 then some (3, 1)
  else if op = 0x0D ∨ op = 0x0E ∨ (0x14 ≤ op ∧ op ≤ 0x16) then some (1, 1)
  else if op = 0x0F then some (1, 2)
  else if op = 0x10 then some (2, 2)
  else if op = 0x11 then some (1, 0)
  else if (7 ≤ op ∧ op ≤ 0x0C) ∨ op = 0x13 ∨ (0x17 ≤ op ∧ op ≤ 0x19) then some (2, 1)
  else none

/-- The depth a program ends with, or none where it is not allowed. -/
def progDepth (flt : Bool) (in0 in1 : Nat) : List Nat → Nat → Option Nat
  | [], d => some d
  | op :: r, d =>
    match opArity op with
    | none => none
    | some (p, q) =>
      if d < p ∨ 4 < d - p + q then none
      else if (op = 1 ∧ in0 = 0) ∨ (op = 2 ∧ in1 = 0) then none
      else if (0x14 ≤ op ∧ op ≤ 0x16 ∧ !flt) ∨ (0x17 ≤ op ∧ op ≤ 0x19 ∧ flt) then none
      else progDepth flt in0 in1 r (d - p + q)

/-- NMEXP's checks (R300, R301). -/
def nmexpBad (r : Nat) : Bool :=
  let ty := fld r 8 5
  let size := nmBytes ty
  let n := fld r 16 5
  let in0 := fld r 128 57
  let in1 := fld r 192 57
  fld r 0 8 != 1 || !(ty == 3 || ty == 7 || nmFloat ty)
    || fld r 13 3 != 0 || fld r 21 11 != 0 || fld r 121 7 != 0 || fld r 185 7 != 0 || fld r 249 7 != 0
    || fld r 313 7 != 0 || fld r 504 8 != 0
    || decide (n < 1 ∨ 24 < n) || fld r 32 32 == 0
    || fld r 64 57 % size != 0 || in0 % size != 0 || in1 % size != 0
    || fld r (384 + 5 * n) (120 - 5 * n) != 0
    || progDepth (nmFloat ty) in0 in1 (nmOps r) 0 != some 1

/-- NMRED's checks (R303). -/
def nmredBad (r : Nat) : Bool :=
  let size := nmBytes (fld r 8 5)
  let len := fld r 16 16
  fld r 0 8 != 2 || !nmFloat (fld r 8 5) || r.testBit 15
    || fld r 121 7 != 0 || fld r 249 7 != 0 || fld r 313 7 != 0 || fld r 377 7 != 0 || fld r 416 32 != 0
    || fld r 505 7 != 0
    || len == 0 || fld r 32 32 == 0
    || fld r 64 57 % size != 0 || fld r 128 32 % size != 0 || decide (fld r 128 32 < len * size)
    || fld r 192 57 % 4 != 0 || fld r 256 57 % 4 != 0 || fld r 320 57 % 4 != 0
    || fld r 384 32 % 4 != 0 || decide (fld r 384 32 < 4 * len)

/-- The completion record's address. -/
def nmDone (kind r : Nat) : Nat := canonOr (fld r (if kind = 1 then 256 else 448) 57 : Int)

/-- Output elements of a command. -/
def nmTotal (kind r : Nat) : Nat := if kind = 1 then fld r 32 32 else fld r 32 32 * fld r 16 16

/-- Output element k: its address. -/
def nmOut (kind r k : Nat) : Int :=
  if kind = 1 then (fld r 64 57 + k * nmBytes (fld r 8 5) : Nat)
  else (fld r 320 57 + k / fld r 16 16 * fld r 384 32 + 4 * (k % fld r 16 16) : Nat)

/-- The bytes of a command's outputs: from, to. -/
def nmSpan (kind r : Nat) : Int × Int :=
  (nmOut kind r 0, nmOut kind r (nmTotal kind r - 1) + (if kind = 1 then (nmBytes (fld r 8 5) : Nat) else 4 : Nat))

/-! Issue (R299). -/

/-- A store's completion address: alignment and page (R164, R299). -/
def State.doneCheck (s : State) (x : Ctx) (va align : Nat) (go : Res) : Res :=
  let addr := BitVec.ofNat 64 va
  if va % align ≠ 0 then .trap s { cause := cMisalign, pc := x.pc, addr }
  else
    match s.translate x.c (s.dom x.c x.k.dslot) x.fr.walked va 1 with
    | .miss => .gone (s.waitWalks x 1 [va])
    | .fault cause ipa => .trap s { cause, pc := x.pc, addr, pa := BitVec.ofNat 64 ipa }
    | .zeros _ => .trap s { cause := cNonresStore, pc := x.pc, addr }
    | .ok _ _ _ => go

/-- A command is accepted (R299, R393). -/
def State.nmAccept (s : State) (x : Ctx) (kind r : Nat) : State :=
  let id := s.nextId
  let grid := (s.wg x.c x.k.wg).grid
  let d := s.dom x.c x.k.dslot
  let g : Cmd :=
    { id, core := x.c, dslot := x.k.dslot, did := d.did, part := d.part, root := d.root, grid, kind, rcd := r, next := 0, total := nmTotal kind r, ahead := [],
      partials := [], idxs := [], offs := [], skipped := 0, err := 0, faultva := 0, half := false }
  let s : State := { s.bumpId with cmds := FMap.put s.cmds id g }
  let s := s.modCore x.c fun k => { k with nmOut := k.nmOut + 1 }
  let s := match FMap.get? s.grids grid with
    | some q => s.setGrid { q with nmOut := q.nmOut + 1 }
    | none => s
  let t := s.freeLat 1
  t.2.schedule (s.clock + t.1) (.trowelItem id 0)

/-- NMEXP and NMRED: the record is read at the issue, which follows the release (R237, R390). -/
def State.nmIssue (s : State) (x : Ctx) (kind : Nat) (d a : Opd) : Res :=
  let va := x.uni a
  if va.toNat % 64 ≠ 0 then .trap s { cause := cMisalign, pc := x.pc, addr := va }
  else
    match s.translate x.c (s.dom x.c x.k.dslot) x.fr.walked va.toNat 0 with
    | .miss => .gone (s.waitWalks x 0 [va.toNat])
    | .fault cause ipa => .trap s { cause, pc := x.pc, addr := va, pa := BitVec.ofNat 64 ipa }
    | .zeros _ => .next (s.recordOp x 6 d va none 0 .st 2)
    | .ok pa t extra =>
      if s.inReduce pa then .trap s { cause := cTranslation, pc := x.pc, addr := va }
      else if s.isLost pa then .trap s { cause := cMachineCheck, pc := x.pc, addr := va, pa := BitVec.ofNat 64 pa }
      else
        let q := s.wordsAt pa 64
        let s := q.2
        let r := q.1
        let bad := if kind = 1 then nmexpBad r else nmredBad r
        let st := if 32 ≤ (s.core x.c).nmOut then 1 else if bad then 2 else 0
        s.doneCheck x (nmDone kind r) 16
          (let s := (s.refillCore x.c (s.dom x.c x.k.dslot) va.toNat 0).recordOp x 6 d va (some (lineOf pa, t)) extra .st st
           .next (if st = 0 then s.nmAccept x kind r else s))

def execNmexp (h : Head) (f : FmtE) (s : State) : Host.Outcome State Fault Refusal :=
  runIsa (.nmexp h f) h false s fun x s => s.nmIssue x 1 f.d f.a

def execNmred (h : Head) (f : FmtE) (s : State) : Host.Outcome State Fault Refusal :=
  runIsa (.nmred h f) h false s fun x s => s.nmIssue x 2 f.d f.a

/-- The record's line request leaves; d lands 2 cycles after it returns, a time that its answer set (R299). -/
def execNmRecordRead (id : Nat) (s : State) : Host.Outcome State Fault Refusal :=
  match FMap.get? s.loads id with
  | none => .next s
  | some op =>
    if op.left = 0 then .next (s.landWord op (op.mask.setWidth 64))
    else if op.lands ≠ 0 then .next s
    else .next (s.sendRecord op (.nmRecordRead id))

/-! Places of operands (R302, R304, R395). -/

/-- The domain that issued a command: its tables as they were named then (R395, R421). -/
def State.cmdDom (s : State) (g : Cmd) : Dom := s.keptDom g.dslot g.did g.root g.part

/-- What an item got: a value, a failure with its address, the cycle to try again, or a walk that it needs on a stack. -/
inductive NmGot (α : Type) where
  | ok (v : α)
  | fail (err va : Nat)
  | wait (t : Nat)
  | walk (k va need : Nat)
  deriving DecidableEq, Repr

/-- The place in device DRAM that a translation gives, as a request, or the error code of R304. -/
def State.nmRequest (s : State) (k va need n : Nat) : Tr → NmGot EngReq
  | .miss => .walk k va need
  | .fault cause _ => .fail (if cause = cDomain then 3 else if cause = cMachineCheck then 4 else 1) va
  | .zeros _ => .fail 2 va
  | .ok pa t _ =>
    if s.region pa ≠ 0 then .fail 1 va
    else if s.isLost pa || !(s.routable (16 * k) pa) then .fail 4 va
    else .ok ⟨pa, n, need == 1, t.shrd, t.mt, va⟩

/-- An operand's place by a stack's translations. -/
def State.nmPlace (s : State) (g : Cmd) (k : Nat) (a : Int) (need n : Nat) : NmGot EngReq :=
  match canon57 a with
  | none => .fail 1 (canonOr a)
  | some va => s.nmRequest k va need n (s.translateUnit k (s.cmdDom g) va need)

/-- An operand's place by the tables as they are now: a look that leaves nothing behind. -/
def State.nmLook (s : State) (g : Cmd) (a : Int) (need n : Nat) : Except Nat EngReq :=
  match canon57 a with
  | none => .error 1
  | some va =>
    match s.nmRequest (stackOf g.core) va need n (s.look (stackOf g.core) (s.cmdDom g) va need) with
    | .ok q => .ok q
    | .fail e _ => .error e
    | _ => .error 1

/-- The stack of the unit that an item's owning address names (R242, R393). -/
def State.nmUnit (s : State) (g : Cmd) (a : Int) : Nat :=
  match s.nmLook g a 0 1 with
  | .ok q => homeOf q.pa
  | .error _ => stackOf g.core

/-- Places of several operands: all of them, or a walk that one needs, or the lowest that fails. -/
def State.nmPlaces (s : State) (g : Cmd) (k : Nat) : List (Int × Nat × Nat) → NmGot (List EngReq)
  | [] => .ok []
  | (a, need, n) :: r =>
    match s.nmPlace g k a need n, State.nmPlaces s g k r with
    | .ok q, .ok l => .ok (q :: l)
    | .walk k va need, _ => .walk k va need
    | _, .walk k va need => .walk k va need
    | .fail e va, .fail e' va' => if va' < va then .fail e' va' else .fail e va
    | .fail e va, _ => .fail e va
    | _, .fail e va => .fail e va
    | .wait t, _ => .wait t
    | _, .wait t => .wait t

/-! Element programs (R301). -/

/-- What an element's program reads. -/
structure NmIn where
  flt : Bool
  signed : Bool
  in0 : Nat
  in1 : Nat
  old : Nat
  imm0 : Nat
  imm1 : Nat
  idx : Nat
  deriving DecidableEq, Repr

def fltBin (f : Exact → Exact → Exact) (a b : Nat) : Nat := f32.round .rne 0 (f (f32.decode a) (f32.decode b))

/-- One operation on the stack, its top first. -/
def nmStep (e : NmIn) (op : Nat) (st : List Nat) : List Nat :=
  let w (i : Int) : Nat := wrapN 32 i
  let sv (a : Nat) : Int := if e.signed then sextN 32 a else (a : Int)
  let one : Nat := if e.flt then 0x3F800000 else 1
  match op, st with
  | 1, l => e.in0 :: l
  | 2, l => e.in1 :: l
  | 3, l => e.old :: l
  | 4, l => e.imm0 :: l
  | 5, l => e.imm1 :: l
  | 6, l => (if e.flt then f32.round .rne 0 (Exact.ofInt false (e.idx : Int) 0) else e.idx % 2 ^ 32) :: l
  | 7, b :: a :: l => (if e.flt then fltBin (Exact.add false) a b else (a + b) % 2 ^ 32) :: l
  | 8, b :: a :: l => (if e.flt then fltBin (fun x y => Exact.add false x y.neg) a b else w ((a : Int) - b)) :: l
  | 9, b :: a :: l => (if e.flt then fltBin Exact.mul a b else a * b % 2 ^ 32) :: l
  | 0x0A, c :: b :: a :: l =>
    (if e.flt then f32.round .rne 0 (Exact.add false (Exact.mul (f32.decode a) (f32.decode b)) (f32.decode c))
     else (a * b + c) % 2 ^ 32) :: l
  | 0x0B, b :: a :: l => (if e.flt then f32.minmax false false a b else if sv a ≤ sv b then a else b) :: l
  | 0x0C, b :: a :: l => (if e.flt then f32.minmax true false a b else if sv a ≤ sv b then b else a) :: l
  | 0x0D, a :: l => (if e.flt then f32.negBits a else w (-(a : Int))) :: l
  | 0x0E, a :: l => (if e.flt then f32.absBits a else w (if sv a < 0 then -(sv a) else sv a)) :: l
  | 0x0F, a :: l => a :: a :: l
  | 0x10, b :: a :: l => a :: b :: l
  | 0x11, _ :: l => l
  | 0x12, c :: b :: a :: l => (if (if e.flt then !(f32.decode c).isZero else c != 0) then a else b) :: l
  | 0x13, b :: a :: l =>
    (if (if e.flt then !(f32.decode a).isNan && !(f32.decode b).isNan && Exact.cmp (f32.decode a) (f32.decode b) == .lt
         else decide (sv a < sv b)) then one else 0) :: l
  | 0x14, a :: l => f32.round .rne 0 (exp2Exact (f32.decode a)) :: l
  | 0x15, a :: l => f32.round .rne 0 (Exact.div (.fin false 1 0 false) (f32.decode a)) :: l
  | 0x16, a :: l => f32.round .rne 0 (Exact.rsqrt (f32.decode a)) :: l
  | 0x17, b :: a :: l => (a &&& b) :: l
  | 0x18, b :: a :: l => (a ||| b) :: l
  | 0x19, b :: a :: l => (a ^^^ b) :: l
  | _, l => l

/-- The value a program leaves. -/
def nmRun (e : NmIn) (ops : List Nat) : Nat := ((ops.foldl (fun st op => nmStep e op st) []).head?).getD 0

/-- An element read into the program's 32 bits. -/
def nmWiden (ty p : Nat) : Nat := if nmFloat ty then f32.round .rne 0 ((codeFmt ty).decode p) else p

/-! Items (R302, R303, R393 to R395). -/

def State.setCmd (s : State) (g : Cmd) : State := { s with cmds := FMap.put s.cmds g.id g }

/-- A unit whose stack is at H4, or that has not reported ready, holds its work: until when (R351, R395, R439). -/
def State.unitHeld (s : State) (pa : Nat) : Option Nat :=
  if 4 ≤ s.level (homeOf pa) then some s.nextSample
  else if !((s.stack (homeOf pa)).ready.getLsbD 3) then some (s.clock + 1)
  else none

/-- A command asks for lines from a place: whether all of them are at hand (R302, R425). -/
def State.nmAsk (s : State) (g : Cmd) (owner core : Nat) (l : List EngReq) (cost : Nat) : Bool × State :=
  s.askLines ⟨owner, core, s.cmdDom g⟩ (l.map fun q => (q, cost))

/-- The cycle in which the unit of an address has a turn for the next item that comes to it (R393). -/
def State.unitFree (s : State) (pa : Nat) : Nat :=
  max s.clock (FMap.getD (s.stack (homeOf pa)).units (s.physChan pa) 0)
def State.takeUnit (s : State) (pa t : Nat) : State :=
  s.modStack (homeOf pa) fun k => { k with units := FMap.put k.units (s.physChan pa) (t + 1) }

/-- An item at its unit: it takes the next turn in the order of arrival, its operands are read, and the unit works on it for some
cycles after they have come (R393). -/
def State.nmTake (s : State) (g : Cmd) (own : Nat) (l : List EngReq) (work : Nat) : NmGot Unit × Cmd × State :=
  match g.stage, s.unitHeld own with
  | 0, some t => (.wait t, g, s)
  | 0, none => (.wait (s.unitFree own), { g with stage := 1 }, s.takeUnit own (s.unitFree own))
  | 1, _ =>
    match s.nmAsk g g.id (16 * homeOf own) l 128 with
    | (false, s) => (.wait (s.clock + 1), g, s)
    | (true, s) => (.wait (s.clock + s.tokenBack g.id + work), { g with stage := 2 }, s)
  | _, _ => (.ok (), g, s)

/-- Output elements of a command that it has still to write. -/
def Cmd.open_ (g : Cmd) : List Nat :=
  (List.range g.total).filter (fun k => decide (g.next ≤ k) && !g.ahead.contains k) ++ g.partials.map (·.1)

/-- The physical address of an output element; nothing is kept of looking. -/
def State.nmOutPa (s : State) (g : Cmd) (k : Nat) : Option Nat :=
  match s.nmLook g (nmOut g.kind g.rcd k) 1 4 with
  | .ok q => some q.pa
  | .error _ => none

/-- An earlier command of the core has still to write the output element at an address (R394). -/
def State.cmdBehind (s : State) (g : Cmd) (pa : Nat) : Bool :=
  s.cmds.any fun h => h.2.core == g.core && decide (h.1 < g.id)
    && h.2.open_.any fun k => s.nmOutPa h.2 k == some pa

/-- An earlier unfinished command of the core shares an output element (R394). -/
def State.cmdShares (s : State) (g : Cmd) : Bool :=
  s.cmds.any fun h => h.2.core == g.core && decide (h.1 < g.id) && !h.2.open_.isEmpty
    && (List.range (nmTotal g.kind g.rcd)).any fun k =>
      (s.nmOutPa g k).isSome
        && (List.range (nmTotal h.2.kind h.2.rcd)).any fun j => s.nmOutPa h.2 j == s.nmOutPa g k

/-- The lowest element left, past those done ahead. -/
def firstLeft (ahead : List Nat) : Nat → Nat → Nat
  | 0, n => n
  | fuel + 1, n => if ahead.contains n then firstLeft ahead fuel (n + 1) else n

/-- The next item: of an element that is free among those left, at a free time; or, with none left, the completion record
(DESIGN CHOICE, log 24). -/
def State.nmNext (s : State) (g : Cmd) : State :=
  let g := { g with entry := none, stage := 0 }
  let s := (s.dropLines g.id).setCmd g
  if g.total ≤ g.next then
    (if g.partials.isEmpty then
      let r := s.freeLat 1
      r.2.schedule (s.clock + r.1) (.trowelCompletionWrite g.id)
     else s)
  else
    let r := s.freeBelow (g.total - g.next)
    let pick := if !g.ahead.contains (g.next + r.1) then g.next + r.1 else g.next
    let t := r.2.freeLat 0
    t.2.schedule (s.clock + t.1) (.trowelItem g.id pick)

/-- An element is done. -/
def State.nmGoOn (s : State) (g : Cmd) (item : Nat) : State :=
  let ahead := item :: g.ahead
  let next := firstLeft ahead (ahead.length + 1) g.next
  s.nmNext { g with next, ahead := ahead.filter fun i => decide (next ≤ i) }

/-- The lower of two failures, each an error and its address. -/
def lowerFail : Option (Nat × Nat) → Option (Nat × Nat) → Option (Nat × Nat)
  | some x, some y => some (if y.2 < x.2 then y else x)
  | some x, none => some x
  | none, y => y

/-- The first address of a run of elements that fails, looked at line by line; nothing is read or kept. -/
def State.nmScan (s : State) (g : Cmd) (need size : Nat) (a : Int) : Nat → Nat → Option (Nat × Nat)
  | 0, _ => none
  | fuel + 1, n =>
    if n = 0 then none
    else
      match s.nmLook g a need size with
      | .error e => some (e, canonOr a)
      | .ok _ =>
        let m := min n (max 1 (ceilDiv (128 - (a % 128).toNat) size))
        State.nmScan s g need size (a + ((m * size : Nat) : Int)) fuel (n - m)

/-- The lowest address of an NMEXP's element work that fails, among the elements from k on (R302, R304). -/
def State.nmexpLow (s : State) (g : Cmd) (k : Nat) : Option (Nat × Nat) :=
  let r := g.rcd
  let size := nmBytes (fld r 8 5)
  let n := fld r 32 32 - k
  let run (lo need : Nat) : Option (Nat × Nat) := s.nmScan g need size ((fld r lo 57 + k * size : Nat) : Int) n n
  let pick (op lo need : Nat) : Option (Nat × Nat) := if (nmOps r).contains op then run lo need else none
  lowerFail (lowerFail (run 64 1) (pick 3 64 0)) (lowerFail (pick 1 128 0) (pick 2 192 0))

/-- A list's word where it can be read, or the failure. -/
def State.nmPeek (s : State) (g : Cmd) (m : FMap Nat) (lo k : Nat) : Except (Nat × Nat) Nat :=
  match FMap.get? m k with
  | some v => .ok v
  | none =>
    let a : Int := ((fld g.rcd lo 57 + 4 * k : Nat) : Int)
    match s.nmLook g a 0 4 with
    | .error e => .error (e, canonOr a)
    | .ok q => .ok (s.rdN q.pa 4)

/-- The lowest failing address of the entries e, e + 1, ... of a bag: the index list and the table's rows. -/
def State.nmEntriesLow (s : State) (g : Cmd) (e : Nat) : Nat → Option (Nat × Nat)
  | 0 => none
  | n + 1 =>
    let r := g.rcd
    lowerFail
      (match s.nmPeek g g.idxs 192 e with
      | .error x => some x
      | .ok i =>
        if fld r 160 32 ≤ i then none
        else s.nmScan g 0 (nmBytes (fld r 8 5)) ((fld r 64 57 + i * fld r 128 32 : Nat) : Int) (fld r 16 16) (fld r 16 16))
      (State.nmEntriesLow s g (e + 1) n)

/-- The lowest failing address of the bags b, b + 1, ...: offsets, entries and output rows (R302, R304). -/
def State.nmBagsLow (s : State) (g : Cmd) (b : Nat) : Nat → Option (Nat × Nat)
  | 0 => none
  | n + 1 =>
    let r := g.rcd
    let out := s.nmScan g 1 4 ((fld r 320 57 + b * fld r 384 32 : Nat) : Int) (fld r 16 16) (fld r 16 16)
    let bag :=
      match s.nmPeek g g.offs 256 b, s.nmPeek g g.offs 256 (b + 1) with
      | .ok x, .ok y => s.nmEntriesLow g x (y - x)
      | .error x, .error y => lowerFail (some x) (some y)
      | .error x, .ok _ => some x
      | .ok _, .error y => some y
    lowerFail (lowerFail out bag) (State.nmBagsLow s g (b + 1) n)

/-- An item fails: nothing past it is distributed, what lies before it has left; the record names the lowest address of
the command's element work that fails (R302, R304, R395, DESIGN CHOICE, log 24). -/
def State.nmFail (s : State) (g : Cmd) (item err va : Nat) : State :=
  let bag := g.next / max 1 (fld g.rcd 16 16)
  let low := if g.err ≠ 0 then none
    else if g.kind = 1 then s.nmexpLow g g.next
    else s.nmBagsLow g bag (fld g.rcd 32 32 - bag)
  let x := (lowerFail (some (err, va)) low).getD (err, va)
  let g := if g.err = 0 ∨ x.2 < g.faultva then { g with err := x.1, faultva := x.2 } else g
  s.nmGoOn { g with total := min g.total item } item

/-- The item is tried again at a cycle. -/
def State.nmAgain (s : State) (g : Cmd) (item t : Nat) : State := (s.setCmd g).schedule t (.trowelItem g.id item)

/-- The item waits for a walk. -/
def State.nmWalk (s : State) (g : Cmd) (item k va need : Nat) : State :=
  (s.askUnit k (s.cmdDom g) va need).nmAgain g item (s.clock + 1)

/-- One element of an NMEXP: its operands are read, the unit works on it, and its output is written at the output's home (R302,
R393). -/
def State.nmexpItem (s : State) (g : Cmd) (i : Nat) : State :=
  let r := g.rcd
  let ty := fld r 8 5
  let size := nmBytes ty
  let ops := nmOps r
  let at_ (lo : Nat) : Int := ((fld r lo 57 + i * size : Nat) : Int)
  let use0 := ops.contains 1
  let use1 := ops.contains 2
  let k := s.nmUnit g (at_ 64)
  match s.nmPlaces g k ([(at_ 64, 1, size)] ++ (if use0 then [(at_ 128, 0, size)] else [])
    ++ (if use1 then [(at_ 192, 0, size)] else []) ++ (if ops.contains 3 then [(at_ 64, 0, size)] else [])) with
  | .walk k va need => s.nmWalk g i k va need
  | .fail e va => s.nmFail g i e va
  | .wait t => s.nmAgain g i t
  | .ok [] => s
  | .ok (out :: ins) =>
    let reads := ins.take (b2n use0 + b2n use1)
    match s.nmTake g out.pa reads (ops.length + 8) with
    | (.ok _, g, s) =>
      (match s.nmAsk g g.id (16 * k) [out] 128 with
       | (false, s) => s.nmAgain g i (s.clock + 1)
       | (true, s) =>
         if s.cmdBehind g out.pa then s.nmAgain g i (s.clock + 1)
         else
           let v (q : Option EngReq) : Nat := match q with
             | some q => nmWiden ty (ofBytes (s.tokenData g.id q size))
             | none => 0
           let e : NmIn :=
             { flt := nmFloat ty, signed := ty == 3, in0 := if use0 then v ins[0]? else 0,
               in1 := v (if use0 then ins[1]? else ins[0]?), old := nmWiden ty (s.rdN out.pa size), imm0 := fld r 320 32,
               imm1 := fld r 352 32, idx := i }
           let z := nmRun e ops
           let z := if nmFloat ty then (codeFmt ty).round .rne 0 (f32.decode z) else z
           (s.homePut out.pa (toBytes size z)).nmGoOn g i)
    | (.wait t, g, s) => s.nmAgain g i t
    | (.fail e va, g, s) => s.nmFail g i e va
    | (.walk k va need, g, s) => s.nmWalk g i k va need

/-- A word of a list, read once: the lists are read for the issuing core. -/
def State.nmWord (s : State) (g : Cmd) (m : FMap Nat) (lo k : Nat) : NmGot Nat × FMap Nat × State :=
  match FMap.get? m k with
  | some v => (.ok v, m, s)
  | none =>
    match s.nmPlace g (stackOf g.core) ((fld g.rcd lo 57 + 4 * k : Nat) : Int) 0 4 with
    | .fail e va => (.fail e va, m, s)
    | .wait t => (.wait t, m, s)
    | .walk k va need => (.walk k va need, m, s)
    | .ok q =>
      match s.nmAsk g g.id g.core [q] 128 with
      | (false, s) => (.wait (s.clock + 1), m, s)
      | (true, s) =>
        let v := ofBytes (s.tokenData g.id q 4)
        (.ok v, FMap.put m k v, s)

/-- The two offsets of a bag. -/
def State.nmBag (s : State) (g : Cmd) (bag : Nat) : NmGot (Nat × Nat) × Cmd × State :=
  match s.nmWord g g.offs 256 bag with
  | (.wait t, _, s) => (.wait t, g, s)
  | (.walk k va need, _, s) => (.walk k va need, g, s)
  | (.fail e va, _, s) => (.fail e va, g, s)
  | (.ok a, m, s) =>
    match s.nmWord { g with offs := m } m 256 (bag + 1) with
    | (.wait t, _, s) => (.wait t, { g with offs := m }, s)
    | (.walk k va need, _, s) => (.walk k va need, { g with offs := m }, s)
    | (.fail e va, _, s) => (.fail e va, g, s)
    | (.ok b, m, s) => (.ok (a, b), { g with offs := m }, s)

/-- One term: the index entry, then the table element at its unit; a skipped entry has none. -/
def State.nmTerm (s : State) (g : Cmd) (col e : Nat) : NmGot (Option (Nat × Nat)) × Cmd × State :=
  let fresh := (FMap.get? g.idxs e).isNone
  match s.nmWord g g.idxs 192 e with
  | (.wait t, _, s) => (.wait t, g, s)
  | (.walk k va need, _, s) => (.walk k va need, g, s)
  | (.fail e va, _, s) => (.fail e va, g, s)
  | (.ok idx, m, s) =>
    let skip := decide (fld g.rcd 160 32 ≤ idx)
    let g := { g with idxs := m, skipped := if fresh && skip then g.skipped + 1 else g.skipped }
    if skip then (.ok none, g, s)
    else
      let ty := fld g.rcd 8 5
      let a : Int := ((fld g.rcd 64 57 + idx * fld g.rcd 128 32 + col * nmBytes ty : Nat) : Int)
      match s.nmPlace g (s.nmUnit g a) a 0 (nmBytes ty) with
      | .fail x va => (.fail x va, g, s)
      | .wait t => (.wait t, g, s)
      | .walk k va need => (.walk k va need, g, s)
      | .ok q =>
        match s.nmTake g q.pa [q] 4 with
        | (.wait t, g, s) => (.wait t, g, s)
        | (.fail e va, g, s) => (.fail e va, g, s)
        | (.walk k va need, g, s) => (.walk k va need, g, s)
        | (.ok _, g, s) =>
          (.ok (some (homeOf q.pa * 64 + s.physChan q.pa, nmWiden ty (ofBytes (s.tokenData g.id q (nmBytes ty))))), g, s)

/-- A sum of F32 patterns, each addition rounded (R303). -/
def f32Sum (p : Nat) (l : List Nat) : Nat := l.foldl (fltBin (Exact.add false)) p

/-- The units' partials, in an arrival order that is free (R303, DESIGN CHOICE, log 24). -/
def State.arrivals (s : State) : Nat → List Nat → List Nat × State
  | 0, l => (l, s)
  | fuel + 1, l =>
    if l.length ≤ 1 then (l, s)
    else
      let r := s.freeBelow l.length
      let q := State.arrivals r.2 fuel (l.take r.1 ++ l.drop (r.1 + 1))
      (l.getD r.1 0 :: q.1, q.2)

/-- All terms of output element k are read: what its home will add goes there, in ascending entry order or as each unit's
partial (R303, R393). -/
def State.nmSend (s : State) (g : Cmd) (k : Nat) (l : List (Nat × Option (Nat × Nat))) : State :=
  let terms := (sortBy (fun (a b : Nat × Option (Nat × Nat)) => decide (a.1 ≤ b.1)) l).filterMap (·.2)
  match s.nmLook g (nmOut 2 g.rcd k) 1 4 with
  | .error e => s.nmFail g k e (canonOr (nmOut 2 g.rcd k))
  | .ok q =>
    let units := (terms.map (·.1)).eraseDups
    let sums := units.map fun u => f32Sum 0 ((terms.filter fun t => t.1 == u).map (·.2))
    let v := if g.rcd.testBit 13 then (terms.map (·.2), s) else s.arrivals (units.length + 1) sums
    let far := match terms.getLast? with
      | some t => hopCost (s.ringWay (t.1 / 64) (homeOf q.pa)) + 4
      | none => 0
    let g := { g with partials := FMap.put g.partials k v.1, terms := FMap.drop g.terms k }
    let t := v.2.freeLat (60 + far)
    (t.2.schedule (s.clock + t.1) (.trowelPartialArrival g.id k)).nmGoOn g k

/-- A term of output element k of an NMRED, which one is free; with its last term the element is sent on. -/
def State.nmredItem (s : State) (g : Cmd) (k : Nat) : State :=
  let len := max 1 (fld g.rcd 16 16)
  match s.nmBag g (k / len) with
  | (.wait t, g, s) => s.nmAgain g k t
  | (.walk n va need, g, s) => s.nmWalk g k n va need
  | (.fail e va, g, s) => s.nmFail g k e va
  | (.ok (a, b), g, s) =>
    let have_ := FMap.getD g.terms k []
    let left := ((List.range (b - a)).map (a + ·)).filter fun e => !have_.any fun t => t.1 == e
    let pick := match g.entry with
      | some e => (e, s)
      | none =>
        let r := s.freeBelow left.length
        (left.getD r.1 a, r.2)
    if left.isEmpty then pick.2.nmSend g k have_
    else
      match pick.2.nmTerm { g with entry := some pick.1 } (k % len) pick.1 with
      | (.wait t, g, s) => s.nmAgain g k t
      | (.walk n va need, g, s) => s.nmWalk g k n va need
      | (.fail e va, g, s) => s.nmFail g k e va
      | (.ok v, g, s) =>
        let l := have_ ++ [(pick.1, v)]
        if left.length = 1 then s.nmSend g k l
        else s.nmNext { g with terms := FMap.put g.terms k l }

/-- An earlier command of the core has items left to distribute: the units get the core's commands in the order of their issue
(R394). -/
def State.cmdBefore (s : State) (g : Cmd) : Bool :=
  s.cmds.any fun h => h.2.core == g.core && decide (h.1 < g.id) && decide (h.2.next < h.2.total)

/-- An item of a command is performed (R302, R303, R393). -/
def execTrowelItem (cmd item : Nat) (s : State) : Host.Outcome State Fault Refusal :=
  match FMap.get? s.cmds cmd with
  | none => .next s
  | some g =>
    if g.total ≤ item ∨ item < g.next ∨ g.ahead.contains item then .next s
    else if s.cmdBefore g then .next (s.schedule (s.clock + 1) (.trowelItem cmd item))
    else .next (if g.kind = 1 then s.nmexpItem g item else s.nmredItem g item)

/-- Who asks for the line of a partial's output element. -/
def partialOwner (cmd part : Nat) : Nat := 2 ^ 64 * (part + 1) + cmd

/-- What was sent to an output element is added there, and it is written once, in its turn among the core's commands (R303,
R391, R394). -/
def execTrowelPartialArrival (cmd part : Nat) (s : State) : Host.Outcome State Fault Refusal :=
  match FMap.get? s.cmds cmd with
  | none => .next s
  | some g =>
    match FMap.get? g.partials part with
    | none => .next s
    | some l =>
      let a := nmOut 2 g.rcd part
      let k := s.nmUnit g a
      let owner := partialOwner cmd part
      let again (s : State) : State := s.schedule (s.clock + 1) (.trowelPartialArrival cmd part)
      let ended (s : State) (g : Cmd) : State :=
        let g := { g with partials := FMap.drop g.partials part }
        let s := (s.dropLines owner).setCmd g
        if g.total ≤ g.next ∧ g.partials.isEmpty then
          let r := s.freeLat 1
          r.2.schedule (s.clock + r.1) (.trowelCompletionWrite cmd)
        else s
      match s.nmPlaces g k ((a, 1, 4) :: if g.rcd.testBit 14 then [(a, 0, 4)] else []) with
      | .fail e va => .next (ended s (if g.err = 0 ∨ va < g.faultva then { g with err := e, faultva := va } else g))
      | .walk k va need => .next (again (s.askUnit k (s.cmdDom g) va need))
      | .wait _ | .ok [] => .next (again s)
      | .ok (q :: _) =>
        match s.nmAsk g owner (16 * k) [q] 64 with
        | (false, s) => .next (again s)
        | (true, s) =>
          if s.cmdBehind g q.pa then .next (again s)
          else
            let p0 := if g.rcd.testBit 14 then s.rdN q.pa 4 else 0
            .next (ended (s.homePut q.pa (toBytes 4 (f32Sum p0 l))) g)

/-! Completion (R237, R304, R394). -/

/-- One word of the completion record sets out, or is skipped where its page fails. -/
def State.nmPut (s : State) (g : Cmd) (va : Nat) (b : List Byte) (skip : State) : State :=
  let again (s : State) : State := s.schedule (s.clock + 1) (.trowelCompletionWrite g.id)
  match s.sendWord g.core (s.cmdDom g) va b false with
  | (.walk, s) => again s
  | (.sent id, s) => again (s.setCmd { g with put := some id })
  | (.skipped, _) => skip

/-- The command is over: its core and its grid count one less (R299, R400). -/
def State.nmOver (s : State) (g : Cmd) : State :=
  let s : State := { s with cmds := FMap.drop s.cmds g.id }
  let s := s.modCore g.core fun k => { k with nmOut := k.nmOut - 1 }
  match FMap.get? s.grids g.grid with
  | some q => (s.setGrid { q with nmOut := q.nmOut - 1 }).schedule s.clock (.gridRetire g.grid)
  | none => s

/-- The completion record: bytes 8 to 15, then, once they are written, 0 to 7; then the command is over. -/
def execTrowelCompletionWrite (cmd : Nat) (s : State) : Host.Outcome State Fault Refusal :=
  match FMap.get? s.cmds cmd with
  | none => .next s
  | some g =>
    let again (s : State) : State := s.schedule (s.clock + 1) (.trowelCompletionWrite cmd)
    if g.next < g.total ∨ !g.partials.isEmpty then .next s
    else if s.cmdShares g then .next (again s)
    else if (g.put.map s.underWay).getD false then .next (again s)
    else
      let va := nmDone g.kind g.rcd
      let half : Cmd := { g with half := true, put := none }
      if g.half then
        (if g.put.isSome then .next (s.nmOver g)
         else .next (s.nmPut g va (toBytes 8 (g.skipped % 2 ^ 32 + g.err * 2 ^ 40 + 2 ^ 63)) (s.nmOver g)))
      else if g.put.isSome then .next (again (s.setCmd half))
      else .next (s.nmPut g (va + 8) (toBytes 8 g.faultva) (again (s.setCmd half)))

end Sys2Proof.Machine
end

