-- ==== Sys2Proof/Machine/Gates.lean ====
section
/-! DEFINITION. Gate calls, window spill and fill, ERET, the system handler and its resolutions (R202, R323 to R327, R368 to
R376). -/

namespace Sys2Proof.Machine

/-! Gates (R323 to R326). -/

def State.gateWord (s : State) (gate w : Nat) : Nat := (s.sysReg (0x500 + w) gate).toNat

/-- The place of a warp's gate frame (R418). -/
def State.gateFrame (s : State) (c w n : Nat) : Nat := s.runRegion c w + 132096 + 2688 * n

/-- A gate frame's bytes (R383). The caller's spill counts stand in bytes the layout does not name (DESIGN CHOICE, log 35). -/
def State.gateBytes (s : State) (c w : Nat) (pc n nargs gate : Nat) : List Byte :=
  let k := s.warp c w
  toBytes 8 pc ++ toBytes 1 n ++ toBytes 1 nargs ++ toBytes 2 gate ++ toBytes 4 (s.dsDid c k.dslot)
    ++ toBytes 8 k.spillPtr.toNat ++ toBytes 8 k.nrm.toNat ++ toBytes 8 (b2n k.chk) ++ k.bytesP ++ toBytes 4 0
    ++ toBytes 8 k.spilled ++ toBytes 8 k.spilledFrames ++ List.replicate 40 0 ++ k.bytesS
    ++ (List.range 16).flatMap fun i => (List.range 32).flatMap fun l => toBytes 4 ((FMap.getD k.v i []).get l).toNat

/-- Window slots from one on read 0 (R324, R326). -/
def Warp.clearFrom (k : Warp) (slot : Nat) : Warp := { k with v := k.v.filter fun p => decide (p.1 < 16 + slot) }

/-- The warp stands as one fragment with nothing on its reconvergence stack. -/
def Warp.single (k : Warp) : Bool := k.frags.length == 1 && k.recon.isEmpty && k.reconOut == 0

/-- The fragment goes on at a PC after the 96 cycles of a gate (R324). -/
def State.gateGo (s : State) (x : Ctx) (pc : U64) : Res := .gone (s.advanceAfter x 96 pc)

/-- The effect of a GCALL whose checks pass (R324). -/
def State.enterGate (s : State) (x : Ctx) (gate n slot a : Nat) : Res :=
  let k := s.warp x.c x.w
  let nargs := fld (s.gateWord gate 0) 1 5
  let s := s.acquire x.c k.dslot .pk
  let s := s.wr (s.gateFrame x.c x.w k.gates) (s.gateBytes x.c x.w (x.pc.toNat + 8) n nargs gate)
  let s := s.modWarp x.c x.w fun k =>
    Warp.clearFrom
      { k with
        alloc := a, frames := ⟨x.pc + 8, n, true, gate⟩ :: k.frames, gates := k.gates + 1, b := k.b + n
        v := k.v.filter fun p => decide (16 ≤ p.1)
        s := [], p := [], nrm := 0, chk := false, dslot := slot, spilled := 0, spilledFrames := 0
        spillPtr := BitVec.ofNat 64 (fld (s.gateWord gate 3) 0 57) }
      (k.b + n + nargs)
  s.gateGo x (BitVec.ofNat 64 (fld (s.gateWord gate 1) 0 57))

def execGcall (h : Head) (gate : BitVec 10) (n : BitVec 7) (s : State) : Host.Outcome State Fault Refusal :=
  runIsa (.gcall h gate n) h false s fun x s =>
    let k := s.warp x.c x.w
    let gt := gate.toNat
    let bad (r : Nat) : Res := .trap s { cause := cGate, pc := x.pc, addr := gateAddr gt r }
    if !k.single then bad 1
    else if 4 ≤ k.gates then bad 2
    else
      match if 32 ≤ k.frames.length then none else s.growTo x.c x.w (k.b + n.toNat + 15) with
      | none => .trap s { cause := cWinOver, pc := x.pc }
      | some a =>
        if !((s.gateWord gt 0).testBit 0) then bad 3
        else if !((s.gateWord gt 2).testBit (s.dsClass x.c k.dslot)) then bad 4
        else
          match s.slotOf x.c (fld (s.gateWord gt 0) 8 10) with
          | none => bad 5
          | some slot =>
            match s.lostIn (s.gateFrame x.c x.w k.gates) 2688 with
            | some l => .trap s (x.lostTrap l)
            | none => s.enterGate x gt n.toNat slot a

/-- The effect of a GRET: what the gate frame holds is restored (R326). -/
def State.leaveGate (s : State) (x : Ctx) (fr : Frame) (rest : List Frame) : Res :=
  let k := s.warp x.c x.w
  let a := s.gateFrame x.c x.w (k.gates - 1)
  let s := s.acquire x.c k.dslot .pk
  let v := (List.range 16).foldl (fun (m : FMap Lanes) i =>
    FMap.put m i (Lanes.build fun l => BitVec.ofNat 32 (s.rdN (a + 640 + 128 * i + 4 * l) 4)))
    ((k.clearFrom (k.b + s.rdN (a + 9) 1)).v.filter fun p => decide (16 ≤ p.1))
  let s := s.modWarp x.c x.w fun k =>
    { k with
      v := v
      s := (List.range 64).foldl (fun m i => FMap.put m i (BitVec.ofNat 64 (s.rdN (a + 128 + 8 * i) 8))) []
      p := (List.range 7).foldl (fun m i => FMap.put m (i + 1) (BitVec.ofNat 32 (s.rdN (a + 40 + 4 * i) 4))) []
      nrm := BitVec.ofNat 64 (s.rdN (a + 24) 8) &&& nrmMask
      chk := s.rdN (a + 32) 1 % 2 == 1
      dslot := (s.slotOf x.c (s.rdN (a + 12) 4 % 1024)).getD k.aslot
      spillPtr := BitVec.ofNat 64 (s.rdN (a + 16) 8)
      spilled := s.rdN (a + 72) 8
      spilledFrames := s.rdN (a + 80) 8
      gates := k.gates - 1, frames := rest, b := k.b - fr.n }
  s.gateGo x fr.pc

def execGret (h : Head) (s : State) : Host.Outcome State Fault Refusal :=
  runIsa (.gret h) h false s fun x s =>
    let k := s.warp x.c x.w
    let no := ((k.frames.find? (·.gate)).map (·.gateNo)).getD 0
    let bad (r : Nat) : Res := .trap s { cause := cGate, pc := x.pc, addr := gateAddr no r }
    if !k.single then bad 1
    else if k.spilledFrames ≠ 0 then bad 6
    else
      match k.frames with
      | fr :: rest =>
        if !fr.gate then bad 6
        else
          match s.lostIn (s.gateFrame x.c x.w (k.gates - 1)) 2688 with
          | some l => .trap s (x.lostTrap l)
          | none => s.leaveGate x fr rest
      | [] => bad 6

/-! Spill and fill (R202, R371). -/

/-- A frame record's bytes (R382). -/
def Frame.bytes (f : Frame) : List Byte :=
  toBytes 8 f.pc.toNat ++ toBytes 1 f.n ++ toBytes 1 (b2n f.gate) ++ toBytes 6 f.gateNo

/-- The resident frame records of the code in force, newest first; those of its callers through gates. -/
def Warp.ownFrames (k : Warp) : List Frame := k.frames.takeWhile fun f => !f.gate
def Warp.gateFrames (k : Warp) : List Frame := k.frames.dropWhile fun f => !f.gate

def slides (l : List Frame) : Nat := l.foldl (fun a f => a + f.n) 0

/-- The outcome of a spill or fill: done with the slots it moved; the cause and address the handler is entered with; or the
addresses whose walks it waits for, to be tried again after them. -/
inductive Moved where
  | done (s : State) (n : Nat)
  | again (s : State) (cause : Nat) (addr : U64)
  | walks (need : Nat) (vas : List Nat)
  deriving DecidableEq, Repr

/-- The translation of an address of the spill area, for the fragment that asks. -/
def State.areaTr (s : State) (c w g va need : Nat) : Tr :=
  s.translate c (s.dom c (s.warp c w).dslot) (s.frag c w g).walked va need

/-- The addresses among some of the spill area's whose translations are missing. -/
def State.areaMiss (s : State) (c w g need : Nat) (vas : List Nat) : List Nat :=
  vas.filter fun va => s.areaTr c w g va need == .miss

/-- Writes of a spill in order; the first that fails ends them. -/
def spillPuts (c w g : Nat) : List (Nat × List Byte) → State → State × Option CopyFail
  | [], s => (s, none)
  | (va, b) :: r, s =>
    let k := s.warp c w
    let p := ({ s } : Job).placeAt c 0 va 1 b.length (s.areaTr c w g va 1)
    match p.1 with
    | some (some pa) =>
      let o : EOp :=
        { kind := 9, uid := k.uid, slot := w, frag := g, wg := k.wg, did := (s.dom c k.dslot).did, dslot := k.dslot, pc := 0
          issued := 0 }
      spillPuts c w g r (s.engPut c o pa va b)
    | some none => (s, none)
    | none => (s, p.2.fail)

/-- Reads of a fill in order. -/
def fillGets (c w g : Nat) : List (Nat × Nat) → Job → List (List Byte) × Job
  | [], j => ([], j)
  | (va, n) :: r, j =>
    let p := j.placeAt c 0 va 0 n (j.s.areaTr c w g va 0)
    match p.1 with
    | none => ([], p.2)
    | some pl =>
      let q := p.2.fetch pl n
      let t := fillGets c w g r q.2
      (q.1 :: t.1, t.2)

/-- The cause a failed access of a spill or fill is delivered as. -/
def movedCause (c : Nat) : Nat := if c = cMachineCheck then c else cTranslation

/-- Spill up to n frames: never the newest, none from a gate's on. -/
def State.spillFrames (s : State) (c w g n : Nat) : Moved :=
  let k := s.warp c w
  let own := k.ownFrames
  let take := min n (own.length - 1)
  let out := own.drop (own.length - take)
  let m := slides out
  let base := slides k.gateFrames
  let area := k.spillPtr.toNat
  if take = 0 then .done s 0
  else if 16777216 < (k.spilled + m) * 128 + 16 * (k.spilledFrames + take) then
    .again s cWinOver (BitVec.ofNat 64 (2 ^ 64 - 2))
  else
    let slot (j : Nat) : Nat × List Byte :=
      ((area + 128 * (k.spilled + j)) % 2 ^ 64,
        (List.range 32).flatMap fun l => toBytes 4 ((FMap.getD k.v (16 + base + j) []).get l).toNat)
    let recs := (out.reverse.zip (List.range take)).map fun p =>
      ((area + 16777216 - 16 * (k.spilledFrames + p.2 + 1)) % 2 ^ 64, p.1.bytes)
    let puts := (List.range m).map slot ++ recs
    let missing := s.areaMiss c w g 1 (puts.map (·.1))
    let r := spillPuts c w g puts s
    if !missing.isEmpty then .walks 1 missing
    else match r.2 with
    | some f => .again r.1 (movedCause f.cause) (BitVec.ofNat 64 f.addr)
    | none =>
      .done (r.1.modWarp c w fun k =>
        { k with
          v := (k.v.filter fun p => decide (p.1 < 16 + base) || decide (16 + base + m ≤ p.1)).map fun p =>
            if p.1 < 16 + base then p else (p.1 - m, p.2)
          frames := own.take (own.length - take) ++ k.gateFrames
          alloc := k.alloc - m, b := k.b - m, spilled := k.spilled + m, spilledFrames := k.spilledFrames + take }) m

/-- Fill up to n frames. -/
def State.fillFrames (s : State) (c w g n : Nat) : Moved :=
  let k := s.warp c w
  let take := min n (min k.spilledFrames (32 - k.frames.length))
  let area := k.spillPtr.toNat
  let base := slides k.gateFrames
  if take = 0 then .done s 0
  else
    let recs := (List.range take).map fun i => ((area + 16777216 - 16 * (k.spilledFrames - i)) % 2 ^ 64, 16)
    let missing := s.areaMiss c w g 0 (recs.map (·.1))
    let r := fillGets c w g recs { s }
    if !missing.isEmpty then .walks 0 missing
    else match r.2.fail with
    | some f => .again r.2.s (movedCause f.cause) (BitVec.ofNat 64 f.addr)
    | none =>
      let fs := r.1.map fun b => ({ pc := BitVec.ofNat 64 (ofBytes (b.take 8)), n := (b.getD 8 0).toNat,
                                    gate := false, gateNo := 0 } : Frame)
      let m := slides fs
      if r.2.s.regsFree c k.aslot < m ∨ 1024 < k.alloc + m then .again r.2.s cWinUnder 0
      else
        let first := k.spilled - m
        let slots := (List.range m).map fun j => ((area + 128 * (first + j)) % 2 ^ 64, 128)
        let missing := r.2.s.areaMiss c w g 0 (slots.map (·.1))
        let q := fillGets c w g slots r.2
        if !missing.isEmpty then .walks 0 missing
        else match q.2.fail with
        | some f => .again q.2.s (movedCause f.cause) (BitVec.ofNat 64 f.addr)
        | none =>
          let lanes (b : List Byte) : Lanes := Lanes.build fun l => BitVec.ofNat 32 (ofBytes ((b.drop (4 * l)).take 4))
          .done (q.2.s.modWarp c w fun k =>
            let up := k.v.map fun p => if p.1 < 16 + base then p else (p.1 + m, p.2)
            { k with
              v := (q.1.zip (List.range m)).foldl (fun v p => FMap.put v (16 + base + p.2) (lanes p.1)) up
              frames := k.ownFrames ++ fs ++ k.gateFrames
              alloc := k.alloc + m, b := k.b + m, spilled := first, spilledFrames := k.spilledFrames - take }) m

/-! The system handler (R374, R375). -/

/-- A fragment that a system warp's handler can be entered in (R374). -/
def Frag.enterable (f : Frag) : Bool :=
  f.heldCall.isNone && match f.st with
    | .ready => true
    | .parked (.sleep _) | .parked (.promise _ _) | .parked (.mwait _ _ _) | .parked (.cwait _ _) | .parked (.wsync _)
    | .parked (.walks _) => true
    | .parked (.barrier _ _ _ _ _) => f.token.isNone
    | .parked (.answer _) | .parked .gsync | .arrived _ => false

/-- The oldest such fragment, of one age the one with the lowest lane (R187). -/
def Warp.enterAt (k : Warp) : Option Nat :=
  (k.frags.foldl (fun (b : Option (Nat × Frag)) p =>
    if !p.2.enterable then b
    else match b with
      | none => some p
      | some q =>
        let lane (f : Frag) : Nat := (lowLane f.memb).getD 32
        if p.2.age < q.2.age ∨ (p.2.age = q.2.age ∧ lane p.2 < lane q.2) then some p else b) none).map (·.1)

/-- The system handler is entered for a record (R374). -/
def State.serveRecord (s : State) (c g rs : Nat) (pc : U64) (again : Bool) : State :=
  let base := s.dsCtx c 0 + 64 * rs
  let w0 := s.rdN base 8
  let s := s.wrN base 8 (setFld w0 28 2 2)
  let s := s.modCore c fun k => { k with pendingRecs := k.pendingRecs.filter (· != rs) }
  let s := s.modFrag c 63 g fun f => { f with replay := none }
  let s :=
    if again then
      let s := s.modWarp c 63 fun k => { k with reserve := [] }
      (s.modFrag c 63 g fun f =>
        { f with pc := BitVec.ofNat 64 (s.dsHnd c 0), stall := s.clock + 40, walked := [] }).startFetch c 63 g
    else s.enterHandler c 63 g (s.dsHnd c 0) pc
  s.modWarp c 63 fun k =>
    { k with trap := { cause := fld w0 0 8, pc := pc, addr := BitVec.ofNat 64 base }, trapFrag := g, serving := some rs }

/-- A core's system warp is entered for its oldest pending record, if it can be. -/
def State.serveCore (s : State) (c : Nat) : State :=
  match (s.core c).pendingRecs, s.warp? c 63 with
  | rs :: _, some k =>
    if k.handler.isSome ∨ k.stopped ∨ k.parked ∨ s.dsHnd c 0 = 0 ∨ s.dsCtx c 0 = 0 then s
    else
      match k.enterAt with
      | some g => s.serveRecord c g rs (s.frag c 63 g).pc false
      | none => s.schedule (s.clock + 1) .systemHandlerEntry
  | _, _ => s

/-- Cores whose system warps have a record to serve. -/
def execSystemHandlerEntry (s : State) : Host.Outcome State Fault Refusal :=
  .next ((s.cores.map (·.1)).foldl State.serveCore s)

/-- A parked warp goes on in the fragment that trapped, at a PC (R375). -/
def State.unpark (s : State) (c w : Nat) (pc : U64) (keep : Bool) : State :=
  let g := (s.warp c w).trapFrag
  let s := s.modWarp c w fun k =>
    { k with parked := false, esc := false, trap := if keep then k.trap else { k.trap with done := 0 } }
  let done := (s.warp c w).trap.done
  (s.modFrag c w g fun f =>
    { f with pc := pc, st := .ready, stall := max f.stall (s.clock + 1), token := none,
             replay := if keep ∧ done ≠ 0 then some pc else none }).startFetch c w g

/-- A warp ends as though every lane executed EXIT. -/
def Warp.endAll (k : Warp) : Warp :=
  { k with frags := [], splits := [], recon := [], reconOut := 0, handler := none, serving := none, parked := false,
           stopped := false }

/-- Every workgroup of a cluster group ends by system software (R375). -/
def State.endGroup (s : State) (c key : Nat) : State :=
  (s.groupOf c key).foldl (fun s m =>
    (s.modWg m.1 m.2 fun g => { g with ended := true }).modCore m.1 fun k =>
      { k with warps := k.warps.map fun p => if p.2.wg = m.2 then (p.1, p.2.endAll) else p }) s

/-- The trap a parked warp's record holds. -/
def Warp.trapOf (k : Warp) : Trap :=
  { cause := k.trap.cause, pc := k.trap.pc, addr := k.trap.addr, lanes := k.trap.lanes, done := k.trap.done,
    pa := k.trap.pa, detail := k.trap.detail }

/-- Resolution of a park record (R375): it acts on the warp that the record was written for, if that is still parked. -/
def State.resolve (s : State) (c rs : Nat) : State :=
  if (s.core c).pendingRecs.contains rs then s
  else
    let base := s.dsCtx c 0 + 64 * rs
    let res := fld (s.rdN (base + 40) 8) 0 3
    let s := s.wrN base 8 (setFld (s.rdN base 8) 28 2 0)
    match s.warp? c rs with
    | none => s
    | some k =>
      if !k.parked then s
      else
        let act := if k.norst ∧ (res = 1 ∨ res = 2 ∨ res = 3) then 4 else if res = 3 ∧ k.esc then 4 else res
        match act with
        | 1 => s.unpark c rs k.trap.pc true
        | 2 => s.unpark c rs (k.trap.pc + 8) false
        | 3 =>
          let entry := s.dsHnd c k.dslot
          if k.handler.isSome ∨ entry = 0 then s.parkWarp c rs k.trapOf true
          else
            (s.modWarp c rs fun k => { k with parked := false, esc := false }).enterHandler c rs k.trapFrag entry k.trap.pc
        | 4 => s.endGroup c k.wg
        | _ => s

/-! ERET (R327, R371, R372). -/

/-- The handler is entered again for a request that failed (R371). -/
def State.handlerAgain (s : State) (x : Ctx) (cause : Nat) (addr : U64) : Res :=
  if cause = cMachineCheck then
    let pa := match s.translate x.c (s.dom x.c (s.warp x.c x.w).dslot) [] addr.toNat 0 with
      | .ok pa _ _ => pa
      | _ => spPa x.c
    .trap s { cause, pc := x.pc, addr, pa := BitVec.ofNat 64 pa }
  else
    let s := s.modWarp x.c x.w fun k => { k with reserve := [], trap := { k.trap with cause := cause, addr := addr, lanes := 0 } }
    .gone (s.advanceAfter x 40 (BitVec.ofNat 64 (s.dsHnd x.c (s.warp x.c x.w).dslot)))

/-- The end of a handler, its request carried out: a system handler's record is resolved; a pending record enters it again, while slot 0 has a handler (R374, R416);
otherwise the interrupted fragment goes on. -/
def State.endHandler (s : State) (x : Ctx) (next : Bool) (delay : Nat) : Res :=
  let k := s.warp x.c x.w
  let pc := if next then k.trap.pc + 8 else k.trap.pc
  let done := k.trap.done
  let s := match k.serving with
    | some rs => s.resolve x.c rs
    | none => s
  let s := s.modWarp x.c x.w fun k => { k with serving := none }
  match (if x.w = 63 ∧ s.dsHnd x.c 0 ≠ 0 ∧ s.dsCtx x.c 0 ≠ 0 then (s.core x.c).pendingRecs else []) with
  | rs :: _ => .gone ((s.settle x).serveRecord x.c x.g rs pc true)
  | [] =>
    let s := if next then s.modWarp x.c x.w fun k => { k with trap := { k.trap with done := 0 } } else s
    let s := (s.settle x).leaveHandler x.c x.w x.g pc delay
    .gone (s.modFrag x.c x.w x.g fun f => { f with replay := if !next && done != 0 then some pc else none })

/-- ERET with a request already carried out, or none. -/
def State.eretWith (s : State) (x : Ctx) (next : Bool) (m : State → Moved) : Res :=
  let k := s.warp x.c x.w
  if k.handler.isNone then .trap s (x.ill 0x13)
  else if 1 < (k.frags.filter fun p => !p.2.heldTrap).length then .trap s (x.ill 0x14)
  else
    match s.lostIn (s.trapFrame x.c x.w) 640, m s with
    | some l, _ => .trap s (x.lostTrap l)
    | none, .again s cause addr => s.handlerAgain x cause addr
    | none, .done s n => s.endHandler x next (2 * n)
    | none, .walks need vas => .gone (s.waitWalks x need vas)

def execEret (h : Head) (k : BitVec 5) (next : Bool) (s : State) : Host.Outcome State Fault Refusal :=
  runIsa (.eret h k next) h false s fun x s => s.eretWith x next fun s => .done s 0

def execEretSpill (h : Head) (k : BitVec 5) (next : Bool) (s : State) : Host.Outcome State Fault Refusal :=
  runIsa (.eretSpill h k next) h false s fun x s => s.eretWith x next fun s => s.spillFrames x.c x.w x.g k.toNat

def execEretFill (h : Head) (k : BitVec 5) (next : Bool) (s : State) : Host.Outcome State Fault Refusal :=
  runIsa (.eretFill h k next) h false s fun x s => s.eretWith x next fun s => s.fillFrames x.c x.w x.g k.toNat

end Sys2Proof.Machine
end

