-- ==== Sys2Proof/Machine/System.lean ====
section
/-! DEFINITION. System registers: SYSRD, SYSWR, and the writes as they take effect; invalidations (R259 to R264, R328 to R331,
R352, R409 to R424, R436, R437, R443, R448, R453). -/

namespace Sys2Proof.Machine

/-! What a register holds (R328, R329). -/

/-- The ready bits a stack's enabled units set (R5, R437, R438). -/
def State.unitMask (s : State) (k : Nat) : Nat :=
  63 + (if k = 0 then 64 else 0) + (if [1, 2, 3, 4, 7, 8, 9, 10].contains k then 128 else 0)
    + (List.range 16).foldl (fun a c => if s.fuseCore.contains (16 * k + c) then a else a + 2 ^ (8 + c)) 0

/-- A word of a fuse map. -/
def fuseWord (l : List Nat) (w : Nat) : Nat :=
  (List.range 64).foldl (fun a i => if l.contains (64 * w + i) then a + 2 ^ i else a) 0

/-- The links of a word that are out of use. -/
def linkWord (l : List Nat) (w : Nat) : Nat := fuseWord l w

/-- The instance exists and names no unit that is fused off (R3, R328, R329). -/
def State.sysThere (s : State) (idx no : Nat) : Bool :=
  if idx < 0x40 then
    (if idx = 0x20 ∨ idx = 0x30 ∨ idx = 0x31 then decide (no < 12)
     else if idx ≤ 0x16 ∨ idx = 0x21 then no == 0 else decide (no < 12))
  else if idx < 0x200 then decide (no < 12)
  else if idx < 0x280 then decide (no < 48)
  else if idx < 0x340 then decide (no < 1536) && !s.fuseCore.contains (no / 8)
  else if idx < 0x440 then decide (no ≤ 512)
  else if idx < 0x504 then decide (no < 1024)
  else if idx < 0x640 then decide (no < 393216) && !s.fuseSlice.contains (no / 1024)
  else decide (no < 12)

/-- A counter of R453. -/
def isCounter (idx : Nat) : Bool :=
  decide (0x700 ≤ idx ∧ idx ≤ 0x709) || decide (0x710 ≤ idx ∧ idx ≤ 0x714) || decide (0x720 ≤ idx ∧ idx ≤ 0x73F)
    || decide (0x740 ≤ idx ∧ idx ≤ 0x74F)

/-- The cycles since the latest count are counted for the level that held in them (R453, THTIME). -/
def State.spendLevel (s : State) (k : Nat) : State :=
  let st := s.stack k
  (s.count (0x710 + st.level) k (s.clock - st.thFrom)).modStack k fun st => { st with thFrom := s.clock }

/-- The value a present register reads as. -/
def State.sysVal (s : State) (idx no : Nat) : Nat :=
  let k := s.stack no
  if idx < 0x40 then
    (if idx = 0 then 0x0C12 + Config.stepping.toNat * 2 ^ 16
     else if idx = 1 then Config.serial.toNat
     else if idx ≤ 4 then fuseWord s.fuseCore (idx - 2)
     else if idx ≤ 0xA then fuseWord s.fuseSlice (idx - 5)
     else if idx ≤ 0x16 then fuseWord s.fuseChan (idx - 0xB)
     else if idx = 0x20 then k.ready.toNat
     else if idx = 0x21 then
       (List.range 12).foldl (fun a i =>
         if s.unitMask i &&& (s.stack i).ready.toNat == s.unitMask i then a + 2 ^ i else a) 0
     else if idx = 0x31 then k.sysfault + k.faultCause * 2 ^ 16 + k.faultCore * 2 ^ 24
     else 0)
  else if idx < 0x200 then
    (if idx = 0x100 then k.level + b2n k.frc * 2 ^ 4 + k.cause * 2 ^ 8 + b2n k.low * 2 ^ 16 + k.since.toNat * 2 ^ 32
     else if idx = 0x101 then k.reading.toNat
     else if idx = 0x102 then k.real.toNat
     else if idx = 0x103 then k.dprev.toNat
     else if idx = 0x104 then 0x06900780
     else if 0x110 ≤ idx ∧ idx ≤ 0x114 then FMap.getD k.atLevel (idx - 0x110) 0
     else (s.sysReg idx no).toNat)
  else if idx = 0x260 then (s.part no).g2
  else if idx = 0x300 then s.dscfg (no / 8) (no % 8)
  else if idx = 0x301 then s.dslim (no / 8) (no % 8)
  else if idx = 0x403 then (s.func no).pend.toNat
  else if idx = 0x601 then
    fld (s.sysReg idx no).toNat 0 24 + (s.l2Own (no / 1024 / 32) (no / 1024 % 32) (no % 1024)).length * 2 ^ 32
  else if 0x710 ≤ idx ∧ idx ≤ 0x714 then
    min (FMap.getD s.counters (sysKey idx no) 0 + (if k.level = idx - 0x710 then s.clock - k.thFrom else 0)) (2 ^ 64 - 1)
  else if 0x700 ≤ idx ∧ idx < 0x800 then (if isCounter idx then FMap.getD s.counters (sysKey idx no) 0 else 0)
  else if idx = 0x800 then 2 ^ 64 - 1 - linkWord k.linkOut 0
  else if idx = 0x801 then 2 ^ 32 - 1 - linkWord k.linkOut 1
  else if idx = 0x802 then (if k.netState = 3 then 3 else if s.clock < k.drainUntil then 1 else if s.clock < k.pausedUntil then 2 else 0) + k.reroutes % 2 ^ 32 * 2 ^ 16
  else if idx = 0x803 then k.lastPause
  else if 0x810 ≤ idx then FMap.getD k.lostMsgs (idx - 0x810) 0 % 2 ^ 32
  else (s.sysReg idx no).toNat

/-- The writable bits of a register, if it has any (R10, R330). -/
def sysMask (idx : Nat) : Option Nat :=
  let page := (2 ^ 41 - 1) * 2 ^ 16
  if idx = 0x30 then some 1
  else if idx = 0x31 then some 0xFFFF
  else if idx = 0x108 then some (0x3F01 + (2 ^ 32 - 1) * 2 ^ 32)
  else if 0x120 ≤ idx ∧ idx ≤ 0x13F then some (2 ^ 64 - 1)
  else if 0x200 ≤ idx ∧ idx ≤ 0x25F then
    some (if idx % 3 = 2 then 0x3F + page else if idx % 3 = 0 then page else (2 ^ 32 - 1) * 2 ^ 16)
  else if 0x270 ≤ idx ∧ idx ≤ 0x272 then some (2 ^ 64 - 1)
  else if idx = 0x273 then some 0x1F7F
  else if idx = 0x274 then some (2 ^ 63 + 0x3FF)
  else if idx = 0x300 then some (2 ^ 63 + 0x3F03F3FF)
  else if idx = 0x301 then
    some (0x7F + 0x1FF * 2 ^ 8 + 0xFFF * 2 ^ 20 + 0xFFF * 2 ^ 32 + 0x1F * 2 ^ 44 + 0x1F * 2 ^ 52)
  else if 0x302 ≤ idx ∧ idx ≤ 0x305 then some (2 ^ 57 - 1)
  else if idx = 0x400 then some (2 ^ 63 + 0x3FF * 2 ^ 32 + 0x13F03FF)
  else if idx = 0x402 then some (2 ^ 32 - 1)
  else if idx = 0x500 then some 0x3FF3F
  else if idx = 0x501 ∨ idx = 0x503 then some (2 ^ 57 - 1)
  else if idx = 0x502 ∨ idx = 0x600 then some (2 ^ 64 - 1)
  else if idx = 0x601 then some (2 ^ 24 - 1)
  else if idx = 0x804 then some (2 ^ 64 - 1)
  else if idx = 0x805 then some (2 ^ 32 - 1)
  else none

/-- A value under a register's writable bits. -/
def maskTo (idx : Nat) (v : U64) : U64 := v &&& BitVec.ofNat 64 ((sysMask idx).getD 0)

/-- The status of a write before the register's own rule: 2 no instance, 3 read-only, undefined or fixed (R330, R416). -/
def State.writeCheck (s : State) (idx no : Nat) : Nat :=
  if !s.sysThere idx no then 2
  else if (sysMask idx).isNone ∨ ((idx = 0x300 ∨ idx = 0x301) ∧ no % 8 = 0) then 3
  else 0

/-! Time and requests (R329, R330). -/

/-- The stack that holds a register. -/
def regStack (idx no : Nat) : Nat :=
  if idx = 0x20 ∨ idx = 0x30 ∨ idx = 0x31 ∨ (0x100 ≤ idx ∧ idx < 0x140) then no
  else if 0x300 ≤ idx ∧ idx < 0x340 then no / 8 / 16
  else if 0x600 ≤ idx ∧ idx < 0x640 then no / 1024 / 32
  else if 0x700 ≤ idx then no
  else 0

/-- The cycles after which a register answers an issuer. -/
def State.regLat (s : State) (c idx no : Nat) : Nat :=
  let k := regStack idx no
  32 + (if k < 12 then 2 * hopCost (s.ringWay (stackOf c) k) else 0)

/-- A request whose d lands later: the destination is held (R41). -/
def State.ask (s : State) (x : Ctx) (d : Opd) (idx no : Nat) (v : U64) : Nat × State :=
  let id := s.nextId
  let r : Req := { id, core := x.c, slot := x.w, uid := x.k.uid, d, idx, no, value := v, status := 0 }
  let s : State := { s.bumpId with reqs := FMap.put s.reqs id r }
  (id, s.modWarp x.c x.w fun k => k.lock id (k.destRegs d 1))

/-- A request's d lands. -/
def State.answer (s : State) (req : Nat) (v : Nat) : State :=
  match FMap.get? s.reqs req with
  | none => s
  | some r =>
    let s : State := { s with reqs := FMap.drop s.reqs req }
    if (s.warp r.core r.slot).uid ≠ r.uid then s
    else
      (((s.warp r.core r.slot).destRegs r.d 1).foldl (fun (s : State) g =>
        s.landReg r.core r.slot req g (BitVec.allOnes 32) [] (BitVec.ofNat 64 v)) s).modWarp r.core r.slot fun k => k.unlock req

/-- A request whose effect has begun and whose d lands with its end. -/
def State.begun (s : State) (req : Nat) : Bool :=
  match FMap.get? s.reqs req with
  | some r => r.status == 255
  | none => false
def State.begin (s : State) (req : Nat) : State :=
  match FMap.get? s.reqs req with
  | some r => { s with reqs := FMap.put s.reqs req { r with status := 255 } }
  | none => s

/-- System-domain instructions (R45). -/
def Ctx.sysOnly (x : Ctx) (s : State) (r : Res) : Res :=
  if s.dsDid x.c x.k.dslot = 0 then r else .trap s { cause := cDomain, pc := x.pc }

/-- The instance an operand names. -/
def Ctx.inst (x : Ctx) (o : Opd) : Nat := (x.uni o).toNat % 2 ^ 32

def execSysrd (h : Head) (d : Opd) (idx : BitVec 16) (no : Opd) (s : State) : Host.Outcome State Fault Refusal :=
  runIsa (.sysrd h d idx no) h false s fun x s =>
    let n := x.inst no
    let i := idx.toNat
    let v := if s.sysThere i n then BitVec.ofNat 64 (s.sysVal i n) else BitVec.allOnes 64
    x.sysOnly s (.next (x.putLocked s d (s.regLat x.c i n) v))

/-- The step that makes a register write. -/
def writeStep (idx no : Nat) (v : U64) (req : Nat) : Instr :=
  if idx = 0x30 ∧ v.getLsbD 0 then .stkreset no req
  else if idx = 0x31 then .sysfault no v req
  else if idx = 0x108 then .fctl no v req
  else if 0x120 ≤ idx ∧ idx ≤ 0x13F then .ftrace no (idx - 0x120) v req
  else if 0x200 ≤ idx ∧ idx ≤ 0x25F then .stage2EntryWrite no (idx - 0x200) v req
  else if idx = 0x274 then .pquota no v req
  else if idx = 0x300 then .dscfg no v req
  else if idx = 0x301 then .dslim no v req
  else if idx = 0x302 then .dsroot no v req
  else if idx = 0x304 then .dshnd no v req
  else if idx = 0x305 then .dsctx no v req
  else if idx = 0x400 then .vfcfg no v req
  else if 0x500 ≤ idx ∧ idx ≤ 0x503 then .gateEntryWrite no (idx - 0x500) v req
  else if idx = 0x601 then .l2cap no v req
  else if idx = 0x804 ∨ idx = 0x805 then .forcedown no (idx - 0x804) v req
  else .registerWrite (.sys idx no) v req

def execSyswr (h : Head) (d : Opd) (a : Opd) (idx : BitVec 16) (no : Opd) (s : State) :
    Host.Outcome State Fault Refusal :=
  runIsa (.syswr h d a idx no) h false s fun x s =>
    x.sysOnly s
      (let n := x.inst no
       let i := idx.toNat
       let v := x.uni a
       let q := s.ask x d i n v
       let sampled := i = 0x108 ∨ (0x120 ≤ i ∧ i ≤ 0x13F)
       if sampled ∧ s.writeCheck i n = 0 then .next (q.2.scheduleLate (s.nextSample - 1) (writeStep i n v q.1))
       else .next (q.2.schedule (s.clock + s.regLat x.c i n) (writeStep i n v q.1)))

/-! Plain registers (R409 to R412, R443, R448). -/

/-- The write is checked, made, and answered. -/
def State.plainWrite (s : State) (idx no : Nat) (v : U64) (req : Nat) (refuse : Bool) : State :=
  let c := s.writeCheck idx no
  if c ≠ 0 then s.answer req c
  else if refuse then s.answer req 1
  else (s.setSys idx no (maskTo idx v)).answer req 0

/-- A word of a function's BAR0 that is a register (R443, R448, R456). -/
def State.barWrite (s : State) (fn off : Nat) (v : U64) : State :=
  let page := (2 ^ 41 - 1) * 2 ^ 16
  let o := off - 0x1000
  if off < 0x1000 then s
  else if off < 0x2000 then
    (if o = 0 then s.modFunc fn fun f => { f with invva := fld v.toNat 16 41 }
     else if fn ≠ 512 then s
     else if o = 0x28 then { s with winBase2 := v &&& BitVec.ofNat 64 ((2 ^ 34 - 1) * 2 ^ 30) }
     else if o = 0x30 then { s with winCtl := v.getLsbD 0 }
     else if o = 0x100 then { s with peerLocal := v &&& 0xFFFFFFFF }
     else if 0x200 ≤ o ∧ o < 0x300 ∧ o % 8 = 0 then
       { s with routes := FMap.put s.routes ((o - 0x200) / 8)
                  (v &&& BitVec.ofNat 64 (if o % 16 = 0 then 0xFFFF1F1F else page)) }
     else if 0x400 ≤ o ∧ o < 0x600 ∧ o % 8 = 0 then
       { s with inb := FMap.put s.inb ((o - 0x400) / 8)
                  (v &&& BitVec.ofNat 64 (if o % 32 = 0 then 0xFFFF03FF007F
                    else if o % 32 = 0x10 then 2 ^ 32 - 1 else page)) }
     else s)
  else if fn ≠ 512 then s
  else if off = 0x2000 then
    let s : State := { s with mailCmd := v }
    if v = 1 then s.schedule s.clock .load
    else if v = 2 then s.schedule s.clock .attest
    else if v = 3 then s.schedule s.clock .reset
    else s
  else if 0x2010 ≤ off ∧ off < 0x3000 ∧ off % 8 = 0 then
    let buf := s.mailBuf ++ List.replicate (4080 - s.mailBuf.length) 0
    let at_ := off - 0x2010
    { s with mailBuf := buf.take at_ ++ toBytes 8 v.toNat ++ buf.drop (at_ + 8) }
  else s

/-- A register with no behaviour of its own: a token bucket holds what its old rate gave it up to now (R412, R425); partition masks and shares keep still while the partition is active (R409);
a spill base as it is (R410). -/
def execRegisterWrite (reg : RegAddr) (value : U64) (req : Nat) (s : State) : Host.Outcome State Fault Refusal :=
  match reg with
  | .sys idx no =>
    let s : State := if idx ≠ 0x600 then s
      else if s.metered (no / 1024) (no % 1024) then s.setBucket (no / 1024) (no % 1024) (s.bucket (no / 1024) (no % 1024))
      else { s with buckets := FMap.drop s.buckets no }
    .next (s.plainWrite idx no value req (decide (0x270 ≤ idx ∧ idx ≤ 0x273) && s.partActive no))
  | .bar fn off => .next ((s.barWrite fn off value).answer req 0)

/-- System-warp stops are cleared by writing ones (R437). -/
def execSysfault (stack : Nat) (value : U64) (req : Nat) (s : State) : Host.Outcome State Fault Refusal :=
  let c := s.writeCheck 0x31 stack
  if c ≠ 0 then .next (s.answer req c)
  else .next ((s.modStack stack fun k => { k with sysfault := k.sysfault &&& (0xFFFF - value.toNat % 2 ^ 16) }).answer req 0)

def execDsroot (no : Nat) (value : U64) (req : Nat) (s : State) : Host.Outcome State Fault Refusal :=
  .next (s.plainWrite 0x302 no value req (fld value.toNat 0 21 != 0))

def execDshnd (no : Nat) (value : U64) (req : Nat) (s : State) : Host.Outcome State Fault Refusal :=
  .next ((s.plainWrite 0x304 no value req false).schedule s.clock .systemHandlerEntry)

def execL2cap (no : Nat) (value : U64) (req : Nat) (s : State) : Host.Outcome State Fault Refusal :=
  .next (s.plainWrite 0x601 no value req false)

/-- Words of a gate entry that R323 refuses, whether or not the entry is valid. -/
def gateBad (w0 w1 w3 : Nat) : Bool := decide (16 < fld w0 1 5) || fld w1 0 3 != 0 || fld w3 0 7 != 0

/-- A word of a gate entry: checked with the others as they are held (R323, R413). -/
def execGateEntryWrite (gate word : Nat) (value : U64) (req : Nat) (s : State) : Host.Outcome State Fault Refusal :=
  let w (i : Nat) : Nat := if word = i then (maskTo (0x500 + word) value).toNat else s.gateWord gate i
  .next (s.plainWrite (0x500 + word) gate value req (gateBad (w 0) (w 1) (w 3)))

/-! Stage 2 (R259 to R262). -/

/-- A valid entry that R262 refuses. -/
def State.s2Bad (s : State) (w0 w1 w2 : Nat) : Bool :=
  let base := fld w0 16 41
  let limit := fld w1 16 41
  let lo := fld w2 16 32 * 65536
  let hi := lo + (limit - base + 1) * 65536 - 1
  if !(w0.testBit 0) then false
  else if limit < base then true
  else if w0.testBit 5 then !(s.region lo == 2 && s.region hi == 2)
  else !((s.region lo == 0 && s.region hi == 0 && homeOf lo == homeOf hi)
    || (s.region lo == 1 && s.region hi == 1 && homeOf lo == homeOf hi))

def execStage2EntryWrite (part word : Nat) (value : U64) (req : Nat) (s : State) : Host.Outcome State Fault Refusal :=
  let idx := 0x200 + word
  let c := s.writeCheck idx part
  let v := (maskTo idx value).toNat
  let w (i : Nat) : Nat := if word % 3 = i then v else s.s2word part (word / 3) i
  if c ≠ 0 then .next (s.answer req c)
  else if s.s2Bad (w 0) (w 1) (w 2) then .next (s.answer req 1)
  else
    let old := (s.part part).g2
    let waits := s.inFlight fun p _ g _ => p == part && g == old
    let s := (s.setSys idx part (BitVec.ofNat 64 v)).modPart part fun q => { q with g2 := (old + 1) % 65536 }
    let s := if old = 65535 then s.dropTlb fun t => t.kind == 1 && t.part == part else s
    let id := s.nextId
    let s : State := { s.bumpId with s2writes := FMap.put s.s2writes id { id, part, req, until_ := waits } }
    .next (s.schedule s.clock (.stage2WriteComplete id))

/-- A stage-2 write is over once the accesses it waits for are (R261). -/
def execStage2WriteComplete (id : Nat) (s : State) : Host.Outcome State Fault Refusal :=
  match FMap.get? s.s2writes id with
  | none => .next s
  | some w =>
    if w.until_.all s.settled then .next (({ s with s2writes := FMap.drop s.s2writes id } : State).answer w.req 0)
    else .next (s.schedule (s.clock + 1) (.stage2WriteComplete id))

/-! Invalidations (R264, R331, R444). -/

def tlbinvIssue (s : State) (x : Ctx) (d a : Opd) (kind : Nat) : Res :=
  let lo := (x.uni a).toNat
  let hi := (x.k.getS (sNo a + 1)).toNat
  let bad := fld lo 0 16 != 0 || fld lo 57 7 != 0 || fld hi 42 6 != 0 || fld hi 54 10 != 0
    || (kind == 2 && decide (47 < fld hi 48 6))
  if bad then .next (x.putLocked s d 1 1)
  else
    let q := s.ask x d 0 0 0
    let did := fld hi 32 10
    let part := fld hi 48 6
    let page := fld lo 16 41
    let count := fld hi 0 32
    let v : Inval := { id := 0, kind, did, part, page, count, fn := none, req := q.1, mig := none, until_ := [] }
    .next (if kind = 0 then
        q.2.beginInval v (tlbNames did page count) fun _ e _ va =>
          e == did && decide (page ≤ va % 2 ^ 57 / 65536) && decide (va % 2 ^ 57 / 65536 < page + count)
      else if kind = 1 then q.2.beginInval v (fun t => t.kind != 4 && t.did == did) fun _ e _ _ => e == did
      else q.2.beginInval v (fun t => t.kind != 4 && t.part == part) fun p _ _ _ => p == part)

def execTlbinvRange (h : Head) (d a : Opd) (s : State) : Host.Outcome State Fault Refusal :=
  runIsa (.tlbinvRange h d a) h false s fun x s => x.sysOnly s (tlbinvIssue s x d a 0)
def execTlbinvDid (h : Head) (d a : Opd) (s : State) : Host.Outcome State Fault Refusal :=
  runIsa (.tlbinvDid h d a) h false s fun x s => x.sysOnly s (tlbinvIssue s x d a 1)
def execTlbinvPart (h : Head) (d a : Opd) (s : State) : Host.Outcome State Fault Refusal :=
  runIsa (.tlbinvPart h d a) h false s fun x s => x.sysOnly s (tlbinvIssue s x d a 2)

/-- An invalidation is over: whoever asked for it hears of it (R264, R331, R444). -/
def execInvalidationComplete (id : Nat) (s : State) : Host.Outcome State Fault Refusal :=
  match FMap.get? s.invals id with
  | none => .next s
  | some v =>
    let ended (i : Nat) : Bool := if v.kind = 3 then (FMap.get? s.fly i).isNone else s.settled i
    if !(v.until_.all ended) then .next (s.schedule (s.clock + 1) (.invalidationComplete id))
    else
      let s : State := { s with invals := FMap.drop s.invals id }
      let s : State := if v.kind = 3 then { s with atsDone := s.atsDone ++ [v.tag] } else s
      let s := match v.fn with
        | some f => s.modFunc f fun u => { u with busy := false, done := (u.done + 1) % 2 ^ 32 }
        | none => s
      let s := s.answer v.req 0
      match v.mig with
      | some m => .next (s.schedule s.clock (.migrationRelease m))
      | none => .next s

/-! Partitions (R409, R422, R463). -/

/-- A tenant slot or an enabled virtual function names a partition. -/
def State.partNamed (s : State) (p : Nat) : Bool :=
  ((List.range 192).any fun c => (List.range 7).any fun k => s.dsValid c (k + 1) && s.dsPart c (k + 1) == p)
    || (List.range 512).any fun f =>
      let v := (s.sysReg 0x400 f).toNat
      v.testBit 63 && fld v 16 6 == p

/-- Active partitions apart from one. -/
def State.otherParts (s : State) (p : Nat) : List Nat := (List.range 48).filter fun q => q != p && s.partActive q

/-- Partitions take up placing again, as far as they have work. -/
def State.pokeAll (s : State) : State :=
  s.grids.foldl (fun s g => if g.2.next < rTotal g.2.rcd then s.pokePart g.2.part else s) s

/-- A partition may not become active with this quota. -/
def State.partRefuse (s : State) (p : Nat) (v : Nat) : Bool :=
  let mask (q w : Nat) : Nat := (s.sysReg (0x270 + w) q).toNat
  let others := s.otherParts p
  let sum (f : Nat → Nat) : Nat := (p :: others).foldl (fun a q => a + f q) 0
  (List.range 3).all (fun w => mask p w == 0)
    || others.any (fun q => (List.range 3).any fun w => mask p w &&& mask q w != 0)
    || decide (64 < sum fun q => fld (s.sysReg 0x273 q).toNat 0 7)
    || decide (24 < sum fun q => fld (s.sysReg 0x273 q).toNat 8 5)
    || fld v 0 10 == 0

def execPquota (part : Nat) (value : U64) (req : Nat) (s : State) : Host.Outcome State Fault Refusal :=
  let c := s.writeCheck 0x274 part
  let on := value.getLsbD 63
  if s.begun req then .next (s.answer req 0)
  else if c ≠ 0 then .next (s.answer req c)
  else if on then
    if s.partRefuse part value.toNat then .next (s.answer req 1)
    else
      let s0 := s.setSys 0x274 part (maskTo 0x274 value)
      let s1 :=
        if s.partActive part then s0
        else
          let used := (s.otherParts part).flatMap fun q => (s.part q).ways
          let free := (List.range 24).filter fun w => !used.contains w
          s0.modPart part fun q => { q with ways := free.take (fld (s.sysReg 0x273 part).toNat 8 5) }
      .next (s1.pokeAll.answer req 0)
  else if !(s.partActive part) then .next ((s.setSys 0x274 part (maskTo 0x274 value)).answer req 0)
  else if s.partNamed part then .next (s.answer req 1)
  else
    let ways := (s.part part).ways
    let s := (s.setSys 0x274 part (maskTo 0x274 value)).modPart part fun q => { q with ways := [], reserve := [] }
    let s : State := { s with stackMap := s.stackMap.map fun k =>
      (k.1, { k.2 with l2 := k.2.l2.filter fun l => !(ways.contains l.way) }) }
    let q := s.freeLat 1
    .next ((q.2.begin req).schedule (s.clock + q.1) (.pquota part value req))

/-! Domain slots (R410, R416 to R420). -/

/-- The slot holds resident warps, or a workgroup parked in CWAIT (R417). -/
def State.slotHeld (s : State) (c slot : Nat) : Bool :=
  ((s.core c).warps.any fun w => w.2.aslot == slot)
    || s.parkedWgs.any fun p => p.2.members.any fun m => m.1 == c && m.2.1 == slot

/-- The sums and ranges of a core's valid tenant slots, one of them as it would stand, break R410. -/
def State.slotsBad (s : State) (c slot : Nat) (lim : Nat) : Bool :=
  let live := (List.range 7).map (· + 1) |>.filter fun k => k == slot || s.dsValid c k
  let l (k : Nat) : Nat := if k = slot then lim else s.dslim c k
  let sum (lo n : Nat) : Nat := live.foldl (fun a k => a + fld (l k) lo n) 0
  let row (k : Nat) : Nat × Nat := (fld (l k) 20 12, fld (l k) 20 12 + fld (l k) 32 12)
  decide (63 < sum 0 7) || decide (2016 < sum 8 9 * 8) || decide (16 < sum 44 5) || decide (16 < sum 52 5)
    || live.any (fun k => decide ((row k).1 < (row k).2 ∧ 3072 < (row k).2))
    || live.any fun k => k != slot && decide (max (row k).1 (row slot).1 < min (row k).2 (row slot).2)

/-- A slot gives up its L1 ways and lines. -/
def State.dropWays (s : State) (c slot : Nat) : State :=
  (s.l1Drop c fun _ k _ => k == slot).modCore c fun k => { k with l1ways := FMap.drop k.l1ways slot }

/-- A slot takes the lowest-numbered ways that no other holds (R420). -/
def State.takeWays (s : State) (c slot n : Nat) : State :=
  s.modCore c fun k =>
    let used := k.l1ways.flatMap fun w => if w.1 = slot then [] else w.2
    { k with l1ways := FMap.put k.l1ways slot (((List.range 16).filter fun w => !used.contains w).take n) }

def execDscfg (no : Nat) (value : U64) (req : Nat) (s : State) : Host.Outcome State Fault Refusal :=
  let c := no / 8
  let slot := no % 8
  let chk := s.writeCheck 0x300 no
  let v := (maskTo 0x300 value).toNat
  let refuse := v.testBit 63 &&
    (!(s.partActive (fld v 12 6)) || !(s.inPart (fld v 12 6) c)
      || (List.range 8).any (fun k => k != slot && s.dsValid c k && s.dsDid c k == fld v 0 10)
      || s.slotsBad c slot (s.dslim c slot))
  if chk ≠ 0 then .next (s.answer req chk)
  else if s.slotHeld c slot || refuse then .next (s.answer req 1)
  else
    let was := s.dsValid c slot
    let s := s.setSys 0x300 no (BitVec.ofNat 64 v)
    let s :=
      if v.testBit 63 then (if was then s else s.takeWays c slot (fld (s.dslim c slot) 44 5))
      else if was then s.dropWays c slot else s
    .next (s.pokeAll.answer req 0)

def execDslim (no : Nat) (value : U64) (req : Nat) (s : State) : Host.Outcome State Fault Refusal :=
  let c := no / 8
  let slot := no % 8
  let chk := s.writeCheck 0x301 no
  let v := maskTo 0x301 value
  if chk ≠ 0 then .next (s.answer req chk)
  else if s.slotHeld c slot || (s.dsValid c slot && s.slotsBad c slot v.toNat) then .next (s.answer req 1)
  else
    let s := s.setSys 0x301 no v
    let s := if s.dsValid c slot then (s.dropWays c slot).takeWays c slot (fld v.toNat 44 5) else s
    .next (s.pokeAll.answer req 0)

/-- Records in state 1 of a slot's save region (R334, R418). -/
def State.liveRecs (s : State) (c slot : Nat) : List (Nat × Nat) :=
  (s.ctxRecs.filter fun r => r.place == 8 * c + slot && s.rdN r.addr 1 % 4 == 1).map fun r => (r.addr, r.len)

/-- The held park records of a core go to their places, in the order of their parking (R419). -/
def State.releaseHeld (s : State) (c : Nat) : State :=
  let held := (s.core c).parkHeld
  held.foldl (fun s r => s.postRecord c r.1 r.2) (s.modCore c fun k => { k with parkHeld := [] })

def execDsctx (no : Nat) (value : U64) (req : Nat) (s : State) : Host.Outcome State Fault Refusal :=
  let c := no / 8
  let slot := no % 8
  let v := maskTo 0x305 value
  let refuse := fld v.toNat 0 7 != 0 || (v == 0 && (s.slotHeld c slot || !(s.liveRecs c slot).isEmpty))
  let done := s.writeCheck 0x305 no == 0 && !refuse
  let s := s.plainWrite 0x305 no value req refuse
  .next (if done then (if slot = 0 ∧ v ≠ 0 then s.releaseHeld c else s).pokeAll else s)

/-! Functions (R411, R463). -/

/-- Enabled virtual functions of a partition, one left out. -/
def State.partFuncs (s : State) (p f : Nat) : List Nat :=
  (List.range 512).filter fun g =>
    let v := (s.sysReg 0x400 g).toNat
    g != f && v.testBit 63 && fld v 16 6 == p

def execVfcfg (fn : Nat) (value : U64) (req : Nat) (s : State) : Host.Outcome State Fault Refusal :=
  let c := s.writeCheck 0x400 fn
  let v := (maskTo 0x400 value).toNat
  let p := fld v 16 6
  let others := s.partFuncs p fn
  let ts (g : Nat) : Bool := (s.sysReg 0x400 g).getLsbD 24
  let q (g : Nat) : Nat := fld (s.sysReg 0x400 g).toNat 32 10
  let refuse := v.testBit 63 &&
    (!(s.partActive p)
      || decide (fld (s.sysReg 0x274 p).toNat 0 10 < fld v 32 10 + others.foldl (fun a g => a + q g) 0)
      || (!(v.testBit 24) && !others.isEmpty)
      || (v.testBit 24 && others.any fun g => !(ts g))
      || (v.testBit 24 && s.sysReg 0x402 fn == 0))
  if c ≠ 0 then .next (s.answer req c)
  else if refuse then .next (s.answer req 1)
  else .next ((((s.setSys 0x400 fn (BitVec.ofNat 64 v)).pokeAll.pokeKicks).answer req 0).schedule s.clock .vfTurnEnd)

end Sys2Proof.Machine
end

