-- ==== Sys2Proof/Machine/Tiles.lean ====
section
/-! DEFINITION. Scale registers, format registers, tile descriptors: XMOV to XCVT, XBIND, XUNBIND, XTAG, FMTSET, FMTGET,
TDSET, TDGET (R305 to R320). -/

namespace Sys2Proof.Machine

def fNo : Opd → Nat
  | .f n => n.toNat
  | _ => 0

/-- A scale register's result on its way: the parts named by the mask. -/
def Ctx.putX (x : Ctx) (s : State) (d : Opd) (mask : U32) (ws : List U32) (ctl lat : Nat) : State :=
  s.sendLocked x.c x.w (.x (xNo d)) mask ws (BitVec.ofNat 64 ctl) lat

/-! XMOV (R318). -/

/-- The words of a scale register with those of a slice's acting lanes replaced. -/
def sliceWords (old : List U32) (slice : Nat) (act : U32) (v : Lanes) : List U32 :=
  (List.range 256).map fun i =>
    if i / 32 = slice ∧ act.getLsbD (i % 32) then v.get (i % 32) else old.getD i 0

def execXmov (h : Head) (f : FmtA) (s : State) : Host.Outcome State Fault Refusal :=
  runIsa (.xmov h f) h false s fun x s =>
    let slice := f.flags.toNat % 8
    match f.d, f.a with
    | .v n, .x a =>
      let ws := (x.k.getX a.toNat).words
      .next (s.sendLocked x.c x.w (x.k.physV n.toNat) x.act (Lanes.build fun l => ws.getD (32 * slice + l) 0) 0 8)
    | .x d, .v n =>
      .next (x.putX s f.d 1 (sliceWords (x.k.getX d.toNat).words slice x.act (x.k.getV (x.k.physV n.toNat))) 0 8)
    | .x _, .x a => .next (x.putX s f.d 3 (x.k.getX a.toNat).words (x.k.getX a.toNat).ctl 8)
    | .x _, a => .next (x.putX s f.d 1 (List.replicate 256 (BitVec.ofNat 32 (x.cnt a x.low % 256 * 0x01010101))) 0 8)
    | _, _ => .next s

/-! Scale arithmetic (R80, R319, R320). -/

/-- A word's four bytes each through a function of the byte's index in its register. -/
def mapBytes (g : Nat → Nat) : List U32 :=
  (List.range 256).map fun i =>
    BitVec.ofNat 32 (g (4 * i) + 2 ^ 8 * g (4 * i + 1) + 2 ^ 16 * g (4 * i + 2) + 2 ^ 24 * g (4 * i + 3))

/-- The code of an exact result of the scale arithmetic (R319). -/
def scaleResult (isE4m3 : Bool) (z : Exact) : Nat :=
  if isE4m3 then e4m3.encode .rne 0 z % 128
  else if z.isNan then 0xFF else (max 0 (min 254 (z.ilog2 + 127))).toNat

/-- The larger or smaller of two scale values; NaN when either is (R319). -/
def scalePick (isMax : Bool) (a b : Exact) : Exact :=
  if a.isNan || b.isNan then .nan
  else if isMax then (if Exact.cmp a b == .lt then b else a)
  else (if Exact.cmp b a == .lt then b else a)

/-- An operation on scale bytes; the power tells whether S[b] holds an exponent or a code. -/
def Ctx.scaleOp (x : Ctx) (s : State) (f : FmtA) (power : Bool) (op : Exact → Exact → Exact) : Res :=
  let a := x.k.getX (xNo f.a)
  let fm := a.sfmt
  let bad := (x.k.getX (xNo f.d)).sfmt != fm || (f.b.isX && (x.k.getX (xNo f.b)).sfmt != fm)
  if bad then .trap s { cause := cIllop, pc := x.pc, addr := 0x0E }
  else
    let y (i : Nat) : Exact :=
      match f.b with
      | .x n => scaleVal fm ((x.k.getX n.toNat).bytes.get i).toNat
      | o => let v := x.cnt o x.low % 256
             if power then .fin false 1 (sextN 8 v) false else scaleVal fm v
    .next (x.putX s f.d 1 (mapBytes fun i => scaleResult fm (op (scaleVal fm (a.bytes.get i).toNat) (y i))) 0 8)

def execXadd (h : Head) (f : FmtA) (s : State) : Host.Outcome State Fault Refusal :=
  runIsa (.xadd h f) h false s fun x s => x.scaleOp s f true Exact.mul
def execXsub (h : Head) (f : FmtA) (s : State) : Host.Outcome State Fault Refusal :=
  runIsa (.xsub h f) h false s fun x s => x.scaleOp s f true Exact.div
def execXmax (h : Head) (f : FmtA) (s : State) : Host.Outcome State Fault Refusal :=
  runIsa (.xmax h f) h false s fun x s => x.scaleOp s f false (scalePick true)
def execXmin (h : Head) (f : FmtA) (s : State) : Host.Outcome State Fault Refusal :=
  runIsa (.xmin h f) h false s fun x s => x.scaleOp s f false (scalePick false)

/-- A scale code in the other format (R320). -/
def scaleConv (src dst : Bool) (c : Nat) : Nat :=
  if src = dst then c
  else
    match scaleVal src c with
    | .fin _ m e _ => if m = 0 then 0 else
        (if dst then scaleCode true e else (max 0 (min 254 ((Exact.fin false m e false).ilog2 + 127))).toNat)
    | _ => scaleNan dst

def execXcvt (h : Head) (f : FmtA) (s : State) : Host.Outcome State Fault Refusal :=
  runIsa (.xcvt h f) h false s fun x s =>
    let a := x.k.getX (xNo f.a)
    let dst := f.flags.getLsbD 0
    .next (x.putX s f.d 3 (mapBytes fun i => scaleConv a.sfmt dst (a.bytes.get i).toNat)
      (b2n dst * 2 ^ 20 + b2n a.blk * 2 ^ 21) 8)

/-! Grafts (R316, R317). -/

def execXbind (h : Head) (f : FmtA) (s : State) : Host.Outcome State Fault Refusal :=
  runIsa (.xbind h f) h false s fun x s =>
    let n := tNo f.a
    let t := x.k.getT n
    if !t.valid then .trap s (x.ill 1)
    else if t.fmt.toNat < 16 then .trap s (x.ill 0x0D)
    else
      let nf := NFmt.of (x.k.getF (t.fmt.toNat - 16))
      .next (x.putX s f.d 6 []
        (({ tix := BitVec.ofNat 4 n, bnd := true, tag := t.gen, sfmt := nf.e4m3, blk := nf.blk32 } : XReg).ctl) 2)

def execXunbind (h : Head) (f : FmtA) (s : State) : Host.Outcome State Fault Refusal :=
  runIsa (.xunbind h f) h false s fun x s =>
    .next (x.putX s f.d 4 [] (({ tix := (x.k.getX (xNo f.d)).tix } : XReg).ctl) 2)

def execXtag (h : Head) (f : FmtA) (s : State) : Host.Outcome State Fault Refusal :=
  runIsa (.xtag h f) h false s fun x s =>
    let r := x.k.getX (xNo f.d)
    let t := x.k.getT r.tix.toNat
    if !r.bnd then .trap s (x.ill 0x12)
    else if !t.valid then .trap s (x.ill 1)
    else .next (x.putX s f.d 4 [] (({ r with tag := t.gen } : XReg).ctl) 2)

/-! Formats (R314). -/

def execFmtset (h : Head) (f : FmtA) (s : State) : Host.Outcome State Fault Refusal :=
  runIsa (.fmtset h f) h false s fun x s =>
    let v : U64 := if f.a.isZero then fReset.setWidth 64 else x.uni f.a
    if v.toNat / 2 ^ 32 ≠ 0 ∨ !fLegal (v.setWidth 32) then .trap s (x.ill 0x15)
    else .next (s.sendLocked x.c x.w (.f (fNo f.d)) (BitVec.allOnes 32) [] v 2)

def execFmtget (h : Head) (f : FmtA) (s : State) : Host.Outcome State Fault Refusal :=
  runIsa (.fmtget h f) h false s fun x s => .next (x.putLocked s f.d 2 (x.uni f.a))

/-! Tile descriptors (R309 to R311). -/

/-- Reserved bits of a descriptor's two words, its generation aside, that are not 0 (R309). -/
def tReserved (lo hi : Nat) : Bool :=
  fld lo 22 2 != 0 || fld lo 37 3 != 0 || fld lo 53 3 != 0 || fld lo 61 2 != 0 || fld hi 22 10 != 0 || fld hi 44 20 != 0

/-- A valid descriptor's field that is not what R309 lets it be. -/
def TReg.fieldsBad (t : TReg) : Bool :=
  !codeOk t.fmt.toNat || t.rows == 0 || decide (4096 < t.rows.toNat) || t.cols == 0 || decide (4096 < t.cols.toNat)
    || t.base.toNat % 16 != 0 || t.pitch.toNat % 16 != 0

/-- A TDSET value that is malformed (R310). -/
def tdBad (lo hi : Nat) (t : TReg) (fv : U32) : Bool :=
  let sw := eBits t.fmt.toNat fv
  tReserved lo hi || t.fieldsBad || decide (t.pitch.toNat < t.rowBytes fv)
    || (decide (16 ≤ t.fmt.toNat)
        && ((sw == 4 && t.cols.toNat % 2 != 0) || (sw == 6 && t.cols.toNat % 4 != 0)))

def execTdset (h : Head) (f : FmtA) (s : State) : Host.Outcome State Fault Refusal :=
  runIsa (.tdset h f) h false s fun x s =>
    let lo := (x.k.getS (sNo f.a)).toNat
    let hi := (x.k.getS (sNo f.a + 1)).toNat
    let t := TReg.ofWords lo hi 0
    if t.valid ∧ tdBad lo hi t (x.k.fOf t.fmt.toNat) then .trap s (x.ill 0x10)
    else if t.valid ∧ (s.wg x.c x.k.wg).scratch < t.hi then .trap s (x.domTrap t.base.toNat)
    else
      .next (s.sendLocked x.c x.w (.t (tNo f.d)) (BitVec.allOnes 32)
        [BitVec.ofNat 32 hi, BitVec.ofNat 32 (hi / 2 ^ 32)] (BitVec.ofNat 64 lo) 2)

def execTdget (h : Head) (f : FmtA) (s : State) : Host.Outcome State Fault Refusal :=
  runIsa (.tdget h f) h false s fun x s =>
    let t := x.k.getT (tNo f.a)
    let d := sNo f.d
    let s := s.sendLocked x.c x.w (.s d) (BitVec.allOnes 32) [] (BitVec.ofNat 64 t.word0) 2
    .next (s.sendLocked x.c x.w (.s (d + 1)) (BitVec.allOnes 32) [] (BitVec.ofNat 64 t.word1) 2)

end Sys2Proof.Machine
end

