-- ==== Sys2Proof/Machine/Record.lean ====
section
/-! DEFINITION. Context records: the bytes of a workgroup, and the workgroup of the bytes (R334, R379 to R384). -/

namespace Sys2Proof.Machine

/-! Layout helpers. -/

/-- A list of bytes filled up with zeros to n. -/
def padTo (n : Nat) (l : List Byte) : List Byte := l ++ List.replicate (n - l.length) 0

/-- n fields of a width, from the values of a function. -/
def fields (n w : Nat) (f : Nat → Nat) : List Byte := (List.range n).flatMap fun i => toBytes w (f i)

def lanesBytes (v : Lanes) : List Byte := fields 32 4 fun l => (v.get l).toNat

def State.lanesAt (s : State) (a : Nat) : Lanes := Lanes.build fun l => BitVec.ofNat 32 (s.rdN (a + 4 * l) 4)

/-! Fragments, splits, frames (R382). -/

/-- The state code, wait kind, space, address, token, scope and deadline of a fragment. -/
def Frag.code (f : Frag) (held : Bool) : Nat :=
  match f.st with
  | .parked (.sleep _) => 2
  | .parked (.barrier _ _ _ _ _) | .parked .gsync => 1
  | .arrived _ => 3
  | _ => if held then 4 else 0

def Frag.waitBytes (f : Frag) : List Byte :=
  match f.st with
  | .parked (.barrier _ sp va tok sc) =>
    toBytes 8 va.toNat ++ toBytes 1 1 ++ toBytes 1 (sp + scopeNo sc * 16) ++ toBytes 2 tok ++ toBytes 4 0 ++ toBytes 8 0
  | .parked .gsync => toBytes 8 0 ++ toBytes 1 2 ++ toBytes 7 0 ++ toBytes 8 0
  | .parked (.sleep t) => toBytes 16 0 ++ toBytes 8 t
  | _ => toBytes 24 0

/-- A fragment entry. One that sleeps stands at its next word. -/
def Frag.bytes (f : Frag) (held : Bool) : List Byte :=
  padTo 64 (toBytes 8 f.pc.toNat ++ toBytes 4 f.exec.toNat ++ toBytes 4 f.memb.toNat
    ++ toBytes 1 (f.prio + f.code held * 16) ++ toBytes 1 f.depth ++ toBytes 6 0 ++ f.waitBytes)

def maskOfNats (l : List Nat) : Nat := (List.range 9).foldl (fun a i => if l.contains i then a + 2 ^ i else a) 0
def natsOfMask (n m : Nat) : List Nat := (List.range n).filter m.testBit

def Split.bytes (p : Split) : List Byte :=
  padTo 32 (toBytes 8 p.join.toNat ++ toBytes 2 p.depth ++ toBytes 2 (maskOfNats p.members) ++ toBytes 2 (maskOfNats p.gone)
    ++ toBytes 1 (p.outer.getD 0xFF))

/-! Tiles and scales (R334). -/

/-- An X register's bytes in a record. -/
def XReg.recBytes (x : XReg) : List Byte := toBytes 8 x.ctl ++ toBytes 8 0 ++ x.bytes.read 0 1024

/-- The tile and scale section of a warp. -/
def Warp.tileSection (k : Warp) (scales : Bool) : List Byte :=
  let xs := if scales then List.range 8 else []
  let on (t : Nat) : List Nat := xs.filter fun j => (k.getX j).bnd && (k.getX j).tix.toNat == t
  ((List.range 16).flatMap fun t =>
    toBytes 8 (k.getT t).word0 ++ toBytes 8 (k.getT t).word1 ++ toBytes 1 (maskOfNats (on t)) ++ toBytes 15 0
      ++ (on t).flatMap fun j => (k.getX j).recBytes)
    ++ ((xs.filter fun j => !(k.getX j).bnd).flatMap fun j => toBytes 8 j ++ (k.getX j).recBytes)
    ++ fields 8 4 fun i => (k.getF i).toNat

/-! Warp records (R382, R383). -/

/-- A warp's record. -/
def State.warpBytes (s : State) (c w : Nat) : List Byte :=
  let k := s.warp c w
  let h := k.handler.isSome
  let deepest := k.frags.foldl (fun m p => max m p.2.depth) 0
  let r := k.recon.length + k.reconOut
  let scales := (s.wg c k.wg).scales
  let fixed := toBytes 1 k.wi ++ toBytes 1 w ++ toBytes 1 (b2n h + b2n k.parked * 2 + k.gates * 4 + b2n k.esc * 32)
    ++ toBytes 1 k.frags.length ++ toBytes 2 k.alloc ++ toBytes 1 k.frames.length
    ++ toBytes 1 (k.splits.foldl (fun a p => a + 2 ^ p.1) 0) ++ toBytes 4 r
    ++ toBytes 8 (k.b + k.spilled * 2 ^ 32) ++ toBytes 8 k.spillPtr.toNat ++ toBytes 8 k.nrm.toNat
    ++ toBytes 1 (b2n k.chk) ++ toBytes 1 (k.handler.getD 0) ++ toBytes 2 (s.dsDid c k.dslot) ++ toBytes 4 k.batch
    ++ toBytes 8 k.age ++ toBytes 4 k.spilledFrames ++ toBytes 4 0
    ++ k.bytesS ++ fields 8 4 (fun i => (k.getP i).toNat)
    ++ toBytes 8 k.trap.cause ++ toBytes 8 k.trap.pc.toNat ++ toBytes 8 k.trap.addr.toNat ++ toBytes 8 k.trap.lanes.toNat
    ++ toBytes 8 k.trap.done.toNat ++ toBytes 24 0
    ++ lanesBytes k.gen
    ++ ((List.range 9).flatMap fun i => match FMap.get? k.frags i with
        | some f => f.bytes (f.heldTrap || decide (f.depth < deepest))
        | none => toBytes 64 0)
    ++ ((List.range 8).flatMap fun i => match FMap.get? k.splits i with
        | some p => p.bytes
        | none => toBytes 32 0)
    ++ padTo 512 (k.frames.reverse.flatMap fun f =>
        toBytes 8 f.pc.toNat ++ toBytes 1 f.n ++ toBytes 1 (b2n f.gate) ++ toBytes 6 f.gateNo)
  let rest := s.rd (s.runRegion c w) (32 * k.reconOut) ++ k.recon.reverse.flatMap Recon.bytes
    ++ (if h then s.rd (s.trapFrame c w) 640 else [])
    ++ s.rd (s.runRegion c w + 132096) (2688 * k.gates)
    ++ ((List.range k.alloc).flatMap fun i => lanesBytes (FMap.getD k.v i []))
    ++ (if h then (List.range 16).flatMap fun i => lanesBytes (FMap.getD k.reserve i []) else [])
    ++ k.tileSection scales
  toBytes 4 (fixed.length + 4 + rest.length) ++ fixed ++ rest

/-! Replay entries (R379, R380). -/

/-- The kind of an entry: 5 an ARRIVE or ARRWAIT taken back, 6 a latch. -/
def EOp.entryKind (o : EOp) : Nat :=
  if o.isCopy then 1 else if o.kind = 10 then 2 else if o.kind = 11 then 3 else if o.kind = 20 then 5 else 4

/-- A replay entry's bytes. -/
def EOp.bytes (o : EOp) (kind wi : Nat) : List Byte :=
  let gens := (if o.ta.valid then [o.tai * 2 ^ 12 + o.ta.gen.toNat] else [])
    ++ (if o.tb.valid then [o.tbi * 2 ^ 12 + (if o.isCopy then o.gen else o.tb.gen).toNat] else [])
  padTo 256 (toBytes 8 o.pc.toNat ++ toBytes 1 kind ++ toBytes 1 wi
    ++ toBytes 2 (if kind = 1 then o.ticket else if kind = 6 then 0 else o.batch) ++ toBytes 1 o.frag ++ toBytes 3 0
    ++ toBytes 8 o.word.toNat ++ fields 4 2 (fun i => gens.getD i 0) ++ fields 8 8 (fun i => (o.svals.getD i 0).toNat)
    ++ toBytes 128 (if kind = 1 then o.rcd else 0)
    ++ toBytes 8 (if kind = 1 then o.ticket * 2 ^ 48 + o.promise % 2 ^ 48 else 0))

/-- The latch entry of a latch (R287, R357). -/
def Latch.entry (l : Latch) (wi : Nat) : List Byte :=
  padTo 256 (toBytes 8 0 ++ toBytes 1 6 ++ toBytes 1 wi ++ toBytes 6 0 ++ toBytes 8 l.word.toNat
    ++ toBytes 2 (l.tix * 2 ^ 12 + l.gen.toNat))

/-- The latches that a workgroup's warps loaded, on the core and the members of a group it leads. -/
def State.savedLatches (s : State) (c key : Nat) : List (Latch × Nat) :=
  let did := (s.wg c key).did
  ((membersOf (s.quad c).mode c).map fun m => (s.quad m).latch).filterMap fun l =>
    if l.valid ∧ l.did = did ∧ l.wg = key then some (l, l.wi) else none

/-! The record (R381). -/

/-- The warps of a workgroup by warp index. -/
def State.warpsOf (s : State) (c key : Nat) : List (Nat × Warp) :=
  sortBy (fun (a b : Nat × Warp) => decide (a.2.wi ≤ b.2.wi)) ((s.core c).warps.filter fun p => p.2.wg == key)

/-- Banks stamped with a DID (R358). -/
def Quad.lossMask (q : Quad) (did : Nat) : Nat :=
  (List.range 4).foldl (fun a b => if FMap.get? q.stamps b = some did then a + 2 ^ b else a) 0

def Ticket.word (t : Ticket) : Nat := t.id % 2 ^ 16 + t.state % 4 * 2 ^ 16 + t.cause % 2 ^ 8 * 2 ^ 24

/-- A workgroup's record but for its state, next member and length: header fields, then the sections. The image ends on a
line (DESIGN CHOICE, log 39). -/
def State.recordBytes (s : State) (c key : Nat) : Nat → List Byte :=
  let g := s.wg c key
  let ws := s.warpsOf c key
  let rcd := ((FMap.get? s.grids g.grid).map (·.rcd)).getD 0
  let depth := ((FMap.get? s.grids g.grid).map (·.depth)).getD 0
  let gx := fld rcd 64 32
  let gy := fld rcd 96 32
  let wiOf (uid : Nat) : Nat := ((ws.find? fun p => p.2.uid == uid).map (·.2.wi)).getD 0
  let latches := s.savedLatches c key
  let entries := latches.map (fun l => l.1.entry l.2) ++ g.held.map fun o => o.bytes o.entryKind (wiOf o.uid)
  let tickets := ((s.core c).tickets.filter fun t => t.wg == key).map Ticket.word
  let body := entries.flatten ++ (ws.flatMap fun p => s.warpBytes c p.1) ++ padTo (ceilDiv g.scratch 128 * 128) (s.spRd c g.first g.scratch)
  let len := 256 + body.length
  fun next =>
    padTo len (padTo 256 (
      toBytes 1 1 ++ toBytes 1 ws.length ++ toBytes 1 (rCluster rcd) ++ toBytes 1 g.member ++ toBytes 2 g.did
      ++ toBytes 1 (rPrio rcd + b2n g.scales * 4 + b2n (coopFlag rcd) * 8) ++ toBytes 1 g.regs ++ toBytes 4 g.grid
      ++ toBytes 4 g.lin ++ toBytes 4 (g.lin % max 1 gx) ++ toBytes 4 (g.lin / max 1 gx % max 1 gy)
      ++ toBytes 4 (g.lin / max 1 gx / max 1 gy) ++ toBytes 4 g.scratch
      ++ toBytes 4 gx ++ toBytes 4 gy ++ toBytes 4 (fld rcd 128 32) ++ toBytes 4 depth ++ toBytes 8 (fld rcd 256 64)
      ++ toBytes 8 len ++ toBytes 1 ((s.quad c).lossMask g.did) ++ toBytes 1 entries.length ++ toBytes 1 c ++ toBytes 5 0
      ++ toBytes 8 s.clock ++ toBytes 8 next ++ fields 32 4 (fun i => tickets.getD i 0)) ++ body)

/-! Reading a record back. -/

/-- Parts of a warp record: fixed part first, then the offsets of the sections. -/
structure WarpAt where
  a : Nat
  h : Bool
  r : Nat
  gates : Nat
  alloc : Nat
  deriving DecidableEq, Repr

def State.warpAt (s : State) (a : Nat) : WarpAt :=
  { a, h := (s.rdN (a + 6) 1).testBit 0, r := min 4096 (s.rdN (a + 12) 4), gates := fld (s.rdN (a + 6) 1) 2 3,
    alloc := s.rdN (a + 8) 2 }
def WarpAt.trapAt (p : WarpAt) : Nat := p.a + 2144 + 32 * p.r
def WarpAt.gateAt (p : WarpAt) : Nat := p.trapAt + (if p.h then 640 else 0)
def WarpAt.vAt (p : WarpAt) : Nat := p.gateAt + 2688 * p.gates
def WarpAt.tileAt (p : WarpAt) : Nat := p.vAt + 128 * (p.alloc + (if p.h then 16 else 0))

/-- The X registers of a tile and scale section: the T group or none, the register, its entry's place. -/
def State.xEntries (s : State) (a : Nat) (scales : Bool) : List (Option Nat × Nat × Nat) × Nat :=
  let groups := (List.range 16).foldl (fun (r : List (Option Nat × Nat × Nat) × Nat) t =>
    let js := natsOfMask 8 (s.rdN (r.2 + 16) 1)
    (r.1 ++ (js.zip (List.range js.length)).map fun p => (some t, p.1, r.2 + 32 + 1040 * p.2),
      r.2 + 32 + 1040 * js.length)) ([], a)
  let loose := if scales then (List.range 8).filter fun j => !(groups.1.any fun e => e.2.1 == j) else []
  (groups.1 ++ (loose.zip (List.range loose.length)).map fun p => (none, p.1, groups.2 + 1048 * p.2 + 8),
    groups.2 + 1048 * loose.length)

/-- The places of the T entries of a section. -/
def State.tEntries (s : State) (a : Nat) : List Nat :=
  ((List.range 16).foldl (fun (r : List Nat × Nat) _ =>
    (r.1 ++ [r.2], r.2 + 32 + 1040 * (natsOfMask 8 (s.rdN (r.2 + 16) 1)).length)) ([], a)).1

/-- What R335 calls an invalid tile and scale section, of a workgroup with an allocation of some bytes (R309, R315, R74). -/
def State.tilesBad (s : State) (a : Nat) (scales : Bool) (scratch : Nat) : Bool :=
  let xs := s.xEntries a scales
  let fv (i : Nat) : U32 := BitVec.ofNat 32 (s.rdN (xs.2 + 4 * i) 4)
  (s.tEntries a).any (fun t =>
      let lo := s.rdN t 8
      let hi := s.rdN (t + 8) 8
      let tr := TReg.ofWords lo hi 0
      tReserved lo hi || tr.valid && (tr.fieldsBad || decide (scratch ≤ tr.base.toNat)))
    || (List.range 8).any (fun i => !fLegal (fv i))
    || (!scales && xs.1.any fun _ => true)
    || decide (xs.1.length ≠ (xs.1.map (·.2.1)).eraseDups.length)
    || xs.1.any fun e =>
        let w := s.rdN e.2.2 8
        fld w 5 3 != 0 || fld w 22 42 != 0
          || (match e.1 with
              | some t => !(w.testBit 4) || fld w 0 4 != t
              | none => w.testBit 4 || s.rdN (e.2.2 - 8) 8 != e.2.1)

/-- The X register of an entry. -/
def State.xregAt (s : State) (a : Nat) : XReg :=
  let w := s.rdN a 8
  { bytes := Memory.write [] 0 (s.rd (a + 16) 1024), tix := BitVec.ofNat 4 w, bnd := w.testBit 4,
    tag := BitVec.ofNat 12 (w / 2 ^ 8), sfmt := w.testBit 20, blk := w.testBit 21 }

def State.fragAt (s : State) (a age : Nat) : Frag :=
  let st := fld (s.rdN (a + 16) 1) 4 3
  let kind := s.rdN (a + 32) 1
  { pc := BitVec.ofNat 64 (s.rdN a 8), exec := BitVec.ofNat 32 (s.rdN (a + 8) 4), memb := BitVec.ofNat 32 (s.rdN (a + 12) 4),
    prio := fld (s.rdN (a + 16) 1) 0 2, age, depth := s.rdN (a + 17) 1,
    st := if st = 2 then .parked (.sleep (s.rdN (a + 40) 8)) else if st = 1 ∧ kind = 2 then .parked .gsync else .ready
    token := if st = 1 ∧ kind = 1 then some (s.rdN (a + 34) 2) else none }

def State.splitAt (s : State) (a : Nat) : Split :=
  let o := s.rdN (a + 14) 1
  { join := BitVec.ofNat 64 (s.rdN a 8), depth := s.rdN (a + 8) 2, members := natsOfMask 9 (s.rdN (a + 10) 2),
    gone := natsOfMask 9 (s.rdN (a + 12) 2), outer := if o = 0xFF then none else some o }

/-- The split a fragment that has arrived waits in: the innermost that counts it as arrived. -/
def arrivedIn (l : List (Nat × Split)) (g : Nat) : Option Nat :=
  innermost (l.filter fun p => p.2.members.contains g && p.2.gone.contains g)

/-- The warp of a warp record, in a slot of a core, with an identity and a workgroup. -/
def State.warpOf (s : State) (p : WarpAt) (c aslot uid wg : Nat) (scales : Bool) : Warp :=
  let a := p.a
  let b6 := s.rdN (a + 6) 1
  let age := s.rdN (a + 48) 8
  let base := s.rdN (a + 16) 8
  let frags0 := ((List.range 9).filter fun i => s.rdN (a + 800 + 64 * i + 12) 4 != 0).map fun i =>
    (i, s.fragAt (a + 800 + 64 * i) age, fld (s.rdN (a + 800 + 64 * i + 16) 1) 4 3)
  let splits := (natsOfMask 8 (s.rdN (a + 11) 1)).map fun i => (i, s.splitAt (a + 1376 + 32 * i))
  let frames := ((List.range (s.rdN (a + 10) 1)).map fun i =>
    let q := a + 1632 + 16 * i
    ({ pc := BitVec.ofNat 64 (s.rdN q 8), n := s.rdN (q + 8) 1, gate := (s.rdN (q + 9) 1).testBit 0,
       gateNo := s.rdN (q + 10) 6 } : Frame)).reverse
  let outFrames := s.rdN (a + 56) 4
  let deepest := frags0.foldl (fun m f => max m f.2.1.depth) 0
  let handler := if p.h then some (s.rdN (a + 41) 1) else none
  let trap : TrapRec :=
    { cause := s.rdN (a + 608) 8, pc := BitVec.ofNat 64 (s.rdN (a + 616) 8), addr := BitVec.ofNat 64 (s.rdN (a + 624) 8),
      lanes := BitVec.ofNat 32 (s.rdN (a + 632) 8), done := BitVec.ofNat 32 (s.rdN (a + 640) 8) }
  let parked := b6.testBit 1
  let frags := frags0.map fun f =>
    let fr := f.2.1
    (f.1, { fr with
      st := if f.2.2 = 3 then (match arrivedIn splits f.1 with
              | some i => .arrived i
              | none => .ready) else fr.st
      heldCall := if fr.depth < deepest then some (frames.length + outFrames - (deepest - fr.depth)) else none
      heldTrap := p.h && handler != some f.1
      replay := if !p.h && !parked && trap.done != 0 && fr.pc == trap.pc then some fr.pc else none })
  let xs := s.xEntries p.tileAt scales
  let recon := (List.range (min 32 p.r)).map fun i => s.readRecon (a + 2144 + 32 * (p.r - 1 - i))
  { uid, wg, wi := s.rdN (a + 4) 1
    v := (List.range p.alloc).map fun i => (i, s.lanesAt (p.vAt + 128 * i))
    reserve := if p.h then (List.range 16).map fun i => (i, s.lanesAt (p.vAt + 128 * (p.alloc + i))) else []
    s := (List.range 64).map fun i => (i, BitVec.ofNat 64 (s.rdN (a + 64 + 8 * i) 8))
    p := (List.range 7).map fun i => (i + 1, BitVec.ofNat 32 (s.rdN (a + 580 + 4 * i) 4))
    nrm := BitVec.ofNat 64 (s.rdN (a + 32) 8) &&& nrmMask
    chk := (s.rdN (a + 40) 1).testBit 0
    t := ((s.tEntries p.tileAt).zip (List.range 16)).map fun q =>
      (q.2, TReg.ofWords (s.rdN q.1 8) (s.rdN (q.1 + 8) 8) (BitVec.ofNat 12 (s.rdN (q.1 + 12) 4)))
    x := (xs.1.map fun e => (e.2.1, s.xregAt e.2.2)).foldl (fun m e => FMap.put m e.1 e.2) []
    f := (List.range 8).map fun i => (i, BitVec.ofNat 32 (s.rdN (xs.2 + 4 * i) 4))
    gen := s.lanesAt (a + 672)
    trap
    trapFrag := ((frags.find? fun f => f.2.pc == trap.pc).map (·.1)).getD (((frags.head?).map (·.1)).getD 0)
    alloc := p.alloc
    b := fld base 0 32, spilled := fld base 32 32, frames, spilledFrames := outFrames
    spillPtr := BitVec.ofNat 64 (s.rdN (a + 24) 8)
    aslot, dslot := (s.slotOf c (fld (s.rdN (a + 42) 2) 0 10)).getD aslot
    prio := ((frags.head?).map (·.2.prio)).getD 0, age
    frags, splits, recon, reconOut := p.r - min 32 p.r
    handler, gates := p.gates, parked, esc := b6.testBit 5
    batch := s.rdN (a + 44) 4 }

end Sys2Proof.Machine
end

