-- ==== Sys2Proof/Machine/Context.lean ====
section
/-! DEFINITION. Pre-emption, save and restore of workgroups: DPREEMPT, CTXSAVE, CTXRST, the parking of CWAIT (R179, R332 to
R335, R357 to R359, R378 to R385, R418). -/

namespace Sys2Proof.Machine

/-! Stopping issue (R332, R357, R378). -/

/-- An ARRIVE, ARRWAIT or WAITB whose request is still in its core: it waits to set out, or has yet to leave. -/
def State.inCore (s : State) (f : Fly) : Bool :=
  (f.kind == 9 || f.kind == 17) && !f.performed && f.code % 8 != 0
    && (f.phase == 5 || (f.phase == 0 && decide (s.clock < f.left_)))

/-- Such a request is taken back. An arrival becomes a replay entry, its fragment at the instruction again; a WAITB is parked
with its word and token (R175, R378, R380). -/
def State.takeBack (s : State) (c key : Nat) (f : Fly) : State :=
  let op := FMap.get? s.loads f.op
  let o : EOp :=
    { id := f.id, kind := 20, uid := f.uid, slot := f.slot, frag := f.frag, wg := key, did := f.did, dslot := f.dslot,
      pc := (s.frag c f.slot f.frag).pc, word := (op.map (·.word)).getD 0, svals := (op.map (·.svals)).getD [], issued := s.clock }
  let s : State := { s.dropFly f.id with loads := FMap.drop s.loads f.op }
  let s := s.modWarp c f.slot fun k => k.unlock f.op
  if f.code % 8 = 3 then
    let space := if f.kind = 9 then 0 else 2
    s.modFrag c f.slot f.frag fun g => { g with st := .parked (.barrier f.id space f.va f.seq (scopeOf (f.code / 8))) }
  else (s.retry c f.slot f.frag).modWg c key fun g => { g with held := g.held ++ [o] }

/-- Operations of a workgroup that have not started leave their engine; what they held is free (R357, R378). -/
def State.withdrawOps (s : State) (c key : Nat) : State :=
  let ops := (s.core c).ops.filter fun o => o.wg == key && !o.started
  let gone (id : Nat) : Bool := ops.any fun o => o.id == id
  let s := s.modCore c fun k =>
    { k with
      ops := k.ops.filter fun o => !(gone o.id)
      rlocks := k.rlocks.filter fun r => !(gone r.op)
      warps := k.warps.map fun p => if p.2.wg = key then (p.1, { p.2 with locks := p.2.locks.filter fun l => !(gone l.owner) })
        else p }
  ((s.modWg c key fun g => { g with held := g.held ++ ops }).reissue c).kickEngines c

/-- Issue stops for a workgroup. A trap that was due at a warp's next issue is taken now. -/
def State.stopWg (s : State) (c key : Nat) : State :=
  let s := s.modCore c fun k =>
    { k with warps := k.warps.map fun p => if p.2.wg = key then (p.1, { p.2 with stopped := true }) else p }
  let late := (s.warpsOf c key).filterMap fun p =>
    match p.2.pendingFail, p.2.frags with
    | some q, f :: _ => if p.2.parked then none else some (p.1, f.1, q)
    | _, _ => none
  let s := late.foldl (fun s t =>
    (s.modWarp c t.1 fun k => { k with pendingFail := none }).takePending c t.1 t.2.1 t.2.2) s
  let uids := (s.warpsOf c key).map fun p => p.2.uid
  let s := ((s.fly.map (·.2)).filter fun f => s.inCore f && uids.contains f.uid).foldl (fun s f => s.takeBack c key f) s
  s.withdrawOps c key

/-- A workgroup that could not be saved runs on: its operations enter their queues again, a WAITB that was taken back is tried
again. -/
def State.runOn (s : State) (c key : Nat) : State :=
  let ops := (s.wg c key).held.filter fun o => decide (o.kind < 20)
  let locks (slot : Nat) (k : Warp) : Warp := (ops.filter fun o => o.slot == slot).foldl
    (fun k o => k.lock o.id (o.xw.map Reg.x ++ k.destRegs o.d 1)) k
  let s := s.modCore c fun k =>
    { k with
      ops := sortBy (fun (a b : EOp) => decide (a.id ≤ b.id)) (k.ops ++ ops)
      rlocks := k.rlocks ++ (ops.filter (·.isCopy)).flatMap (·.locks)
      warps := k.warps.map fun p => if p.2.wg = key then (p.1, { locks p.1 p.2 with stopped := false }) else p }
  let s := ((s.modWg c key fun g => { g with held := [] }).reissue c).kickEngines c
  let asleep := (s.warpsOf c key).flatMap fun p => p.2.frags.filterMap fun g => match g.2.st with
    | .parked (.promise t _) => some (p.1, g.1, promiseCycle s.clock t)
    | _ => none
  let back := (s.warpsOf c key).flatMap fun p => p.2.frags.filterMap fun g => match g.2.st with
    | .parked (.barrier id _ _ _ _) => if (FMap.get? s.fly id).isNone then some (p.1, g.1) else none
    | _ => none
  let s := back.foldl (fun s t => s.retry c t.1 t.2) s
  (asleep.foldl (fun s t => s.schedule t.2.2 (.sleepuntilWake c t.1 t.2.1)) s).wakeMwait c

/-! Quiescence (R378). -/

/-- Everything a stopped workgroup had in flight has come to its state. A wait at a barrier word stays. -/
def State.quietWg (s : State) (c key : Nat) : Bool :=
  let atWord (id : Nat) : Bool := s.fly.any fun f => f.2.op == id && f.2.phase == 7
  ((s.warpsOf c key).all fun p =>
      let k := p.2
      k.stopped && k.pend.isEmpty && (k.frags.all fun f => f.2.stored == 0)
        && !(s.loads.any fun l => l.2.uid == k.uid && l.2.core == c && !(atWord l.1))
        && !(s.storesOut c k.uid (2 ^ 32 - 1) 255 .sy) && !(s.readsOut c k.uid (2 ^ 32 - 1))
        && !(s.reqs.any fun r => r.2.uid == k.uid && r.2.core == c))
    && !((s.core c).ops.any fun o => o.wg == key)

/-! Placement and writing (R334, R381, R385, R418). -/

/-- The lowest offset of a save region at which a record overlaps no record in state 1 (R418). -/
def State.savePlace (s : State) (c slot len : Nat) (more : List (Nat × Nat)) : Option Nat :=
  let lo := s.dsCtx c slot + 16777216
  let hi := s.dsCtx c slot + 67108864
  let recs := more ++ s.liveRecs c slot
  let free (a : Nat) : Bool :=
    decide (lo ≤ a ∧ a + len ≤ hi) && recs.all fun r => decide (r.1 + r.2 ≤ a) || decide (a + len ≤ r.1)
  if s.dsCtx c slot = 0 then none else (ascending (lo :: recs.map fun r => ceilDiv (r.1 + r.2) 128 * 128)).find? free

/-- The places of a group's records, members in order: core, key, address, length. -/
def State.savePlaces (s : State) : List (Nat × Nat) → List (Nat × Nat × Nat × Nat) → Option (List (Nat × Nat × Nat × Nat))
  | [], done => some done
  | (c, key) :: r, done =>
    let g := s.wg c key
    let len := (s.recordBytes c key 0).length
    match s.savePlace c g.slot len (done.map fun d => (d.2.2.1, d.2.2.2)) with
    | none => none
    | some a => State.savePlaces s r (done ++ [(c, key, a, len)])

/-- A warp leaves its slot for its record: its waits at words go, a park record in state 1 is freed (R378). -/
def State.saveWarp (s : State) (c w : Nat) : State :=
  let k := s.warp c w
  let s : State :=
    { s with
      fly := s.fly.filter fun f => !(f.2.uid == k.uid && f.2.phase == 7)
      loads := s.loads.filter fun l => !(l.2.uid == k.uid && l.2.core == c) }
  let base := s.dsCtx c 0 + 64 * w
  let s :=
    if (s.core c).pendingRecs.contains w then s.wrN base 8 (setFld (s.rdN base 8) 28 2 0) else s
  s.modCore c fun co =>
    { co with
      warps := FMap.drop co.warps w
      pendingRecs := co.pendingRecs.filter (· != w)
      parkHeld := co.parkHeld.filter fun r => r.1 != w }

/-- A member's record: its bytes and what the device keeps beside it. -/
def State.memberRecord (s : State) (m : Nat × Nat × Nat × Nat) (next : Nat) (inner : Bool) : List Byte × CtxRec :=
  let c := m.1
  let key := m.2.1
  let g := s.wg c key
  let frags := (s.warpsOf c key).flatMap fun p => p.2.frags.map (·.2)
  (s.recordBytes c key next,
    { place := 8 * c + g.slot, addr := m.2.2.1, len := m.2.2.2, wg := { g with held := [] }
      gs := frags.all Frag.inGsync, gen := ((FMap.get? s.grids g.grid).map (·.gsync)).getD 0, inner
      warps := (s.warpsOf c key).map fun p => (p.2.wi, p.2.lostBatches, p.2.pendingFail) })

/-- One member's record is written and its resources return. -/
def State.saveMember (s : State) (m : Nat × Nat × Nat × Nat) (b : List Byte) (cr : CtxRec) : State :=
  let c := m.1
  let key := m.2.1
  let meet (r : CtxRec) : Bool := decide (r.addr < cr.addr + cr.len) && decide (cr.addr < r.addr + r.len)
  let s : State := { s.wr cr.addr b with ctxRecs := s.ctxRecs.filter (fun r => !(meet r)) ++ [cr] }
  ((s.warpsOf c key).foldl (fun s p => s.saveWarp c p.1) s).leaveWg c key

/-- A cluster group is saved together, its records taken before any member leaves (R357, R385): its members with their records'
addresses, or nothing where an area is full. -/
def State.saveGroup (s : State) (ms : List (Nat × Nat)) : Option (List (Nat × Nat × Nat × Nat) × State) :=
  (s.savePlaces ms []).map fun ps =>
    let nexts := (ps.drop 1).map (fun p => p.2.2.1) ++ [0]
    let recs := ((ps.zip nexts).zip (List.range ps.length)).map fun p => (p.1.1, s.memberRecord p.1.1 p.1.2 (p.2 != 0))
    (ps, (recs.foldl (fun s r => s.saveMember r.1 r.2.1 r.2.2) s).pokeAll)

/-! The job (R332, R333, R430, R179). -/

def State.setJob (s : State) (p : Preempt) : State := { s with preempts := FMap.put s.preempts p.id p }

/-- A job with its cores and the cycles in which their warps stop. -/
def State.startJob (s : State) (p : Preempt) (cores : List Nat) (from_ : Nat) : State :=
  let id := s.nextId
  let r := cores.foldl (fun (r : List (Nat × Nat) × State) c =>
    if c = from_ then (r.1 ++ [(c, s.clock)], r.2)
    else
      let d := s.ringWay (stackOf from_) (stackOf c)
      let f := r.2.freeBelow (25 + 2 * hopCost d)
      (r.1 ++ [(c, s.clock + 1 + f.1)], f.2)) ([], s.bumpId)
  (r.2.setJob { p with id, stops := r.1 }).scheduleLate s.clock (.contextSave id)

/-- The time-sliced function of a domain on a partition. -/
def State.turnFn (s : State) (did part : Nat) : Option Nat :=
  (List.range 512).find? fun f =>
    let v := (s.sysReg 0x400 f).toNat
    v.testBit 63 && v.testBit 24 && fld v 0 10 == did && fld v 16 6 == part

/-- Issue stops on a core for what a job names there, and for the other members of its cluster groups. A handover also saves what
an earlier one had to leave running (R430). -/
def State.stopCore (s : State) (p : Preempt) (c : Nat) : State :=
  let here :=
    if p.kind = 1 ∨ p.kind = 3 then p.todo.filter fun m => m.1 == c
    else (((s.core c).wgs.filter fun g =>
      g.2.did == p.did || (p.kind == 2 && (s.turnFn g.2.did p.part).isSome)).flatMap fun g => s.groupOf c g.1).eraseDups
  let new := here.filter fun m => !(s.warpsOf m.1 m.2).all fun w => w.2.stopped
  let s := new.foldl (fun s m => s.stopWg m.1 m.2) s
  let todo := p.todo ++ here.filter fun m => !(p.todo.contains m)
  s.setJob { p with todo, stops := p.stops.filter (fun t => t.1 != c), found := p.found || !here.isEmpty }

/-- The children a group waits for in CWAIT. -/
def State.cwaitIds (s : State) (ms : List (Nat × Nat)) : List Nat :=
  (ms.flatMap fun m => (s.warpsOf m.1 m.2).flatMap fun w => w.2.frags.flatMap fun f => match f.2.st with
    | .parked (.cwait ids _) => ids
    | _ => []).eraseDups

/-- A group of a job is quiet: it is saved, or runs on. -/
def State.jobGroup (s : State) (p : Preempt) (ms : List (Nat × Nat)) : State :=
  let left := { p with todo := p.todo.filter fun m => !(ms.contains m) }
  let kids := s.cwaitIds ms
  let go := p.kind != 3 || ms.all fun m => s.allCwait m.1 m.2
  let g := (ms.head?).map fun m => s.wg m.1 m.2
  match if go then s.saveGroup ms else none with
  | none =>
    let s := (ms.foldl (fun s m => s.runOn m.1 m.2) s).setJob { left with full := p.full || go }
    if p.kind = 3 then ms.foldl (fun s m => s.scheduleOnce (s.clock + 1) (.cwaitWorkgroupPark m.1 m.2)) s else s
  | some (ps, s) =>
    let named := (ps.find? fun q => (q.1, q.2.1) == p.named).map (·.2.2.1)
    let s := s.setJob { left with saved := p.saved + ps.length, addr := named.getD p.addr }
    let first := ((ps.head?).map (·.2.2.1)).getD 0
    if p.kind = 2 then
      let did := (g.map (·.did)).getD p.did
      s.modFunc (if did = p.did then p.fn else (s.turnFn did p.part).getD p.fn) fun f => { f with saved := f.saved ++ [first] }
    else if p.kind = 3 then
      let w : Parked :=
        { id := p.id, grid := (g.map (·.grid)).getD 0, did := p.did, part := p.part
          members := ps.map fun q => (q.1, ((s.ctxRecs.find? fun r => r.addr == q.2.2.1).map fun r => r.wg.slot).getD 0, q.2.2.1)
          kids, due := none }
      { s with parkedWgs := FMap.put s.parkedWgs w.id w }
    else s

/-- The groups of a job that are quiet, in the order they were stopped. -/
def State.jobGroups (s : State) (id : Nat) : List (Nat × Nat) → State
  | [] => s
  | m :: r =>
    let s :=
      match FMap.get? s.preempts id with
      | none => s
      | some p =>
        if !(p.todo.contains m) then s
        else if (FMap.get? (s.core m.1).wgs m.2).isNone then s.setJob { p with todo := p.todo.filter (· != m) }
        else
          let ms := s.groupOf m.1 m.2
          if ms.all fun q => s.quietWg q.1 q.2 then s.jobGroup p ms else s
    State.jobGroups s id r

/-- A job is over (R332, R333, R430, R179). -/
def State.endJob (s : State) (p : Preempt) : State :=
  let s : State := { s with preempts := FMap.drop s.preempts p.id }
  if p.kind = 0 then s.answer p.req ((if !p.found then 1 else if p.full then 2 else 0) + p.saved * 2 ^ 16)
  else if p.kind = 1 then s.answer p.req (if p.addr ≠ 0 then p.addr else 2 ^ 63 + (if p.full then 2 else 1))
  else if p.kind = 2 then s.schedule s.clock .vfTurnEnd
  else
    match FMap.get? s.parkedWgs p.id with
    | some w => if (s.cwaitStatus w.kids).isSome then s.schedule s.clock (.cwaitWorkgroupRestore p.id) else s
    | none => s

/-- A pre-emption goes on: cores stop, quiet groups are saved, and when nothing is left its d lands. -/
def execContextSave (job : Nat) (s : State) : Host.Outcome State Fault Refusal :=
  match FMap.get? s.preempts job with
  | none => .next s
  | some p =>
    let due := (p.stops.filter fun t => decide (t.2 ≤ s.clock)).map (·.1)
    let s := due.foldl (fun s c => match FMap.get? s.preempts job with
      | some p => s.stopCore p c
      | none => s) s
    let s := s.jobGroups job (((FMap.get? s.preempts job).map (·.todo)).getD [])
    match FMap.get? s.preempts job with
    | none => .next s
    | some p => .next (if p.stops.isEmpty && p.todo.isEmpty then s.endJob p else s.schedule (s.clock + 1) (.contextSave job))

/-- A blank job. -/
def Preempt.blank (kind did : Nat) : Preempt :=
  { id := 0, kind, did, stops := [], todo := [], named := (0, 0), found := false, saved := 0, full := false, addr := 0,
    req := 0, part := 0, fn := 0 }

def execDpreempt (h : Head) (d a : Opd) (s : State) : Host.Outcome State Fault Refusal :=
  runIsa (.dpreempt h d a) h false s fun x s =>
    let v := (x.uni a).toNat
    let did := fld v 0 10
    let core := fld v 16 8
    let all := v.testBit 31
    let bad := fld v 10 6 != 0 || fld v 24 7 != 0 || fld v 32 32 != 0 || did == 0 || (!all && decide (192 ≤ core))
    x.sysOnly s
      (if bad then .next (x.putLocked s d 1 3)
       else
         let q := s.ask x d 0 0 0
         let cores := (if all then List.range 192 else [core]).filter fun c => !(s.fuseCore.contains c)
         .next (q.2.startJob { Preempt.blank 0 did with req := q.1 } cores x.c))

def execCtxsave (h : Head) (d a : Opd) (s : State) : Host.Outcome State Fault Refusal :=
  runIsa (.ctxsave h d a) h false s fun x s =>
    let v := (x.uni a).toNat
    let core := fld v 0 8
    let slot := fld v 8 6
    let fail (n : Nat) : Res := .next (x.putLocked s d 1 (BitVec.ofNat 64 (2 ^ 63 + n)))
    x.sysOnly s
      (if fld v 14 50 ≠ 0 ∨ 192 ≤ core then fail 3
       else
         match s.warp? core slot with
         | none => fail 1
         | some k =>
           if slot = 63 then fail 1
           else
             let q := s.ask x d 0 0 0
             let ms := s.groupOf core k.wg
             let p := { Preempt.blank 1 (s.wg core k.wg).did with req := q.1, todo := ms, named := (core, k.wg) }
             .next (q.2.startJob p ((ms.map (·.1)).eraseDups) x.c))

/-- Every warp of a group that has not exited waits in CWAIT: its contexts go to the context area (R179); without one they stay.
Looked at in every cycle in which a fragment of the workgroup waits in CWAIT (R408). -/
def execCwaitWorkgroupPark (core wg : Nat) (s : State) : Host.Outcome State Fault Refusal :=
  let g := s.wg core wg
  let ws := s.warpsOf core wg
  if (FMap.get? (s.core core).wgs wg).isNone || !(ws.any fun w => w.2.frags.any fun f => f.2.inCwait) then .next s
  else if !(s.allCwait core wg) || s.dsCtx core g.slot == 0 || ws.any fun w => w.2.stopped then
    .next (s.scheduleOnce (s.clock + 1) (.cwaitWorkgroupPark core wg))
  else
    let ms := s.groupOf core wg
    let id := s.nextId
    let part := if g.slot = 0 then 64 else s.dsPart core g.slot
    let p := { Preempt.blank 3 g.did with id, todo := ms, named := (core, wg), part }
    let s := ms.foldl (fun s m => s.stopWg m.1 m.2) (s.bumpId.setJob p)
    .next (s.schedule s.clock (.contextSave id))

/-! Reading a record for a restore (R335, R384, R385). -/

/-- The records of a group from one on: the chain of header offset 80. -/
def State.recChain (s : State) : Nat → Nat → List Nat
  | 0, _ => []
  | fuel + 1, a => a :: (let n := s.rdN (a + 80) 8; if n = 0 then [] else State.recChain s fuel n)

/-- The warp records of a record. -/
def State.recWarps (s : State) (a : Nat) : List WarpAt :=
  ((List.range (min 16 (s.rdN (a + 1) 1))).foldl (fun (r : List WarpAt × Nat) _ =>
    (r.1 ++ [s.warpAt r.2], r.2 + s.rdN r.2 4)) ([], a + 256 + 256 * s.rdN (a + 65) 1)).1

def State.recDid (s : State) (a : Nat) : Nat := fld (s.rdN (a + 4) 2) 0 10
def State.recScales (s : State) (a : Nat) : Bool := (s.rdN (a + 6) 1).testBit 2

/-- Ticket records a header holds in a state other than free. -/
def State.recTickets (s : State) (a : Nat) : List Nat :=
  ((List.range 32).map fun i => s.rdN (a + 88 + 4 * i) 4).filter fun w => fld w 0 16 != 0

/-- Lines of a record. -/
def State.recLines (s : State) (a : Nat) : Nat := max 2 (ceilDiv (min (s.rdN (a + 56) 8) 50331648) 128)

/-- A line of a record is lost, or it lies where there is no device memory. -/
def State.recLost (s : State) (a : Nat) : Bool :=
  decide (1 < s.region a) || (s.stack (homeOf a)).lost.any fun l => decide (a ≤ l.1) && decide (l.1 < a + 128 * s.recLines a)

/-- A record that may not be restored (R335); whether its first line shows it. -/
def State.recBad (s : State) (a : Nat) : Option Bool :=
  if s.region a ≤ 1 ∧ s.rdN a 1 % 4 ≠ 1 then some true
  else if s.recLost a || (s.recWarps a).any fun p => s.tilesBad p.tileAt (s.recScales a) (s.rdN (a + 28) 4) then some false
  else none

/-- A record of another member than the first of its chain (R385); of a group whose member 0 had exited before the save, the
chain's first record stands for it (DEDUCED, log 40). -/
def State.recInner (s : State) (a : Nat) : Bool :=
  s.rdN (a + 3) 1 != 0 && ((s.ctxRecs.find? fun r => r.addr == a).map (·.inner)).getD true

/-- The slot of a core that may take a record (R335, R419). -/
def State.recSlot (s : State) (c a : Nat) : Option Nat :=
  (s.slotOf c (s.recDid a)).bind fun k => if s.dsCtx c k = 0 then none else some k

/-- A core has room for a record: its slot and first row (R191, R335, R384). -/
def State.recRoom (s : State) (c a : Nat) : Option (Nat × Nat) :=
  (s.recSlot c a).bind fun slot =>
    let ws := s.recWarps a
    let n := ws.length
    let regs := ws.foldl (fun t p => t + p.alloc + 16) 0
    let lim := s.dslim c slot
    let open_ := ((List.range 64).filter fun i => (s.warp? c i).isNone && (if slot = 0 then i == 63 else i != 63)).length
    if s.coreReady c ∧ s.slotWarps c slot + n ≤ fld lim 0 7 ∧ n ≤ open_
        ∧ s.regsUsed c slot + regs ≤ fld lim 8 9 * 8 ∧ regs ≤ s.regsFree c slot
        ∧ (!(s.recScales a) ∨ s.slotBlocks c slot + n ≤ fld lim 52 5)
        ∧ (s.recTickets a).length + (s.core c).tickets.length ≤ 32 then
      (s.rowFit c slot (s.rdN (a + 28) 4 / 1024)).map fun r => (slot, r)
    else none

/-! Restoring one member (R335, R359, R379, R384). -/

/-- The workgroup of a record: what the device kept of it, and the header. -/
def State.recWg (s : State) (a slot row : Nat) : WG :=
  let kept := ((s.ctxRecs.find? fun r => r.addr == a).map (·.wg)).getD {}
  { kept with
    grid := s.rdN (a + 8) 4, lin := s.rdN (a + 12) 4, did := s.recDid a, slot, member := s.rdN (a + 3) 1, rowBase := row
    scratch := s.rdN (a + 28) 4, warps := s.rdN (a + 1) 1, regs := s.rdN (a + 7) 1, scales := s.recScales a, held := [] }

/-- One warp goes into a slot: its areas written, its waits taken up again. -/
def State.restoreWarp (s : State) (c slot key a : Nat) (p : WarpAt) : State :=
  match s.freeSlot c (s.recDid a) with
  | none => s
  | some w =>
    let k := s.warpOf p c slot s.nextId key (s.recScales a)
    let cr := s.ctxRecs.find? fun r => r.addr == a
    let gen := ((FMap.get? s.grids (s.rdN (a + 8) 4)).map (·.gsync)).getD 0
    let again := (cr.map fun r => r.gen != gen).getD false
    let frags := k.frags.map fun f => (f.1, { f.2 with
      stall := s.clock
      pc := if again && f.2.inGsync then f.2.pc + 8 else f.2.pc
      st := if again && f.2.inGsync then .ready else f.2.st })
    let kept := cr.bind fun r => r.warps.find? fun q => q.1 == k.wi
    let s := s.bumpId.setWarp c w { k with
      frags, lostBatches := (kept.map (·.2.1)).getD [], pendingFail := kept.bind (·.2.2) }
    let older := p.r - min 32 p.r
    let s := if older = 0 then s else s.wr (s.runRegion c w) (s.rd (p.a + 2144) (32 * older))
    let s := if p.h then s.wr (s.trapFrame c w) (s.rd p.trapAt 640) else s
    let s := if p.gates = 0 then s else s.wr (s.gateFrame c w 0) (s.rd p.gateAt (2688 * p.gates))
    let s := frags.foldl (fun s f => match f.2.st with
      | .parked (.sleep t) => (s.startFetch c w f.1).schedule (max t s.clock) (.sleepExpire c w f.1)
      | .parked .gsync => s.scheduleOnce (s.clock + 1) .gsyncRelease
      | .arrived _ => s
      | _ => s.startFetch c w f.1) s
    let s := if k.parked then s.parkWarp c w k.trapOf k.esc else s
    if w = 63 then s.schedule s.clock .systemHandlerEntry else s

/-- A replay entry. -/
structure Entry6 where
  at_ : Nat
  kind : Nat
  wi : Nat
  pc : U64
  frag : Nat
  word : U64
  no : Nat
  gens : List (BitVec 12)
  svals : List U64
  rcd : Nat
  promise : Nat
  deriving DecidableEq, Repr

def State.entryAt (s : State) (a : Nat) : Entry6 :=
  { at_ := a, kind := s.rdN (a + 8) 1, wi := s.rdN (a + 9) 1, pc := BitVec.ofNat 64 (s.rdN a 8), frag := s.rdN (a + 12) 1
    word := BitVec.ofNat 64 (s.rdN (a + 16) 8), no := s.rdN (a + 10) 2
    gens := (List.range 4).map fun i => BitVec.ofNat 12 (s.rdN (a + 24 + 2 * i) 2)
    svals := (List.range 8).map fun i => BitVec.ofNat 64 (s.rdN (a + 32 + 8 * i) 8)
    rcd := s.rdN (a + 96) 128, promise := fld (s.rdN (a + 224) 8) 0 48 }

/-- The S registers of an instruction's fields a, b, c, c + 1, ... whose values an entry holds (R380). -/
def Instr.sFields : Instr → List Nat
  | .tload _ f | .tstore _ f => sNo f.a :: (List.range 7).map (sNo f.c + ·)
  | .tgather _ f | .tscatter _ f => [sNo f.a, sNo f.c, sNo f.c + 1]
  | .tcopy _ f => [sNo f.a, sNo f.b, sNo f.c]
  | .tfill _ f => [sNo f.a]
  | .arrive _ f | .arrwait _ f => ([f.a, f.b].filter (·.isS)).map sNo
  | .mma _ f | .mread _ f => if f.c.isZero then [] else [sNo f.c]
  | _ => []

/-- The context in which an entry makes its instruction's checks: the captured values in their registers. -/
def State.entryCtx (s : State) (c w : Nat) (e : Entry6) (i : Instr) : Ctx :=
  let fs := (s.warp c w).frags
  let g := if (FMap.get? fs e.frag).isSome then e.frag else ((fs.head?).map (·.1)).getD 0
  let x := Ctx.of s c w g (Instr.head i) false
  let regs := ((Instr.sFields i).zip e.svals).filter fun p => decide (p.1 < 64)
  { x with pc := e.pc, rcd := if e.kind = 1 then some e.rcd else none
           k := { x.k with s := regs.foldl (fun m p => FMap.put m p.1 p.2) x.k.s } }

/-- The matrix plan of a word. -/
def State.matrixPlan (s : State) (x : Ctx) (i : Instr) : Option MPlan :=
  match i with
  | .mwld _ f => some (s.mwldPlan x i f)
  | .mma _ f => some (s.mmaPlan x i f)
  | .mread _ f => some (s.mreadPlan x i f)
  | .mzero _ f => some (s.mzeroPlan x i f)
  | .mhad _ f => some (s.mhadPlan x i f)
  | .mrelease _ f => some (s.mreleasePlan x i f)
  | .mfuseNone _ d => some (s.mfusePlan x i 0 d)
  | .mfuseNpair _ d => some (s.mfusePlan x i 1 d)
  | .mfuseKpair _ d => some (s.mfusePlan x i 2 d)
  | .mfuseQuad _ d => some (s.mfusePlan x i 3 d)
  | _ => none

/-- A replayed MWLD checks the generation it recorded (R298, R359). -/
def staleEntry (x : Ctx) (e : Entry6) : Instr → Option Trap
  | .mwld _ f =>
    let ti := tNo f.a
    if (x.k.getT ti).gen = e.gens.getD 0 0 then none
    else some (x.staleTrap ti (if f.b.isX then xNo f.b else 15))
  | _ => none

/-- A replayed ARRIVE or ARRWAIT arrives with the values it was issued with (R379). -/
def State.replayArrive (s : State) (c w : Nat) (e : Entry6) (i : Instr) : Except Trap State :=
  let x := s.entryCtx c w e i
  let s := s.modFrag c w x.g fun f => { f with pc := e.pc, st := .ready, token := none }
  let r := match i with
    | .arrive _ f => s.barrier x i f 1 (fld (x.uni f.b).toNat 0 16) (x.k.destRegs f.d 1)
    | .arrwait _ f => s.barrier x i f 2 (fld (x.uni f.b).toNat 0 16) []
    | _ => .next s
  match r with
  | .gone s | .goto s _ => .ok s
  | .next s => .ok (s.resume c w x.g)
  | .trap _ t => .error t

/-- An operation enters its queue as one issued in the cycle before its workgroup's first issue. -/
def State.requeue (s : State) (x : Ctx) (o : EOp) : State :=
  let id := s.nextId
  let o := { o with id, rng := o.rng.map (fun r => { r with op := id }), issued := s.clock - 1, again := true }
  let s := s.bumpId.modCore x.c fun k => { k with ops := k.ops ++ [o], rlocks := k.rlocks ++ (if o.isCopy then o.locks else []) }
  s.modWarp x.c x.w fun k => k.lock id (o.xw.map Reg.x ++ k.destRegs o.d 1)

/-- One entry: queued, or its trap. -/
def State.replayOne (s : State) (c w : Nat) (e : Entry6) : Except Trap State :=
  match decodeWord e.word with
  | none => .ok s
  | some i =>
    let x := s.entryCtx c w e i
    if e.kind = 5 then s.replayArrive c w e i
    else if e.kind = 1 then
      match s.copyPlan x i with
      | some (.go o k) =>
        .ok (s.requeue x { o with ticket := e.no, promise := e.promise, cached := k.cached, homes := k.homes
                                  gen := e.gens.getD (if o.kind = 6 then 1 else 0) 0 })
      | some (.trap t _) => .error t
      | _ => .ok s
    else
      match s.matrixPlan x i, staleEntry x e i with
      | some (.error t), _ => .error t
      | some (.ok _), some t => .error t
      | some (.ok o), none =>
        let o := { o with batch := e.no }
        let s := ((s.clearLost x o).requeue x o).issueEffect c o
        .ok (if o.kind = 16 ∧ o.stat = 0 ∧ o.bank ≠ 0 then
            s.modQuads (membersOf o.bank c) fun q => { q with group := (s.wg c x.k.wg).group }
          else s)
      | none, _ => .ok s

/-- A failed entry is delivered to the fragment that issued it, whose PC is the entry's; a parked warp takes it when it next
issues (R379). -/
def State.entryTrap (s : State) (c w : Nat) (e : Entry6) (t : Trap) : State :=
  let g := (s.entryCtx c w e (.nop ⟨0, false, 0⟩)).g
  let s := s.modFrag c w g fun f => { f with pc := e.pc, st := .ready, token := none }
  if (s.warp c w).parked then s.modWarp c w fun k => { k with pendingFail := some (some g, t.rec_) }
  else (s.startFetch c w g).takeTrap c w g t

/-- The entries in recorded order; after a failure the same warp's later ones are dropped (R379), and so is an entry whose warp
had exited before the save (DESIGN CHOICE, log 40). -/
def State.replay (s : State) (c key : Nat) : List Entry6 → List Nat → State
  | [], _ => s
  | e :: r, failed =>
    match (s.warpsOf c key).find? fun p => p.2.wi == e.wi with
    | none => State.replay s c key r failed
    | some (w, _) =>
      if failed.contains e.wi then State.replay s c key r failed
      else
        match s.replayOne c w e with
        | .ok s => State.replay s c key r failed
        | .error t =>
          if e.kind = 6 then State.replay s c key r failed
          else State.replay (s.entryTrap c w e t) c key r (e.wi :: failed)

/-- Masked banks that hold nothing on the restoring quadrant are stamped, and lost (R358). -/
def State.restoreBanks (s : State) (c did mask : Nat) : State :=
  s.modQuad c fun q =>
    let new := (banksOf mask).filter fun b => (FMap.get? q.stamps b).isNone
    { q with stamps := new.foldl (fun m b => FMap.put m b did) q.stamps, lost := new ++ q.lost.filter fun b => !(new.contains b) }

/-- One member is admitted: the state, and the core, the workgroup and the record for its replay. -/
def State.restoreMember (s : State) (c slot row a : Nat) : State × Nat × Nat × Nat :=
  let key := s.nextId
  let g := s.recWg a slot row
  let ws := s.recWarps a
  let lo := row * 1024
  let image := (match ws.getLast? with
    | some p => p.a + s.rdN p.a 4
    | none => a + 256)
  let bytes := s.rd image g.scratch
  let n := s.nextId
  let tickets := (s.recTickets a).zip (List.range 32) |>.map fun t =>
    ({ id := fld t.1 0 16, wg := key, state := fld t.1 16 2, cause := fld t.1 24 8, addr := 0, order := n + t.2, promise := 0 } : Ticket)
  let s : State := { s with nextId := s.nextId + 33 }
  let s := s.modCore c fun k =>
    { k with
      wgs := FMap.put k.wgs key g
      tickets := k.tickets ++ tickets
      scratch := Memory.write (k.scratch.filter fun b => !(decide (lo ≤ b.1) && decide (b.1 < lo + g.scratch))) lo bytes
      badScratch := k.badScratch.filter fun w => !(decide (lo ≤ 4 * w) && decide (4 * w < lo + g.scratch)) }
  let s := s.refreshIcache c
  let s := ws.foldl (fun s p => s.restoreWarp c slot key a p) s
  let s := (s.acquire c slot .pk).restoreBanks c g.did (s.rdN (a + 64) 1)
  (s.reissue c, c, key, a)

/-- A member's replay entries are queued; its record is used up (R335, R359). -/
def State.replayMember (s : State) (m : Nat × Nat × Nat) : State :=
  let a := m.2.2
  let es := (List.range (min 64 (s.rdN (a + 65) 1))).map fun i => s.entryAt (a + 256 + 256 * i)
  let s := (s.replay m.1 m.2.1 es []).kickEngines m.1
  { s.wr a [2] with ctxRecs := s.ctxRecs.filter fun r => r.addr != a }

/-! Restoring a group. -/

/-- Where a group would go on a core: each member with core, slot, row; or why not: 1 no room, 3 no slot. -/
def State.groupRoom (s : State) (base : Nat) (recs : List Nat) : Except Nat (List (Nat × Nat × Nat × Nat)) :=
  let n := s.rdN (recs.headD 0 + 2) 1
  let core (a : Nat) : Nat := if recs.length ≤ 1 ∧ n ≤ 1 then base else base + s.rdN (a + 3) 1
  if recs.any fun a => (s.recSlot (core a) a).isNone then .error 3
  else if 1 < n ∧ base % 4 % n ≠ 0 then .error 1
  else
    recs.foldr (fun a acc => match acc, s.recRoom (core a) a with
      | .ok l, some p => .ok ((a, core a, p.1, p.2) :: l)
      | .error e, _ => .error e
      | _, none => .error 1) (.ok [])

/-- The cores that a target names, in the selector's order: by free warp slots open to the domain (R184, R404). -/
def State.targets (s : State) (core stack : Nat) (any : Bool) (did n : Nat) : List Nat :=
  if !any then [core]
  else if 1 < n then groupBases stack n
  else
    let open_ (c : Nat) : Nat :=
      ((List.range 64).filter fun i => (s.warp? c i).isNone && (if did = 0 then i == 63 else i != 63)).length
    sortBy (fun a b => decide (open_ b ≤ open_ a)) ((List.range 16).map (16 * stack + ·))

/-- The outcome of a restore as things stand: places, or a status and whether the first line decides it. -/
def State.restorePlan (s : State) (a core stack : Nat) (any : Bool) :
    Except (Nat × Bool) (List (Nat × Nat × Nat × Nat)) :=
  let recs := s.recChain 4 a
  match recs.filterMap s.recBad with
  | b :: _ => .error (2, b && (s.recBad a).isSome)
  | [] =>
    if s.recInner a then .error (2, true)
    else
      let tries := (s.targets core stack any (s.recDid a) (s.rdN (a + 2) 1)).map fun b => s.groupRoom b recs
      match tries.findSome? fun t => match t with
        | .ok l => some l
        | .error _ => none with
      | some l => .ok l
      | none => .error (if tries.any fun t => (match t with
          | .error 1 => true
          | _ => false) then 1 else 3, false)

/-- The records' workgroups run again: admitted together, then their entries replayed (R359, R385). What waited in CWAIT for a
record's group waits no more (R417). -/
def State.restoreAll (s : State) (l : List (Nat × Nat × Nat × Nat)) : State :=
  let r := l.foldl (fun (r : State × List (Nat × Nat × Nat)) m =>
    let q := r.1.restoreMember m.2.1 m.2.2.1 m.2.2.2 m.1
    (q.1, r.2 ++ [q.2])) (s, [])
  let s := r.2.foldl State.replayMember r.1
  { s with parkedWgs := s.parkedWgs.filter fun p => !(p.2.members.any fun m => l.any fun q => q.1 == m.2.2) }

def execCtxrst (h : Head) (d a : Opd) (s : State) : Host.Outcome State Fault Refusal :=
  runIsa (.ctxrst h d a) h false s fun x s =>
    let addr := (x.uni a).toNat
    let v := (x.k.getS (sNo a + 1)).toNat
    let core := fld v 0 8
    let stack := fld v 8 4
    let any := core == 0xFF
    x.sysOnly s
      (if fld v 12 52 ≠ 0 ∨ (192 ≤ core ∧ !any) ∨ (any ∧ 11 < stack) then .next (x.putLocked s d 2 4)
       else if addr % 128 ≠ 0 then .next (x.putLocked s d 2 2)
       else
         let first := s.pathFigure (stackOf x.c) addr (s.l2Has addr)
         let lines := ((s.recChain 4 addr).map s.recLines).foldl (· + ·) 0
         match s.restorePlan addr core stack any with
         | .error (st, early) =>
           .next (x.putLocked s d (first + (if early then 0 else lines - 1) + 2) (BitVec.ofNat 64 st))
         | .ok _ =>
           let q := s.ask x d 0 0 0
           let id := q.2.nextId
           let r : Restore := { id, addr, core, any, stack, req := q.1 }
           .next (({ q.2.bumpId with restores := FMap.put q.2.restores id r } : State).schedule (s.clock + first + lines)
             (.cwaitWorkgroupRestore id)))

/-- A group parked in CWAIT whose children have retired goes to a core of the stack it left, by the core selector, or else to
another candidate stack, lower levels first (R179, R404, R406); while there is no room, or another function has its turn, it
tries again. -/
def State.unparkGroup (s : State) (p : Parked) : State :=
  let recs := p.members.map fun m => m.2.2
  let n := s.rdN (recs.headD 0 + 2) 1
  let home := stackOf (((p.members.head?).map (·.1)).getD 0)
  let others := sortBy (fun a b => decide (s.level a ≤ s.level b)) ((List.range 12).filter (· != home))
  let open_ (b : Nat) : Bool := (groupCores b (max 1 n)).all fun c => s.partHas p.part c
  let tries := ((home :: others).filter fun k => decide (s.level k < 4)).flatMap fun k => (s.targets 0 k true p.did n).filter open_
  match if s.offTurnOf p.did p.part then none else tries.findSome? fun b => (s.groupRoom b recs).toOption with
  | none => s.schedule (s.clock + 1) (.cwaitWorkgroupRestore p.id)
  | some l =>
    let s := s.restoreAll l
    { s with parkedWgs := FMap.drop s.parkedWgs p.id }

/-- A restore comes to its end: a CTXRST's, or a group's whose children have retired. -/
def execCwaitWorkgroupRestore (id : Nat) (s : State) : Host.Outcome State Fault Refusal :=
  match FMap.get? s.restores id with
  | some r =>
    let s : State := { s with restores := FMap.drop s.restores id }
    match s.restorePlan r.addr r.core r.stack r.any with
    | .error (st, _) => .next (s.answer r.req st)
    | .ok l => .next ((s.restoreAll l).answer r.req (((l.head?).map fun m => m.2.1 % 16).getD 0 * 2 ^ 8))
  | none =>
    match FMap.get? s.parkedWgs id with
    | none => .next s
    | some p => .next (if (s.cwaitStatus p.kids).isSome then s.unparkGroup p else s)

end Sys2Proof.Machine
end

