-- ==== Sys2Proof/Machine/Sched.lean ====
section
/-! DEFINITION. Kicks, time slices and function-level resets (R411, R428 to R430, R445). -/

namespace Sys2Proof.Machine

/-! Functions. -/

def State.vfcfg (s : State) (fn : Nat) : Nat := (s.sysReg 0x400 fn).toNat

/-- The function is open: the physical one always, a virtual one by its en (R411). -/
def State.fnOpen (s : State) (fn : Nat) : Bool := fn == 512 || (decide (fn < 512) && (s.vfcfg fn).testBit 63)

/-- The domain and partition a function launches in (R429). -/
def State.fnDid (s : State) (fn : Nat) : Nat := if fn = 512 then 0 else fld (s.vfcfg fn) 0 10
def State.fnPart (s : State) (fn : Nat) : Nat := if fn = 512 then 64 else fld (s.vfcfg fn) 16 6

/-- The function is scheduled now (R429). -/
def State.fnRuns (s : State) (fn : Nat) : Bool :=
  s.fnOpen fn && (fn == 512 || !((s.vfcfg fn).testBit 24) || (s.part (s.fnPart fn)).running == some fn)

/-! What the host reads (R10, R428, R443, R448, R456). -/

/-- Eight bytes of a function's BAR0 as a read gives them: write-only and reserved fields are 0, and so is what the function's
page does not hold. -/
def State.barRead (s : State) (fn off : Nat) : Nat :=
  let f := s.func fn
  let o := off - 0x1000
  if off < 0x1000 then (if off % 64 = 8 then ((FMap.get? f.slots (off / 64)).map (·.toNat)).getD 0 else 0)
  else if off < 0x2000 then
    if o = 0x10 then b2n f.busy + b2n f.lost * 2 + f.done % 2 ^ 32 * 2 ^ 32
    else if o = 0x18 then
      b2n ((s.vfcfg fn).testBit 63) + b2n ((s.vfcfg fn).testBit 63 && s.fnRuns fn) * 2 + ((List.range 64).filter f.pend.getLsbD).length * 2 ^ 32
    else if o = 0x20 then f.retired % 2 ^ 64
    else if fn ≠ 512 then 0
    else if o = 0x28 then s.winBase2.toNat
    else if o = 0x30 then b2n s.winCtl
    else if o = 0x100 then s.peerLocal.toNat
    else if 0x200 ≤ o ∧ o < 0x300 then (FMap.getD s.routes ((o - 0x200) / 8) 0).toNat
    else if 0x400 ≤ o ∧ o < 0x600 then (FMap.getD s.inb ((o - 0x400) / 8) 0).toNat
    else 0
  else if fn ≠ 512 then 0
  else if off = 0x2000 then s.mailCmd.toNat
  else if off = 0x2008 then s.mailStatus.toNat
  else if 0x2010 ≤ off ∧ off < 0x3000 then ofBytes ((s.mailBuf.drop (off - 0x2010)).take 8)
  else 0

/-- The host reads bytes of a function's BAR0, of 8 KiB or for the physical function 64 KiB (R442). -/
def State.hostRead (s : State) (fn off size : Nat) : State :=
  if 512 < fn ∨ (if fn = 512 then 0x10000 else 0x2000) < off + size then s
  else
    let byte (i : Nat) : Byte := BitVec.ofNat 8 (s.barRead fn (i / 8 * 8) / 2 ^ (8 * (i % 8)))
    { s with hostGot := s.hostGot ++ [(2 ^ 60 + 65536 * fn + off, (List.range size).map fun i => byte (off + i))] }

/-! Kicks (R428, R429). -/

/-- A write to a kick page: latched, or dropped and counted. -/
def execKick (fn off size : Nat) (value : U64) (s : State) : Host.Outcome State Fault Refusal :=
  let slot := off / 64
  let good := decide (off < 4096) && off % 64 == 0 && size == 8 && value.toNat % 128 == 0 && fld value.toNat 57 7 == 0
    && s.fnOpen fn && (FMap.get? (s.func fn).slots slot).isNone
  if 512 < fn then .next s
  else if !good then .next (s.count 0x706 0 1)
  else
    let runs := s.fnRuns fn
    let s := s.modFunc fn fun f =>
      { f with slots := FMap.put f.slots slot value, pend := if runs then f.pend else f.pend ||| BitVec.ofNat 64 (2 ^ slot) }
    .next (s.schedule s.clock (if runs then .kickTaken fn slot else .vfTurnEnd))

/-- The lowest latched kick of a scheduled function takes an entry, once its record can be read; the record is checked (R429). -/
def execKickTaken (fn slot : Nat) (s : State) : Host.Outcome State Fault Refusal :=
  let did := s.fnDid fn
  match (s.func fn).slots with
  | [] => .next s
  | (low, va) :: more =>
    if !(s.fnRuns fn) then .next s
    else if s.queueEntry did 0 ≠ some 0 then .next s
    else
      let r := s.domGet did (s.fnPart fn) va.toNat 128
      let took := r.2.modFunc fn fun f => { f with slots := more, pend := f.pend &&& ~~~(BitVec.ofNat 64 (2 ^ low)) }
      let next (s : State) : State := if more.isEmpty then s else s.schedule (s.clock + 1) (.kickTaken fn slot)
      match r.1 with
      | .wait t => .next (r.2.schedule t (.kickTaken fn slot))
      | .fail => .next (next (took.count 0x706 0 1))
      | .ok rcd =>
        .next (next (if recordBad rcd then took.count 0x706 0 1 else took.enqueue rcd did (s.fnPart fn) (some fn) none 0 0))

/-! Time slices (R411, R430). -/

/-- The enabled time-sliced functions of a partition, ascending. -/
def State.sliced (s : State) (p : Nat) : List Nat :=
  (List.range 512).filter fun f => (s.vfcfg f).testBit 63 && (s.vfcfg f).testBit 24 && fld (s.vfcfg f) 16 6 == p

/-- A function has a latched kick, a queued grid or a saved record. -/
def State.fnWork (s : State) (fn : Nat) : Bool :=
  let f := s.func fn
  !f.slots.isEmpty || !f.saved.isEmpty || s.grids.any fun g => g.2.did == s.fnDid fn && g.2.part == s.fnPart fn

/-- Saved records of the running function go back in their order, as far as there is room (R430). -/
def State.restoreSaved (s : State) (p fn : Nat) : List Nat → State
  | [] => s
  | a :: r =>
    let recs := s.recChain 4 a
    let n := s.rdN (a + 2) 1
    let bases := if 1 < n then (List.range 12).flatMap fun k => groupBases k n else s.partCores p
    let okAll (b : Nat) : Bool := n ≤ 1 || (groupCores b n).all fun c => (s.partCores p).contains c
    if recs.any fun q => (s.recBad q).isSome then
      State.restoreSaved (s.modFunc fn fun f => { f with saved := f.saved.filter (· != a) }) p fn r
    else
      match (bases.filter okAll).findSome? fun b => match s.groupRoom b recs with
          | .ok l => some l
          | .error _ => none with
      | none => s
      | some l => State.restoreSaved ((s.restoreAll l).modFunc fn fun f => { f with saved := f.saved.filter (· != a) }) p fn r

/-- The running function's saved records go back as far as there is room; while some still wait, they are tried again every cycle of
its turn (R430). -/
def State.retrySaved (s : State) (p fn : Nat) : State :=
  let s := s.restoreSaved p fn (s.func fn).saved
  if (s.func fn).saved.isEmpty then s else s.scheduleOnce (s.clock + 1) .vfTurnEnd

/-- A function's turn begins: saved records, latched kicks, placements. -/
def State.startTurn (s : State) (p fn : Nat) : State :=
  let s := s.modPart p fun q => { q with running := some fn, after := none, turnEnd := s.clock + (s.sysReg 0x402 fn).toNat }
  let s := s.retrySaved p fn
  let s := match (s.func fn).slots with
    | [] => s
    | sl :: _ => s.schedule s.clock (.kickTaken fn sl.1)
  (s.pokePart p).schedule (s.clock + max 1 (s.sysReg 0x402 fn).toNat) .vfTurnEnd

/-- The functions of a partition in turn order after one of them. -/
def turnOrder (l : List Nat) (f : Nat) : List Nat := l.filter (fun g => decide (f < g)) ++ l.filter fun g => decide (g ≤ f)

/-- A partition's turns: nothing runs, a turn is over, or saved records still wait for room. -/
def State.partTurn (s : State) (p : Nat) : State :=
  let l := s.sliced p
  let q := s.part p
  let saving := s.preempts.any fun j => j.2.kind == 2 && j.2.part == p
  if l.isEmpty then (if q.running.isSome ∨ q.after.isSome then s.modPart p fun q => { q with running := none, after := none } else s)
  else if saving then s
  else
    match q.after, q.running with
    | some f, _ => s.startTurn p (((turnOrder l f).find? s.fnWork).getD f)
    | none, none => s.startTurn p ((l.find? s.fnWork).getD (l.headD 0))
    | none, some f =>
      if !(l.contains f) then s.startTurn p (((turnOrder l f).find? s.fnWork).getD (l.headD 0))
      else if q.turnEnd ≤ s.clock then
        if !(l.any fun g => g != f && s.fnWork g) then
          let t := max 1 (s.sysReg 0x402 f).toNat
          ((s.modPart p fun q => { q with turnEnd := s.clock + t }).schedule (s.clock + t) .vfTurnEnd).retrySaved p f
        else
          let s := s.modPart p fun q => { q with running := none, after := some f }
          let cores := (List.range 192).filter fun c => s.inPart p c && !(s.fuseCore.contains c)
          s.startJob { Preempt.blank 2 (s.fnDid f) with part := p, fn := f } cores (cores.headD 0)
      else s.retrySaved p f

/-- Turns that are due end, and turns that may begin do (R411, R430). -/
def execVfTurnEnd (s : State) : Host.Outcome State Fault Refusal := .next ((List.range 48).foldl State.partTurn s)

/-! Function-level reset (R445). -/

/-- A saved record's workgroup ends by system software: the record is invalid, and it counts as having exited. -/
def State.endSaved (s : State) (r : CtxRec) : State :=
  let s : State := { s.wr r.addr [3] with ctxRecs := s.ctxRecs.filter fun q => q.addr != r.addr }
  (r.wg.grid :: r.wg.withdrawn).foldl (fun s id => match FMap.get? s.grids id with
    | none => s
    | some g => (s.setGrid { g with exited := g.exited + 1, ended := g.ended || id == r.wg.grid }).schedule s.clock
        (.gridRetire id)) s

/-- A grid ends as by system software, wherever its workgroups stand. -/
def State.killGrid (s : State) (id : Nat) : State :=
  match FMap.get? s.grids id with
  | none => s
  | some g =>
    let s := s.endGrid g
    let mine := s.cores.flatMap fun c => (c.2.wgs.filter fun w => w.2.grid == id).map fun w => (c.1, w.1)
    let s := mine.foldl (fun s m => s.endGroup m.1 m.2) s
    let s : State := { s with parkedWgs := s.parkedWgs.filter fun p => p.2.grid != id }
    (s.ctxRecs.filter fun r => r.wg.grid == id && s.rdN r.addr 1 % 4 == 1).foldl State.endSaved s

def execFunctionLevelReset (fn : Nat) (s : State) : Host.Outcome State Fault Refusal :=
  if 512 ≤ fn then .next s
  else
    let did := s.fnDid fn
    let s := s.setSys 0x400 fn ((s.sysReg 0x400 fn) &&& 0x7FFFFFFFFFFFFFFF)
    let s := s.modFunc fn fun f => { f with slots := [], pend := 0, saved := [] }
    let gs := (s.grids.filter fun g => g.2.did == did).map (·.1)
    .next ((gs.foldl State.killGrid s).schedule s.clock .vfTurnEnd)

end Sys2Proof.Machine
end

