-- ==== Sys2Proof/Machine/Cycle.lean ====
section
/-! DEFINITION. The parts of a step: what comes from outside, the passing of a cycle, placing a word to run (DESIGN CHOICE, log 1). -/

namespace Sys2Proof.Machine

/-- The steps that the outside world makes: the host, peers, the sensors' and units' own signals, failures. -/
def Instr.fromOutside : Instr → Bool
  | .atsTranslationResponse _ _ _ _ | .atsInvalidationRequest _ _ _ | .priResponse _ _ _ | .kick _ _ _ _
  | .linkFailure _ _ | .rdreq _ _ | .rdresp _ _ | .write _ _ | .atomic _ _ | .atomresp _ _ | .ack _ _ | .nak _ _
  | .mrwrite _ _ | .transportPacketDiscard _ _ | .bar2Access _ _ _ _ | .invcnt _ _ | .invstatLostClear _
  | .registerWrite _ _ _ | .functionLevelReset _ | .unitReady _ _ | .uncorrectableError _ | .correctedError _ _
  | .patrolScrub | .load | .attest | .reset | .packageReset => true
  | _ => false

/-- What is due of the outside world's doings: the head of the inbox. -/
def State.inboxDue (s : State) : Option (Input × State) :=
  match s.inbox with
  | [] => none
  | (t, x) :: r => if t ≤ s.clock then some (x, { s with inbox := r }) else none

/-- What is due of the device's own steps: the head of the agenda, up to a time. -/
def State.agendaDue (s : State) (t : Nat) : Option (Instr × State) :=
  match s.agenda with
  | [] => none
  | (u, i) :: r => if u ≤ t then some (i, { s with agenda := r }) else none

/-- A doing of the outside world that is no step of the device: its effect. -/
def State.takeInput (s : State) : Input → State
  | .act _ => s
  | .heat k r => s.modStack k fun st => { st with sensors := r }
  | .hostStore a b => { s with hostMem := s.hostMem.write a b }
  | .hostRead fn off n => s.hostRead fn off n

/-- Every quarter has had its opportunity in this cycle. -/
def State.endIssue (s : State) : State := { s with turn := 4 * 192, issuer := none }

/-- An eligible cycle passes: what issued before it was not in the previous eligible cycle (R187). -/
def State.agePrevious (s : State) : FMap Core :=
  s.cores.map fun c =>
    (c.1, if c.2.last.isEmpty || !(s.eligibleAt (stackOf c.1) s.clock) then c.2
          else { c.2 with last := c.2.last.filter fun q => q.2.1 == s.clock })

/-- The next cycle begins: warps that are done exit (R144), and every 4,096 cycles a sample comes first (R337). -/
def State.tick (s : State) : State :=
  let s := s.reap
  let t := s.clock + 1
  { s with
    clock := t, turn := 0, issuer := none, cores := s.agePrevious
    agenda :=
      if t % 4096 = 0 then
        (s.agenda.filter fun a => decide (a.1 < 2 * t)) ++ (2 * t, .clocheSample) :: s.agenda.filter fun a => decide (2 * t ≤ a.1)
      else s.agenda }

/-- What is fetched for the fragment that issues: its instruction, or none for a word that decode refuses (R46, R47). -/
def State.fetched (s : State) (c w g : Nat) : Option Instr := (s.frag c w g).word.bind decodeWord

/-! Placing a word (DESIGN CHOICE, log 5). -/

/-- The warp that a placed word runs in: the system warp of core 0, ready to issue the word at address 0. -/
def placedWarp (s : State) (w : U64) : Warp :=
  { uid := s.nextId, wg := s.nextId + 1, wi := 0, alloc := 16, age := s.clock,
    gen := Lanes.build fun l => genSeed 0 0 0 l,
    frags := [(0, { pc := 0, exec := BitVec.allOnes 32, memb := BitVec.allOnes 32, prio := 3, age := s.clock,
                    promoted := true, stall := s.clock, word := some w })] }

/-- Core 0 with that warp in slot 63; the other fragments of its quarter wait a cycle. -/
def placedCore (s : State) (w : U64) (k : Core) : Core :=
  let later := k.warps.map fun p => (p.1, { p.2 with frags := p.2.frags.map fun f => (f.1, { f.2 with stall := max f.2.stall (s.clock + 1) }) })
  { k with
    warps := FMap.put later 63 (placedWarp s w)
    wgs := FMap.put k.wgs (s.nextId + 1) { did := 0, slot := 0, warps := 1, regs := 16, rowBase := 0 } }

/-- A word placed at address 0, to issue in the next step. -/
def State.placeWord (s : State) (w : U64) : State :=
  let t := s.clock + 1
  let s := { s with
    cores := FMap.put s.cores 0 (placedCore s w (s.core 0))
    mem := s.mem.write 0 (toBytes 8 w.toNat)
    nextId := s.nextId + 2, turn := 3, issuer := none
    inbox := s.inbox.map fun (x : Nat × Input) => (max x.1 t, x.2)
    agenda := s.agenda.map fun (x : Nat × Instr) => (max x.1 (2 * t), x.2) }
  s.modStack 0 fun k => { k with level := 0 }

end Sys2Proof.Machine
end

