-- ==== Sys2Proof/Machine/Cloche.lean ====
section
/-! DEFINITION. Cloche: samples, levels, forced traces, refresh (R251, R337, R347 to R354, R453). -/

namespace Sys2Proof.Machine

/-! Readings (R347, R348). -/

/-- One sensor of a reading, in 1/16 °C: 0 base, 1 to 3 DRAM. -/
def sensor (r : U64) (i : Nat) : Int := sextN 16 (fld r.toNat (16 * i) 16)

/-- The largest DRAM reading. -/
def dramMax (r : U64) : Int := max (sensor r 1) (max (sensor r 2) (sensor r 3))

/-- A reading above a trip point. -/
def tripped (r : U64) : Bool := decide (sensor r 0 > 1920) || decide (dramMax r > 1680)

/-- The highest level whose entry condition holds; d' the previous sample's D. -/
def entryLevel (r : U64) (d' : Int) : Nat :=
  let b := sensor r 0
  let d := dramMax r
  if tripped r then 4
  else if d > 1520 then 3
  else if b > 1680 ∨ (d > 1472 ∧ d > d') then 2
  else if d > 1360 then 1 else 0

/-- The highest level whose hold condition holds. -/
def holdLevel (r : U64) : Nat :=
  if tripped r then 4
  else if dramMax r > 1520 then 3
  else if sensor r 0 > 1680 ∨ dramMax r > 1472 then 2
  else if dramMax r > 1360 then 1 else 0

/-- The cause recorded with a rise (R352). -/
def riseCause (used real : U64) (forced : Bool) (level : Nat) : Nat :=
  if level = 4 then (if tripped real ∨ !forced then 6 else 5)
  else if level = 3 then 4
  else if level = 2 then (if sensor used 0 > 1680 then 3 else 2)
  else 1

/-- The forced readings of a sample (R353). -/
def State.forcedReading (s : State) (k n : Nat) : U64 :=
  let c := (s.sysReg 0x108 k).toNat
  s.sysReg (0x120 + min (fld c 8 6 - 1) (n - fld c 32 32)) k

/-- The bin of a D in DHIST (R453). -/
def dBin (d : Int) : Nat := if d < 672 then 0 else min 31 ((d - 640) / 32).toNat

/-! The sample (R349, R353, R354). -/

def State.sampleStack (s : State) (k : Nat) : State :=
  let s := s.spendLevel k
  let st := s.stack k
  let forced := (s.sysReg 0x108 k).getLsbD 0
  let real := st.sensors
  let used := if forced then s.forcedReading k (s.clock / 4096) else real
  let d := dramMax used
  let d' := if st.sampled then sextN 16 st.dprev.toNat else d
  let up := if tripped real then 4 else entryLevel used d'
  let hold := if tripped real then 4 else holdLevel used
  let s := (s.count (0x720 + dBin d) k 1).count (0x740 + min 15 (Config.columnPower k (s.clock / 4096) / 20)) k 1
  let st := { st with frc := forced, reading := used, real := real, dprev := BitVec.ofInt 16 d, sampled := true }
  let dst (l cause : Nat) : Stack :=
    { st with level := l, low := false, cause, since := BitVec.ofNat 32 (s.clock / 4096) }
  let st :=
    if st.level < up then dst up (riseCause used real forced up)
    else if st.level ≤ hold then { st with low := false }
    else if !st.low then { st with low := true }
    else dst hold 0
  s.modStack k fun _ => { st with atLevel := FMap.put st.atLevel st.level (FMap.getD st.atLevel st.level 0 + 1) }

/-- The refresh period of a level (R251, R350). -/
def refreshPeriod (l : Nat) : Nat := if l = 0 then 12800 else if l ≤ 2 then 6400 else 3200

/-- The refreshes of a stack that begin before the next sample: cycle and channel. -/
def State.refreshes (s : State) (k : Nat) : List (Nat × Nat) :=
  let p := refreshPeriod (s.level k)
  if 4 ≤ s.level k then []
  else (List.range 64).flatMap fun c =>
    let first := s.clock + (p - (s.clock + 200 * c) % p) % p
    ([first, first + p].filter fun t => decide (t < s.clock + 4096)).map fun t => (t, c)

/-- Every stack is sampled (R337); the refreshes up to the next sample follow from the levels. -/
def execClocheSample (s : State) : Host.Outcome State Fault Refusal :=
  if s.clock % 4096 ≠ 0 then .next s
  else
    let s := (List.range 12).foldl State.sampleStack s
    let all := (List.range 12).flatMap fun k => (s.refreshes k).map fun r => (r.1, Instr.refreshStart k r.2)
    let now := (all.filter fun r => r.1 == s.clock).map fun r => (2 * s.clock, r.2)
    let later := all.filter fun r => r.1 != s.clock
    .next (later.foldl (fun s r => s.schedule r.1 r.2) { s with agenda := now ++ s.agenda })

/-- A channel refreshes for 128 cycles (R251). -/
def execRefreshStart (stack chan : Nat) (s : State) : Host.Outcome State Fault Refusal :=
  let l := s.level stack
  if 4 ≤ l ∨ (s.clock + 200 * chan) % refreshPeriod l ≠ 0 then .next s
  else
    .next ((s.modStack stack fun k => { k with refresh := FMap.put k.refresh chan (s.clock + 128) }).schedule
      (s.clock + 128) (.refreshEnd stack chan))

def execRefreshEnd (stack chan : Nat) (s : State) : Host.Outcome State Fault Refusal :=
  .next (s.modStack stack fun k =>
    { k with refresh := k.refresh.filter fun r => r.1 != chan || decide (s.clock < r.2) })

/-! Writes that take effect at a sample (R352, R353). -/

def execFctl (stack : Nat) (value : U64) (req : Nat) (s : State) : Host.Outcome State Fault Refusal :=
  let v := value.toNat
  let bad := (v.testBit 0 && (fld v 8 6 == 0 || decide (32 < fld v 8 6))) || fld v 1 7 != 0 || fld v 14 18 != 0
  .next (s.plainWrite 0x108 stack value req bad)

def execFtrace (stack i : Nat) (value : U64) (req : Nat) (s : State) : Host.Outcome State Fault Refusal :=
  .next (s.plainWrite (0x120 + i) stack value req false)

end Sys2Proof.Machine
end

