-- ==== Sys2Proof/Machine/IntAlu.lean ====
section
/-! DEFINITION. Integer arithmetic, logic, shifts, bit fields, comparison and selection, constants (R98 to R111). -/

namespace Sys2Proof.Machine

/-- A latency with its lane pattern (R40). -/
def bpLat (f : FmtA) (n : Nat) : Nat := if f.bp = 0 then n else n + 1

/-! Results on w-bit patterns. -/

def addI (sat : Bool) (t : Ty) (a b : Nat) : Nat := narrowInt t sat (intOf t a + intOf t b)
def subI (sat : Bool) (t : Ty) (a b : Nat) : Nat := narrowInt t sat (intOf t a - intOf t b)
def mulI (t : Ty) (a b : Nat) : Nat := narrowInt t false (intOf t a * intOf t b)

/-- The upper w bits of the exact product (R98). -/
def mulhI (t : Ty) (a b : Nat) : Nat :=
  wrapN (tyWidth t) (intOf t a * intOf t b / ((2 ^ tyWidth t : Nat) : Int))

/-- Quotient and remainder (R60, R99). -/
def divI (t : Ty) (a b : Nat) : Nat :=
  if b = 0 then 2 ^ tyWidth t - 1 else wrapN (tyWidth t) (Int.tdiv (intOf t a) (intOf t b))
def remI (t : Ty) (a b : Nat) : Nat :=
  if b = 0 then 2 ^ tyWidth t - 1 else wrapN (tyWidth t) (Int.tmod (intOf t a) (intOf t b))

def minI (t : Ty) (a b : Nat) : Nat := if intOf t a ≤ intOf t b then a else b
def maxI (t : Ty) (a b : Nat) : Nat := if intOf t a ≤ intOf t b then b else a

/-- Shifts and the rotate by a 32-bit count (R105). -/
def shlI (t : Ty) (a n : Nat) : Nat := if tyWidth t ≤ n then 0 else a * 2 ^ n % 2 ^ tyWidth t
def shrI (t : Ty) (a n : Nat) : Nat := if tyWidth t ≤ n then 0 else a / 2 ^ n
def sraI (t : Ty) (a n : Nat) : Nat :=
  wrapN (tyWidth t) (sextN (tyWidth t) a / ((2 ^ min n (tyWidth t - 1) : Nat) : Int))
def rotI (right : Bool) (t : Ty) (a n : Nat) : Nat :=
  let w := tyWidth t
  let k := if right then (w - n % w) % w else n % w
  if k = 0 then a else a * 2 ^ k % 2 ^ w + a / 2 ^ (w - k)

/-- Field extract and insert (R106). -/
def bfxI (t : Ty) (a pos len : Nat) : Nat :=
  let w := tyWidth t
  if w ≤ pos ∨ len = 0 then 0
  else
    let n := min len (w - pos)
    let v := fld a pos n
    if tySigned t then wrapN w (sextN n v) else v
def bfiI (t : Ty) (a b pos len : Nat) : Nat :=
  let w := tyWidth t
  if w ≤ pos ∨ len = 0 then a else setFld a pos (min len (w - pos)) b

/-- The byte dot product (R102). -/
def dot4I (sgn sat : Bool) (a b c : Nat) : Nat :=
  let u : Ty := if sgn then .s32 else .z32
  let by_ (x i : Nat) : Int := if sgn then sextN 8 (fld x (8 * i) 8) else (fld x (8 * i) 8 : Nat)
  narrowInt u sat ((List.range 4).foldl (fun r i => r + by_ a i * by_ b i) (intOf u c))

/-! Effects: where results go. -/

/-- One source. -/
def effI1 (lat : Nat) (op : Ty → Nat → Nat) (x : Ctx) (f : FmtA) (s : State) : State :=
  let t := tyOr f.ty .s32
  x.wr s f.d t (bpLat f lat) fun l => op t (x.pat t f.a l)

/-- Two sources. -/
def effI2 (lat : Nat) (op : Ty → Nat → Nat → Nat) (x : Ctx) (f : FmtA) (s : State) : State :=
  let t := tyOr f.ty .s32
  x.wr s f.d t (bpLat f lat) fun l => op t (x.pat t f.a l) (x.patB t f l)

/-- A source and a 32-bit count. -/
def effIc (lat : Nat) (op : Ty → Nat → Nat → Nat) (x : Ctx) (f : FmtA) (s : State) : State :=
  let t := tyOr f.ty .s32
  x.wr s f.d t (bpLat f lat) fun l => op t (x.pat t f.a l) (x.cntB f l)

/-! Meanings. -/

def execIadd (h : Head) (f : FmtA) (s : State) : Host.Outcome State Fault Refusal :=
  runIsa (.iadd h f) h false s fun x s => .next (effI2 2 (addI (f.flags.getLsbD 0)) x f s)

def execIsub (h : Head) (f : FmtA) (s : State) : Host.Outcome State Fault Refusal :=
  runIsa (.isub h f) h false s fun x s => .next (effI2 2 (subI (f.flags.getLsbD 0)) x f s)

def execImul (h : Head) (f : FmtA) (s : State) : Host.Outcome State Fault Refusal :=
  runIsa (.imul h f) h false s fun x s => .next (effI2 4 mulI x f s)

def execImulh (h : Head) (f : FmtA) (s : State) : Host.Outcome State Fault Refusal :=
  runIsa (.imulh h f) h false s fun x s => .next (effI2 4 mulhI x f s)

def execImad (h : Head) (f : FmtA) (s : State) : Host.Outcome State Fault Refusal :=
  runIsa (.imad h f) h false s fun x s =>
    let t := tyOr f.ty .s32
    .next (x.wr s f.d t (bpLat f 4) fun l =>
      narrowInt t (f.flags.getLsbD 0)
        (intOf t (x.pat t f.a l) * intOf t (x.patB t f l) + intOf t (x.pat t f.c l)))

def execIdiv (h : Head) (f : FmtA) (s : State) : Host.Outcome State Fault Refusal :=
  runIsa (.idiv h f) h false s fun x s => .next (effI2 12 divI x f s)

def execIrem (h : Head) (f : FmtA) (s : State) : Host.Outcome State Fault Refusal :=
  runIsa (.irem h f) h false s fun x s => .next (effI2 12 remI x f s)

def execIabs (h : Head) (f : FmtA) (s : State) : Host.Outcome State Fault Refusal :=
  runIsa (.iabs h f) h false s fun x s =>
    .next (effI1 2 (fun t a => narrowInt t (f.flags.getLsbD 0) ((intOf t a).natAbs : Int)) x f s)

def execIneg (h : Head) (f : FmtA) (s : State) : Host.Outcome State Fault Refusal :=
  runIsa (.ineg h f) h false s fun x s =>
    .next (effI1 2 (fun t a => narrowInt t (f.flags.getLsbD 0) (-(intOf t a))) x f s)

def execImin (h : Head) (f : FmtA) (s : State) : Host.Outcome State Fault Refusal :=
  runIsa (.imin h f) h false s fun x s => .next (effI2 2 minI x f s)

def execImax (h : Head) (f : FmtA) (s : State) : Host.Outcome State Fault Refusal :=
  runIsa (.imax h f) h false s fun x s => .next (effI2 2 maxI x f s)

def execIand (h : Head) (f : FmtA) (s : State) : Host.Outcome State Fault Refusal :=
  runIsa (.iand h f) h false s fun x s => .next (effI2 2 (fun _ a b => a &&& b) x f s)

def execIor (h : Head) (f : FmtA) (s : State) : Host.Outcome State Fault Refusal :=
  runIsa (.ior h f) h false s fun x s => .next (effI2 2 (fun _ a b => a ||| b) x f s)

def execIxor (h : Head) (f : FmtA) (s : State) : Host.Outcome State Fault Refusal :=
  runIsa (.ixor h f) h false s fun x s => .next (effI2 2 (fun _ a b => a ^^^ b) x f s)

def execInot (h : Head) (f : FmtA) (s : State) : Host.Outcome State Fault Refusal :=
  runIsa (.inot h f) h false s fun x s => .next (effI1 2 (fun t a => 2 ^ tyWidth t - 1 - a) x f s)

def execIshl (h : Head) (f : FmtA) (s : State) : Host.Outcome State Fault Refusal :=
  runIsa (.ishl h f) h false s fun x s => .next (effIc 2 shlI x f s)

def execIshr (h : Head) (f : FmtA) (s : State) : Host.Outcome State Fault Refusal :=
  runIsa (.ishr h f) h false s fun x s => .next (effIc 2 shrI x f s)

def execIsra (h : Head) (f : FmtA) (s : State) : Host.Outcome State Fault Refusal :=
  runIsa (.isra h f) h false s fun x s => .next (effIc 2 sraI x f s)

def execIrot (h : Head) (f : FmtA) (s : State) : Host.Outcome State Fault Refusal :=
  runIsa (.irot h f) h false s fun x s => .next (effIc 2 (rotI (f.flags.getLsbD 0)) x f s)

def execIbfx (h : Head) (f : FmtA) (s : State) : Host.Outcome State Fault Refusal :=
  runIsa (.ibfx h f) h false s fun x s =>
    let t := tyOr f.ty .s32
    .next (x.wr s f.d t (bpLat f 2) fun l => bfxI t (x.pat t f.a l) (x.cntB f l) (x.cnt f.c l))

def execIbfi (h : Head) (f : FmtA) (s : State) : Host.Outcome State Fault Refusal :=
  runIsa (.ibfi h f) h false s fun x s =>
    let t := tyOr f.ty .s32
    .next (x.wr s f.d t (bpLat f 2) fun l =>
      bfiI t (x.pat t f.a l) (x.patB t f l) (fld (x.cnt f.c l) 0 8) (fld (x.cnt f.c l) 8 8))

def execIpopc (h : Head) (f : FmtA) (s : State) : Host.Outcome State Fault Refusal :=
  runIsa (.ipopc h f) h false s fun x s => .next (effI1 2 (fun t a => popN (tyWidth t) a) x f s)

def execIclz (h : Head) (f : FmtA) (s : State) : Host.Outcome State Fault Refusal :=
  runIsa (.iclz h f) h false s fun x s => .next (effI1 2 (fun t a => clzN (tyWidth t) a) x f s)

def execIbrev (h : Head) (f : FmtA) (s : State) : Host.Outcome State Fault Refusal :=
  runIsa (.ibrev h f) h false s fun x s => .next (effI1 2 (fun t a => revN (tyWidth t) a) x f s)

def execIcmp (h : Head) (f : FmtA) (s : State) : Host.Outcome State Fault Refusal :=
  runIsa (.icmp h f) h false s fun x s =>
    let t := tyOr f.ty .s32
    .next (x.wrTest s f.d (bpLat f 2) fun l => condInt t f.flags.toNat (x.pat t f.a l) (x.patB t f l))

/-- ISEL without a type zero-extends into an S destination (R109; DESIGN CHOICE, log 50). -/
def execIsel (h : Head) (f : FmtA) (s : State) : Host.Outcome State Fault Refusal :=
  runIsa (.isel h f) h false s fun x s =>
    let t := tyOr f.ty .z32
    .next (x.wr s f.d t (bpLat f 2) fun l => if (x.mask f.c).getLsbD l then x.pat t f.a l else x.patB t f l)

/-- The sum with carry in, of w-bit patterns (R101). -/
def carrySum (x : Ctx) (t : Ty) (f : FmtA) (l : Nat) : Nat :=
  x.pat t f.a l + x.patB t f l + b2n ((x.mask f.c).getLsbD l)

def execIaddc (h : Head) (f : FmtA) (s : State) : Host.Outcome State Fault Refusal :=
  runIsa (.iaddc h f) h false s fun x s =>
    let t := tyOr f.ty .z32
    let s := x.wr s f.d t (bpLat f 2) fun l => carrySum x t f l % 2 ^ tyWidth t
    let lanes := if f.d.isS then maskOf (fun l => l == x.low) else x.act
    let carry := maskOf fun l => decide (2 ^ tyWidth t ≤ carrySum x t f l)
    .next ({ x with act := lanes }.put s f.c false (bpLat f 2) (fun _ => 0) carry.toNat)

def execIdot4 (h : Head) (f : FmtA) (s : State) : Host.Outcome State Fault Refusal :=
  runIsa (.idot4 h f) h false s fun x s =>
    let sgn := f.ty != .z8
    .next (x.wr s f.d (if sgn then .s32 else .z32) (bpLat f 4) fun l =>
      dot4I sgn (f.flags.getLsbD 0) (x.cnt f.a l) (x.cntB f l) (x.cnt f.c l))

def execIlea (h : Head) (f : FmtA) (s : State) : Host.Outcome State Fault Refusal :=
  runIsa (.ilea h f) h false s fun x s =>
    .next (x.wr s f.d .z64 (bpLat f 2) fun l =>
      let b : Int := if f.ty = .z32 then (x.cntB f l : Nat) else sextN 32 (x.cntB f l)
      wrapN 64 ((x.wide f.a l : Nat) + b * ((2 ^ f.flags.toNat : Nat) : Int)))

def execIaddi (h : Head) (f : FmtI) (s : State) : Host.Outcome State Fault Refusal :=
  runIsa (.iaddi h f) h false s fun x s =>
    let imm := sextN 31 f.imm.toNat
    .next (x.put s f.d false 2 (fun l => wrapN 32 ((x.cnt f.a l : Nat) + imm))
      (wrapN 64 ((x.wide f.a x.low : Nat) + imm)))

def execIcmpi (h : Head) (f : FmtI) (s : State) : Host.Outcome State Fault Refusal :=
  runIsa (.icmpi h f) h false s fun x s =>
    let y := wrapN 32 (sextN 27 (fld f.imm.toNat 4 27))
    .next (x.wrTest s f.d 2 fun l => condInt .s32 (fld f.imm.toNat 0 4) (x.cnt f.a l) y)

def execMovi (h : Head) (f : FmtI) (s : State) : Host.Outcome State Fault Refusal :=
  runIsa (.movi h f) h false s fun x s =>
    let imm := sextN 31 f.imm.toNat
    .next (x.put s f.d false 2 (fun _ => wrapN 32 imm) (wrapN 64 imm))

def execMovhi (h : Head) (f : FmtI) (s : State) : Host.Outcome State Fault Refusal :=
  runIsa (.movhi h f) h false s fun x s =>
    .next (x.put s f.d false 2 (fun l => fld f.imm.toNat 0 16 * 2 ^ 16 + x.cnt f.a l % 2 ^ 16)
      (f.imm.toNat * 2 ^ 32 + x.cnt f.a x.low))

end Sys2Proof.Machine
end

