-- ==== Sys2Proof/Machine/FloatAlu.lean ====
section
/-! DEFINITION. Floating-point arithmetic (R113 to R122). -/

namespace Sys2Proof.Machine

/-- One element's result: format, rounding mode, the stepped generator, the patterns of the sources a, b, c. -/
abbrev FltOp := IFmt → Rnd → U32 → Nat → Nat → Nat → Nat

/-- The latency of a class that takes 16 cycles in F64 (R40). -/
def fltLat (t : Ty) (n : Nat) : Nat := if t = .f64 then 16 else n

/-- A float instruction: each element of the lane, or of the one uniform value (R113, R114). -/
def effF (lat : Nat) (op : FltOp) (x : Ctx) (f : FmtA) (dual : Bool) (s : State) : State :=
  let t := tyOr f.ty .f32
  let fm := tyFmt t
  if dual then
    x.wrRound s f.d .z32 (bpLat f (fltLat t lat)) f.rnd 2 fun l g =>
      let a := x.cnt f.a l
      let b := x.cntB f l
      let c := x.cnt f.c l
      let g1 := genStep g
      op fm f.rnd g1 (fld a 0 16) (fld b 0 16) (fld c 0 16)
        + 2 ^ 16 * op fm f.rnd (genStep g1) (fld a 16 16) (fld b 16 16) (fld c 16 16)
  else
    x.wrRound s f.d t (bpLat f (fltLat t lat)) f.rnd 1 fun l g =>
      op fm f.rnd (genStep g) (x.pat t f.a l) (x.patB t f l) (x.pat t f.c l)

/-- A rounded exact function of one, two or three sources. -/
def rnd1 (e : Exact → Exact) : FltOp := fun fm r g a _ _ => fm.round r g (e (fm.decode a))
def rnd2 (e : Rnd → Exact → Exact → Exact) : FltOp :=
  fun fm r g a b _ => fm.round r g (e r (fm.decode a) (fm.decode b))
def rnd3 (e : Rnd → Exact → Exact → Exact → Exact) : FltOp :=
  fun fm r g a b c => fm.round r g (e r (fm.decode a) (fm.decode b) (fm.decode c))

def addX (r : Rnd) (a b : Exact) : Exact := Exact.add (r == .rd) a b
def subX (r : Rnd) (a b : Exact) : Exact := Exact.add (r == .rd) a b.neg
def fmaX (r : Rnd) (a b c : Exact) : Exact := Exact.add (r == .rd) (Exact.mul a b) c

/-- x - floor (x): a zero result is +0 (R122). -/
def fracX : Exact → Exact
  | .fin n m e _ =>
    if 0 ≤ e then Exact.zero
    else
      let q := 2 ^ (-e).toNat
      let r := m % q
      if r = 0 then Exact.zero else .fin false (if n then q - r else r) e false
  | _ => .nan

/-- The integer that rounding gives, in the type; a zero keeps its sign (R122). -/
def rndOp : FltOp := fun fm r g a _ _ =>
  match fm.decode a with
  | .fin n m e st => fm.round .rne 0 (.fin n (roundToInt r g n m e st) 0 false)
  | x => fm.round .rne 0 x

/-! Meanings. -/

def execFadd (h : Head) (f : FmtA) (s : State) : Host.Outcome State Fault Refusal :=
  runIsa (.fadd h f) h false s fun x s => .next (effF 4 (rnd2 addX) x f (f.flags.getLsbD 0) s)

def execFsub (h : Head) (f : FmtA) (s : State) : Host.Outcome State Fault Refusal :=
  runIsa (.fsub h f) h false s fun x s => .next (effF 4 (rnd2 subX) x f (f.flags.getLsbD 0) s)

def execFmul (h : Head) (f : FmtA) (s : State) : Host.Outcome State Fault Refusal :=
  runIsa (.fmul h f) h false s fun x s => .next (effF 4 (rnd2 fun _ => Exact.mul) x f (f.flags.getLsbD 0) s)

def execFfma (h : Head) (f : FmtA) (s : State) : Host.Outcome State Fault Refusal :=
  runIsa (.ffma h f) h false s fun x s => .next (effF 4 (rnd3 fmaX) x f (f.flags.getLsbD 0) s)

def execFmin (h : Head) (f : FmtA) (s : State) : Host.Outcome State Fault Refusal :=
  runIsa (.fmin h f) h false s fun x s =>
    .next (effF 4 (fun fm _ _ a b _ => fm.minmax false (f.flags.getLsbD 1) a b) x f (f.flags.getLsbD 0) s)

def execFmax (h : Head) (f : FmtA) (s : State) : Host.Outcome State Fault Refusal :=
  runIsa (.fmax h f) h false s fun x s =>
    .next (effF 4 (fun fm _ _ a b _ => fm.minmax true (f.flags.getLsbD 1) a b) x f (f.flags.getLsbD 0) s)

def execFabs (h : Head) (f : FmtA) (s : State) : Host.Outcome State Fault Refusal :=
  runIsa (.fabs h f) h false s fun x s =>
    .next (effF 4 (fun fm _ _ a _ _ => fm.absBits a) x f (f.flags.getLsbD 0) s)

def execFneg (h : Head) (f : FmtA) (s : State) : Host.Outcome State Fault Refusal :=
  runIsa (.fneg h f) h false s fun x s =>
    .next (effF 4 (fun fm _ _ a _ _ => fm.negBits a) x f (f.flags.getLsbD 0) s)

def execFcmp (h : Head) (f : FmtA) (s : State) : Host.Outcome State Fault Refusal :=
  runIsa (.fcmp h f) h false s fun x s =>
    let t := tyOr f.ty .f32
    let fm := tyFmt t
    .next (x.wrTest s f.d (bpLat f (fltLat t 4)) fun l =>
      condFlt f.flags.toNat (fm.decode (x.pat t f.a l)) (fm.decode (x.patB t f l)))

def execFrcp (h : Head) (f : FmtA) (s : State) : Host.Outcome State Fault Refusal :=
  runIsa (.frcp h f) h false s fun x s =>
    .next (effF 12 (rnd1 (Exact.div (.fin false 1 0 false))) x f false s)

def execFrsq (h : Head) (f : FmtA) (s : State) : Host.Outcome State Fault Refusal :=
  runIsa (.frsq h f) h false s fun x s => .next (effF 12 (rnd1 Exact.rsqrt) x f false s)

def execFsqrt (h : Head) (f : FmtA) (s : State) : Host.Outcome State Fault Refusal :=
  runIsa (.fsqrt h f) h false s fun x s => .next (effF 12 (rnd1 Exact.sqrt) x f false s)

def execFexp2 (h : Head) (f : FmtA) (s : State) : Host.Outcome State Fault Refusal :=
  runIsa (.fexp2 h f) h false s fun x s => .next (effF 12 (rnd1 exp2Exact) x f false s)

def execFlog2 (h : Head) (f : FmtA) (s : State) : Host.Outcome State Fault Refusal :=
  runIsa (.flog2 h f) h false s fun x s => .next (effF 12 (rnd1 log2Exact) x f false s)

def execFsin (h : Head) (f : FmtA) (s : State) : Host.Outcome State Fault Refusal :=
  runIsa (.fsin h f) h false s fun x s => .next (effF 12 (rnd1 sinExact) x f false s)

def execFcos (h : Head) (f : FmtA) (s : State) : Host.Outcome State Fault Refusal :=
  runIsa (.fcos h f) h false s fun x s => .next (effF 12 (rnd1 cosExact) x f false s)

def execFtanh (h : Head) (f : FmtA) (s : State) : Host.Outcome State Fault Refusal :=
  runIsa (.ftanh h f) h false s fun x s => .next (effF 12 (rnd1 tanhExact) x f false s)

def execFclass (h : Head) (f : FmtA) (s : State) : Host.Outcome State Fault Refusal :=
  runIsa (.fclass h f) h false s fun x s =>
    let t := tyOr f.ty .f32
    .next (x.wr s f.d .z32 (fltLat t 4) fun l => fclass (tyFmt t) (x.pat t f.a l))

def execFdiv (h : Head) (f : FmtA) (s : State) : Host.Outcome State Fault Refusal :=
  runIsa (.fdiv h f) h false s fun x s => .next (effF 12 (rnd2 fun _ => Exact.div) x f false s)

def execFdot2 (h : Head) (f : FmtA) (s : State) : Host.Outcome State Fault Refusal :=
  runIsa (.fdot2 h f) h false s fun x s =>
    let fm := tyFmt (tyOr f.ty .bf16)
    .next (x.wrRound s f.d .f32 (bpLat f 4) f.rnd 1 fun l g =>
      let p (i : Nat) := Exact.mul (fm.decode (fld (x.cnt f.a l) (16 * i) 16)) (fm.decode (fld (x.cntB f l) (16 * i) 16))
      f32.round f.rnd (genStep g) (addX f.rnd (addX f.rnd (f32.decode (x.cnt f.c l)) (p 0)) (p 1)))

def execFscale (h : Head) (f : FmtA) (s : State) : Host.Outcome State Fault Refusal :=
  runIsa (.fscale h f) h false s fun x s =>
    let t := tyOr f.ty .f32
    let fm := tyFmt t
    .next (x.wrRound s f.d t (bpLat f (fltLat t 4)) f.rnd 1 fun l g =>
      fm.round f.rnd (genStep g) ((fm.decode (x.pat t f.a l)).scale (sextN 32 (x.cntB f l))))

def execFrnd (h : Head) (f : FmtA) (s : State) : Host.Outcome State Fault Refusal :=
  runIsa (.frnd h f) h false s fun x s => .next (effF 4 rndOp x f false s)

def execFfrac (h : Head) (f : FmtA) (s : State) : Host.Outcome State Fault Refusal :=
  runIsa (.ffrac h f) h false s fun x s => .next (effF 4 (rnd1 fracX) x f false s)

end Sys2Proof.Machine
end

