-- ==== Sys2Proof/Machine/Convert.lean ====
section
/-! DEFINITION. Conversion between types, block quantisation in lanes, packing (R71 to R73, R78, R123 to R127). -/

namespace Sys2Proof.Machine

/-- The format a narrow type names (R24, R74). -/
def Warp.nfmt (k : Warp) : Ty → NFmt
  | .n i => NFmt.of (k.getF i.toNat)
  | _ => NFmt.of fReset

/-- An integer saturated to a type's pattern (R71). -/
def satInt (t : Ty) (i : Int) : Nat := narrowInt t true i

/-- A float or narrow value to an integer type (R71). -/
def toInt (t : Ty) (r : Rnd) (g : U32) : Exact → Nat
  | .nan => 0
  | .inf n => satInt t (if n then -(2 ^ 65 : Nat) else (2 ^ 65 : Nat))
  | .fin n m e st =>
    let k := roundToInt r g n m e st
    satInt t (if n then -(k : Int) else (k : Int))

/-- A pattern's exact value under a type (R61, R77). -/
def exactOf (k : Warp) (t : Ty) (p : Nat) : Exact :=
  if t.isInt then Exact.ofInt false (intOf t p) 0
  else if t.isNarrow then (k.nfmt t).decode p
  else (tyFmt t).decode p

/-- An element converted (R123): source type, destination type, saturation, mode, stepped generator. -/
def convert (k : Warp) (src dst : Ty) (sat : Bool) (r : Rnd) (g : U32) (p : Nat) : Nat :=
  if src.isInt && dst.isInt then narrowInt dst sat (intOf src p)
  else if dst.isInt then toInt dst r g (exactOf k src p)
  else if dst.isNarrow then (k.nfmt dst).encode r g (exactOf k src p)
  else (tyFmt dst).round r g (exactOf k src p)

/-- The float type that QNT and DQNT name in their flags (R125, R126). -/
def qTy (n : Nat) : Ty := if n = 0 then .f32 else if n = 1 then .f16 else .bf16

/-- Storage width that PACK and UNPK go by (R127). -/
def packW (k : Warp) : Ty → Nat
  | .s16 | .z16 | .dflt => 16
  | .s8 | .z8 => 8
  | t => (k.nfmt t).sw

/-- PACK (R127). -/
def packI (s a b : Nat) : Nat :=
  if s = 16 then fld a 0 16 + 2 ^ 16 * fld b 0 16
  else if s = 8 then fld a 0 8 + 2 ^ 8 * fld a 16 8 + 2 ^ 16 * fld b 0 8 + 2 ^ 24 * fld b 16 8
  else if s = 6 then fld a 0 6 + 2 ^ 6 * fld a 16 6 + 2 ^ 12 * fld b 0 6 + 2 ^ 18 * fld b 16 6
  else
    let nib (x : Nat) := fld x 0 4 + 2 ^ 4 * fld x 8 4 + 2 ^ 8 * fld x 16 4 + 2 ^ 12 * fld x 24 4
    nib a + 2 ^ 16 * nib b

/-- UNPK (R127). -/
def unpkI (t : Ty) (s : Nat) (hi : Bool) (a : Nat) : Nat :=
  let ext (n w v : Nat) : Nat := if tySigned t then wrapN n (sextN w v) else v
  if s = 16 then ext 32 16 (fld a (if hi then 16 else 0) 16)
  else if s = 8 then
    let o := if hi then 16 else 0
    ext 16 8 (fld a o 8) + 2 ^ 16 * ext 16 8 (fld a (o + 8) 8)
  else if s = 6 then
    let o := if hi then 12 else 0
    fld a o 6 + 2 ^ 16 * fld a (o + 6) 6
  else
    let o := if hi then 16 else 0
    fld a o 4 + 2 ^ 8 * fld a (o + 4) 4 + 2 ^ 16 * fld a (o + 8) 4 + 2 ^ 24 * fld a (o + 12) 4

/-! Meanings. -/

def execCvt (h : Head) (f : FmtA) (src : Ty) (s : State) : Host.Outcome State Fault Refusal :=
  runIsa (.cvt h f src) h false s fun x s =>
    let lat := if f.ty = .f64 ∨ src = .f64 then 16 else 4
    .next (x.wrRound s f.d f.ty lat f.rnd 1 fun l g =>
      convert x.k src f.ty (f.flags.getLsbD 0) f.rnd (genStep g) (x.pat src f.a l))

def execQnt (h : Head) (f : FmtA) (s : State) : Host.Outcome State Fault Refusal :=
  runIsa (.qnt h f) h false s fun x s =>
    let nf := x.k.nfmt f.ty
    let q := qTy f.flags.toNat
    let val (l : Nat) : Exact := (tyFmt q).decode (x.pat q f.a l)
    let lanes (b : Nat) : List Nat := (lanesOf x.act).filter fun l => l / nf.blk == b
    let exp0 := blockExp nf ((lanes 0).map val)
    let exp1 := blockExp nf ((lanes 1).map val)
    let blkExp (l : Nat) : Option Int := if l / nf.blk = 0 then exp0 else exp1
    let s := x.wr s f.d .z32 6 fun l => blockCode nf (blkExp l) f.rnd (genStep (x.k.gen.get l)) (val l)
    -- the generator steps for each element, whatever its block holds (R70, R125; DEDUCED, log 34)
    let s := if f.rnd = .sr then s.modWarp x.c x.w fun k => { k with gen := stepGens x.k.gen x.act 1 } else s
    let code0 := blockScale nf ((lanes 0).map val)
    let code1 := if nf.blk32 then 0 else blockScale nf ((lanes 1).map val)
    .next (x.put s f.c false 6 (fun _ => 0) (code0 + 2 ^ 8 * code1))

/-- An S destination takes the scale of the lowest acting lane's block, of a code that is the same in every lane (DESIGN CHOICE,
log 50). -/
def execDqnt (h : Head) (f : FmtA) (s : State) : Host.Outcome State Fault Refusal :=
  runIsa (.dqnt h f) h false s fun x s =>
    let nf := x.k.nfmt f.ty
    let q := qTy f.flags.toNat
    let sc := x.wide f.c x.low
    .next (x.wrRound s f.d q 4 f.rnd 1 fun l g =>
      (tyFmt q).round f.rnd (genStep g)
        (scaled (nf.decode (x.cnt f.a l)) (scaleVal nf.e4m3 (fld sc (8 * (l / nf.blk)) 8))))

/-- PACK and UNPK zero-extend their 32 bits into an S destination, whatever the type (R127; DESIGN CHOICE, log 50). -/
def execPack (h : Head) (f : FmtA) (s : State) : Host.Outcome State Fault Refusal :=
  runIsa (.pack h f) h false s fun x s =>
    .next (x.wr s f.d .z32 (bpLat f 4) fun l => packI (packW x.k f.ty) (x.cnt f.a l) (x.cntB f l))

/-- As PACK's, the result is zero-extended into an S destination (DESIGN CHOICE, log 50). -/
def execUnpk (h : Head) (f : FmtA) (s : State) : Host.Outcome State Fault Refusal :=
  runIsa (.unpk h f) h false s fun x s =>
    .next (x.wr s f.d .z32 4 fun l => unpkI f.ty (packW x.k f.ty) (f.flags.getLsbD 0) (x.cnt f.a l))

end Sys2Proof.Machine
end

