-- ==== Sys2Proof/Machine/Fetch.lean ====
section
/-! DEFINITION. Instruction fetch (R186, R253, R258, R461). -/

namespace Sys2Proof.Machine

/-- A walk for a fragment's fetch is under way. -/
def State.fetchWalks (s : State) (c w g : Nat) : Bool :=
  s.walks.any fun k => k.2.core == c && k.2.slot == w && k.2.frag == g && k.2.need == 2 && k.2.uid == (s.warp c w).uid

/-- The word at a physical address as the core's cache has it: its value and the cycle from which it is there. -/
def Core.cachedWord (k : Core) (pa : Nat) : Option (U64 × Nat) := (k.icache.find? fun e => e.1 == pa).map (·.2)

/-- The sixteen words of a line enter a core's cache of 8,192 words (R253). -/
def State.icacheFill (s : State) (c pa ready : Nat) : State :=
  let line := lineOf pa
  let new := (List.range 16).map fun i => (line + 8 * i, BitVec.ofNat 64 (s.physRead (line + 8 * i) 8), ready)
  s.modCore c fun k => { k with icache := (new ++ k.icache.filter fun e => lineOf e.1 != line).take 8192 }

/-- A word arrives for a fragment, which may issue it from a cycle on. -/
def State.haveWord (s : State) (c w g : Nat) (v : U64) (t : Nat) : State :=
  s.modFrag c w g fun f => { f with word := some v, fetching := false, fresh := false, stall := max f.stall t }

/-- The figure for a fetch from its home slice: a miss, which fills the line, or a hit (R249, R250, R251, R423). -/
def State.fetchLine (s : State) (c : Nat) (d : Dom) (pa : Nat) (t : Tlb) : Nat × State :=
  if s.region pa = 2 then (1600, s)
  else
    let q := s.engLine pa d.did (d.part.getD 0) t.shrd false t.mt
    (s.pathFigure (stackOf c) pa true + (q.1 - s.clock), q.2)

/-- A fetch from the home slice: it waits while the home or the way to it lets nothing through, under a migration's hold, and at
H4. An admitted warp's first word also waits for its domain's bucket, and takes R461's figure; the words that follow the core
fetches ahead, so that they come in the cycle they are asked for (R183, R339, DEDUCED, log 42). -/
def State.fetchMiss (s : State) (c w g : Nat) (d : Dom) (pa extra : Nat) (t : Tlb) : State :=
  let wait (s : State) (t : Nat) : State := s.schedule t (.instructionFetch c w g)
  let fresh := (s.frag c w g).fresh
  if s.clock < s.wayFrom (stackOf c) pa then wait s (s.wayFrom (stackOf c) pa)
  else if s.pageHeld pa ∨ !(s.homeReady pa) then wait s (s.clock + 1)
  else if s.region pa = 0 ∧ 4 ≤ s.level (homeOf pa) ∧ (s.l2Look (lineOf pa) d.did t.shrd false).1.isNone then wait s s.nextSample
  else
    match s.engPay pa d.did 128, fresh with
    | none, true => wait s (s.clock + 1)
    | paid, _ =>
      let q := (paid.getD s).fetchLine c d pa t
      let s := q.2.icacheFill c pa (s.clock + extra + if fresh then q.1 else 0)
      match (s.core c).cachedWord pa with
      | some (v, r) => s.haveWord c w g v r
      | none => s

/-- The walk of a fetch that the core makes ahead: made at once (DEDUCED, log 42). -/
def State.walkAhead (s : State) (c : Nat) (d : Dom) (va : Nat) : WalkOut × State :=
  let v := va % 2 ^ 57
  let r := s.walkThrough d v 2 4 0 d.root
  (r.1, r.2.keepWalk (stackOf c) (some c) r.1)

/-- A fragment's next word is fetched: its translation, then the core's cache, then the home slice; a fault is raised when
the fragment would issue. -/
def execInstructionFetch (core slot frag : Nat) (s : State) : Host.Outcome State Fault Refusal :=
  match (s.warp? core slot).bind fun k => FMap.get? k.frags frag with
  | none => .next s
  | some f =>
    if !f.fetching then .next s
    else
      let k := s.warp core slot
      let d := s.dom core k.dslot
      let va := f.pc.toNat
      let trap (t : Trap) : State :=
        if f.st != .ready || f.heldTrap || f.heldCall.isSome || k.parked || k.stopped || decide (s.clock < f.stall) then
          s.schedule (max (s.clock + 1) f.stall) (.instructionFetch core slot frag)
        else (s.modFrag core slot frag fun f => { f with fetching := false }).takeTrap core slot frag t
      let ahead (o : WalkOut) : Option (Nat × Nat) := match o with
        | .translation => some (cTranslation, 0)
        | .domain ipa => some (cDomain, ipa)
        | .lost pa => some (cMachineCheck, pa)
        | _ => none
      match s.translate core d f.walked va 2 with
      | .miss =>
        let ask (s : State) : State := if s.fetchWalks core slot frag then s else (s.requestWalk core slot frag va 2).2
        if f.fresh then .next (ask s)
        else
          let r := s.walkAhead core d va
          let again := r.2.schedule s.clock (.instructionFetch core slot frag)
          match ahead r.1 with
          | some x => .next (again.modFrag core slot frag fun f => { f with walked := (va % 2 ^ 57 / 65536, 2, x.1, x.2) :: f.walked })
          | none => .next (if r.2.translate core d f.walked va 2 = .miss then ask r.2 else again)
      | .fault cause ipa => .next (trap { cause, pc := f.pc, addr := f.pc, pa := BitVec.ofNat 64 ipa })
      | .zeros _ => .next (trap { cause := cTranslation, pc := f.pc, addr := f.pc })
      | .ok pa t extra =>
        if (s.routeOf pa).isSome then .next (trap { cause := cTranslation, pc := f.pc, addr := f.pc })
        else if s.isLost pa then .next (trap { cause := cMachineCheck, pc := f.pc, addr := f.pc, pa := BitVec.ofNat 64 pa })
        else
          let s := s.refillCore core d va 2
          match (s.core core).cachedWord pa with
          | some (v, r) => .next (s.haveWord core slot frag v (max r (s.clock + extra)))
          | none =>
            .next (if s.routable core pa then s.fetchMiss core slot frag d pa extra t
              else trap { cause := cMachineCheck, pc := f.pc, addr := f.pc, pa := BitVec.ofNat 64 pa })

end Sys2Proof.Machine
end

