-- ==== Sys2Proof/Machine/HostPort.lean ====
section
/-! DEFINITION. The host and the peers: PAGEIN and page requests, ATS invalidations, BAR2, a function's invalidations, the
transport's packets (R164, R266 to R268, R443, R444, R447 to R452). -/

namespace Sys2Proof.Machine

/-! PAGEIN (R164, R268). -/

/-- Page requests of a function that the host has not answered. -/
def State.priOut (s : State) (fn : Nat) : Nat :=
  s.pageins.foldl (fun a p => if p.2.fn = fn then a + (p.2.pages.filter fun q => q.state == 1).length else a) 0

/-- One waiting page request leaves, if its function has room for it; the host's answer is its own affair (DESIGN CHOICE, log 17). -/
def State.priAsk (s : State) (id page : Nat) : State :=
  match FMap.get? s.pageins id with
  | none => s
  | some g =>
    if 256 ≤ s.priOut g.fn then s
    else
      let w := s.freeLat 1
      let a := w.2.freeBelow 3
      let g := { g with pages := g.pages.map fun q => if q.page = page then { q with state := 1 } else q }
      ({ a.2 with pageins := FMap.put s.pageins id g } : State).schedule (s.clock + w.1) (.priResponse id page a.1)

/-- Waiting page requests leave in arrival order. -/
def State.priFill (s : State) : State :=
  (s.pageins.flatMap fun p => (p.2.pages.filter fun q => q.state == 0).map fun q => (p.1, q.page)).foldl
    (fun s q => s.priAsk q.1 q.2) s

/-- A page of a PAGEIN's set: not present, resident, or neither. -/
inductive PageSt where
  | ask
  | here
  | refused
  deriving DecidableEq, Repr

def PageSt.of : Tr → PageSt
  | .zeros _ => .ask
  | .ok _ _ _ => .here
  | _ => .refused

def execPagein (h : Head) (f : FmtM) (s : State) : Host.Outcome State Fault Refusal :=
  runIsa (.pagein h f) h false s fun x s =>
    let va := match f.d with
      | .s n => x.k.getS n.toNat
      | _ => 0
    let d := s.dom x.c x.k.dslot
    let pages := ((lanesOf x.act).map fun l => x.glAddr f (offTerm f) l / 65536).eraseDups
    let tr (p : Nat) : Tr := s.translate x.c d x.fr.walked (p * 65536) 0
    let missing := (pages.filter fun p => tr p == .miss).map (65536 * ·)
    s.doneCheck x va.toNat 8
      (if !missing.isEmpty then .gone (s.waitWalks x 0 missing)
       else
       let sts := pages.map fun p => (p, PageSt.of (tr p))
       let n (p : PageSt) : Nat := (sts.filter fun q => q.2 == p).length
       let g : PageIn :=
         { id := s.nextId, core := x.c, did := d.did, part := d.part, root := d.root, dslot := x.k.dslot, fn := s.fnOf d.did,
           addr := va.toNat, resident := n .here, refused := n .refused,
           pages := (sts.filter fun q => q.2 == .ask).map fun q => { page := q.1, state := 0, answer := 0 } }
       let s := ({ s.bumpId with pageins := FMap.put s.pageins g.id g } : State).priFill
       .next (if g.pages.isEmpty then s.schedule s.clock (.pageinCompletion g.id) else s))

/-- The host answers a page request: 0 Success, 1 Invalid, 2 Failure. -/
def execPriResponse (id page answer : Nat) (s : State) : Host.Outcome State Fault Refusal :=
  match FMap.get? s.pageins id with
  | none => .next s
  | some g =>
    let g := { g with pages := g.pages.map fun q =>
      if q.page = page ∧ q.state = 1 then { q with state := 2, answer } else q }
    let s := ({ s with pageins := FMap.put s.pageins id g } : State).priFill
    .next (if g.pages.all fun q => q.state == 2 then s.schedule s.clock (.pageinCompletion id) else s)

/-- A PAGEIN's completion word (R164, R268): the pages that their entries now make resident are looked at, which leaves no
translation behind. -/
def State.pageinWord (s : State) (g : PageIn) : Nat :=
  let d := s.keptDom g.dslot g.did g.root g.part
  let here := (g.pages.filter fun q => q.answer == 0 && PageSt.of (s.look (stackOf g.core) d (q.page * 65536) 0) == .here).length
  2 ^ 63 + (g.refused + (g.pages.length - here)) % 2 ^ 16 * 2 ^ 32 + (g.resident + here) % 2 ^ 16 * 2 ^ 16
    + g.pages.length % 2 ^ 16

/-- Every page request is answered: cached translations of the pages go, then the completion word is written, when what walks it
needs have been made (R268). -/
def execPageinCompletion (id : Nat) (s : State) : Host.Outcome State Fault Refusal :=
  match FMap.get? s.pageins id with
  | none => .next s
  | some g =>
    if g.pages.any fun q => q.state != 2 then .next s
    else
      let named (t : Tlb) : Bool := g.pages.any fun q => tlbNames g.did (q.page % 2 ^ 41) 1 t
      let s := if g.word.isSome then s else s.dropTlb named
      let w := g.word.getD (s.pageinWord g)
      match s.sendWord g.core (s.keptDom g.dslot g.did g.root g.part) g.addr (toBytes 8 w) false with
      | (.walk, s) =>
        .next (({ s with pageins := FMap.put s.pageins id { g with word := some w } } : State).schedule (s.clock + 1)
          (.pageinCompletion id))
      | (_, s) => .next { s with pageins := FMap.drop s.pageins id }

/-! ATS invalidation (R267). -/

/-- The host invalidates host pages: matching entries go; the completion waits for the accesses that used them. -/
def execAtsInvalidationRequest (page count tag : Nat) (s : State) : Host.Outcome State Fault Refusal :=
  let hit (pa : Nat) : Bool :=
    let p := (pa - 0x100000000000) / 65536
    decide (page ≤ p) && decide (p < page + count)
  let used := (s.fly.filter fun f =>
    (f.2.kind == 6 || f.2.kind == 7 || f.2.kind == 8) && (hit f.2.pa || f.2.accs.any fun a => hit a.pa)).map (·.1)
  let s := s.dropTlb fun t => t.kind == 4 && decide (page ≤ t.pa) && decide (t.pa < page + count)
  let v : Inval :=
    { id := s.nextId, kind := 3, did := 0, part := 0, page, count, fn := none, req := 0, mig := none, until_ := used, tag }
  .next (({ s.bumpId with invals := FMap.put s.invals v.id v } : State).schedule s.clock (.invalidationComplete v.id))

/-! A function's invalidations (R443, R444). -/

def execInvcnt (fn : Nat) (count : U32) (s : State) : Host.Outcome State Fault Refusal :=
  let u := s.func fn
  if u.busy then .next (s.modFunc fn fun u => { u with lost := true })
  else if count = 0 then .next (s.modFunc fn fun u => { u with done := (u.done + 1) % 2 ^ 32 })
  else
    let did := fld (s.sysReg 0x400 fn).toNat 0 10
    let page := u.invva
    let n := count.toNat
    .next ((s.modFunc fn fun u => { u with busy := true }).beginInval
      { id := 0, kind := 0, did, part := 0, page, count := n, fn := some fn, req := 0, mig := none, until_ := [] }
      (tlbNames did page n) fun _ e _ va => e == did && decide (page ≤ va % 2 ^ 57 / 65536)
        && decide (va % 2 ^ 57 / 65536 < page + n))

def execInvstatLostClear (fn : Nat) (s : State) : Host.Outcome State Fault Refusal :=
  .next (s.modFunc fn fun u => { u with lost := false })

/-! BAR2 (R447). -/

/-- The host reads or writes at an offset of BAR2, a window of 1 GiB: ones and no effect where it is off or nothing is there
(R442, R447). -/
def execBar2Access (isWrite : Bool) (off size : Nat) (value : U64) (s : State) : Host.Outcome State Fault Refusal :=
  let pa := s.winBase2.toNat + off
  if !s.winCtl ∨ 2 ^ 30 < off + size ∨ 2 ≤ s.region pa then
    .next (if isWrite then s else { s with hostGot := s.hostGot ++ [(pa, List.replicate size 0xFF)] })
  else
    let f := s.plainFly (if isWrite then 14 else 13) 0 pa size 0 64 0
    .next (s.bumpId.launchFly { f with
      arg := 1, bytes := if isWrite then (List.range size).zip (toBytes size value.toNat) else [] })

/-! Inbound requests (R449 to R452). -/

def State.inbWord (s : State) (i w : Nat) : Nat := (FMap.getD s.inb (4 * i + w) 0).toNat

/-- The inbound entry of a request: partition, DID, IPA (R451). -/
def State.inbMatch (s : State) (p : Packet) : Option (Nat × Nat × Nat) :=
  ((List.range 16).find? fun i =>
    let w0 := s.inbWord i 0
    let lo := fld (s.inbWord i 1) 16 41
    w0.testBit 0 && (fld w0 32 16 == 0xFFFF || fld w0 32 16 == p.src) && decide (lo ≤ p.addr / 65536)
      && decide (p.addr / 65536 < lo + fld (s.inbWord i 2) 0 32)).map fun i =>
    (fld (s.inbWord i 0) 1 6, fld (s.inbWord i 0) 16 10,
      fld (s.inbWord i 3) 16 41 * 65536 + (p.addr - fld (s.inbWord i 1) 16 41 * 65536))

/-- Where a request is to be performed, or the reason it is refused for (R449, R451). -/
def State.inbPlace (s : State) (p : Packet) (write : Bool) (hostOk : Bool) :
    Except Nat (S2 × Nat × Nat × Nat) :=
  match s.inbMatch p with
  | none => .error 1
  | some (part, did, ipa) =>
    let g2 := (s.part part).g2
    match s.stage2 { dslot := 0, did, part := some part, root := 0, g2 } ipa with
    | none => .error 2
    | some o =>
      if (if write then !o.wr else !o.rd) then .error 2
      else if s.region o.pa = 3 ∨ (s.routeOf o.pa).isSome ∨ (s.region o.pa = 2 ∧ !hostOk) then .error 3
      else if s.isLost o.pa then .error 4
      else .ok (o, did, part, g2)

/-- A request comes in on a port (R450, R451): discarded, answered again, out of order, refused, or on its way to its
home. `size` is the bytes of one element. -/
def State.inbound (s : State) (port : Nat) (p : Packet) (size code : Nat) (write hostOk : Bool) (accs : List LaneAcc)
    (bytes : List Byte) : State :=
  let l := s.link port p.src
  if badPacket p ∨ size = 0 ∨ 256 < size ∨ 256 < p.addr % 256 + size then s
  else
    match l.record.find? fun r => r.1 == p.seq with
    | some (_, a) => s.emit port a
    | none =>
      if p.seq ≠ l.expect then s
      else
        let l := { l with expect := (l.expect + 1) % 2 ^ 32 }
        match s.inbPlace p write hostOk with
        | .error e => s.nakPeer l p e
        | .ok (o, did, part, g2) =>
          let f := { s.plainFly 15 (16 * portStack port) o.pa size did part g2 with
            code, accs, shrd := o.shrd, bytes := (List.range bytes.length).zip bytes }
          let s := (s.setLink { l with inq := l.inq ++ [(f.id, p)] }).bumpId
          if s.region o.pa = 2 then s.launchHost f else s.launchFly f

def execRdreq (port : Nat) (p : Packet) (s : State) : Host.Outcome State Fault Refusal :=
  .next (s.inbound port { p with kind := 1 } (ofBytes (p.data.take 4)) 99 false true [] [])

def execWrite (port : Nat) (p : Packet) (s : State) : Host.Outcome State Fault Refusal :=
  .next (s.inbound port { p with kind := 3 } p.data.length 0 true true [] p.data)

/-- MRWRITE is a WRITE whose source is the group (R452). -/
def execMrwrite (port : Nat) (p : Packet) (s : State) : Host.Outcome State Fault Refusal :=
  .next (s.inbound port { p with kind := 9 } p.data.length 0 true true [] p.data)

/-- An atomic of a peer: its operand, and the new value of a compare-and-swap. An operation that PCIe has no AtomicOp for
cannot be performed in host memory (R169). -/
def execAtomic (port : Nat) (p : Packet) (s : State) : Host.Outcome State Fault Refusal :=
  let cas := p.op = 0x10
  let n := if cas then p.data.length / 2 else p.data.length
  let size := if (n = 4 ∨ n = 8) ∧ (cas ∨ p.op < 13) ∧ p.addr % n = 0 then n else 0
  let a : LaneAcc :=
    { lane := 0, pa := 0, va := 0, kind := 0, data := p.data.take n, new := p.data.drop n, pass := 0 }
  .next (s.inbound port { p with kind := 4 } size (if cas then 16 else p.op) true (cas || p.op == 0 || p.op == 8) [a] [])

/-! Answers to what this device asked (R449, R450). -/

/-- The outstanding request a packet answers. -/
def Link.asked (l : Link) (seq kind : Nat) : Option (Nat × Packet × Nat × Nat) :=
  l.out.find? fun o => o.1 == seq && o.2.1.kind == kind

/-- A read's or atomic's bytes come back. -/
def State.peerBytes (s : State) (port : Nat) (p : Packet) (kind : Nat) : State :=
  let l := s.link port p.src
  if badPacket p then s
  else
    match l.asked p.seq kind with
    | none => s
    | some o =>
      let s := s.setLink { l with out := l.out.filter fun q => q.1 != p.seq }
      match FMap.get? s.fly o.2.2.2 with
      | none => s
      | some f =>
        let lane := ((f.accs.head?).map (·.lane)).getD 0
        let b := ((List.range f.size).zip p.data).map fun x => (16 * lane + x.1, x.2)
        (s.setFly { f with bytes := b, performed := true }).schedule s.clock (.lineRequestAnswer f.id)

def execRdresp (port : Nat) (p : Packet) (s : State) : Host.Outcome State Fault Refusal := .next (s.peerBytes port p 1)
def execAtomresp (port : Nat) (p : Packet) (s : State) : Host.Outcome State Fault Refusal := .next (s.peerBytes port p 4)

/-- An access has no packet outstanding any more. -/
def State.peerDone (s : State) (fly : Nat) : State :=
  if s.links.any fun l => l.out.any fun o => o.2.2.2 == fly then s else s.dropFly fly

/-- Writes up to a sequence number are acknowledged. -/
def execAck (port : Nat) (p : Packet) (s : State) : Host.Outcome State Fault Refusal :=
  let l := s.link port p.src
  let done (o : Nat × Packet × Nat × Nat) : Bool :=
    (o.2.1.kind == 3 || o.2.1.kind == 8) && decide ((p.seq + 2 ^ 32 - o.1) % 2 ^ 32 < 2 ^ 31)
  if badPacket p then .next s
  else
    .next ((l.out.filter done).foldl (fun s o => s.peerDone o.2.2.2)
      (s.setLink { l with out := l.out.filter fun o => !(done o) }))

/-- A request that will not be performed: a read or atomic fails its lane, a write, or a RED, for which no lane waits, is discarded
(R450, DEDUCED, log 19); a done word so lost is counted (R400). -/
def State.endRequest (s : State) (fly : Nat) : State :=
  match FMap.get? s.fly fly with
  | none => s
  | some f =>
    let s := s.dropFly fly
    if f.kind = 12 ∧ f.op = 0 ∧ f.uid = 0 then s.count 0x707 0 1
    else if f.kind = 11 ∨ f.op = 0 then { s with dropped := s.dropped ++ [(f.by_, f.va)] }
    else
      match FMap.get? s.loads f.op with
      | none => s
      | some op => s.answerOp { op with failed := op.failed ++ f.accs.map (·.lane) }

/-- A request was refused by the peer: it ends as one whose peer is down. -/
def execNak (port : Nat) (p : Packet) (s : State) : Host.Outcome State Fault Refusal :=
  let l := s.link port p.src
  if badPacket p then .next s
  else
    match l.out.find? fun o => o.1 == p.seq with
    | none => .next s
    | some o => .next ((s.setLink { l with out := l.out.filter fun q => q.1 != p.seq }).endRequest o.2.2.2)

/-- A packet with a nonzero reserved byte or an unknown kind has no effect (R449). -/
def execTransportPacketDiscard (_port : Nat) (_p : Packet) (s : State) : Host.Outcome State Fault Refusal := .next s

/-- An unacknowledged request is sent again, up to 8 times; then the peer is down and what is pending ends (R450). -/
def execPeerRetransmit (port peer seq : Nat) (s : State) : Host.Outcome State Fault Refusal :=
  let l := s.link port peer
  match l.out.find? fun o => o.1 == seq with
  | none => .next s
  | some o =>
    if o.2.2.1 < 8 then
      let s := s.setLink { l with out := l.out.map fun q =>
        if q.1 = seq then (q.1, q.2.1, q.2.2.1 + 1, q.2.2.2) else q }
      .next ((s.emit port o.2.1).schedule (s.clock + resendAfter) (.peerRetransmit port peer seq))
    else
      .next ((l.out.map (·.2.2.2)).eraseDups.foldl State.endRequest (s.setLink { l with out := [], down := true }))

end Sys2Proof.Machine
end

