-- ==== Sys2Proof/Machine/LaneOps.lean ====
section
/-! DEFINITION. Lane operations and moves (R112, R128 to R136). -/

namespace Sys2Proof.Machine

/-- The source lane of LSHUF (R129). -/
def shufLane (mode n l : Nat) : Nat :=
  match mode with
  | 0 => n
  | 1 => if n ≤ l then l - n else l
  | 2 => if l + n ≤ 31 then l + n else l
  | _ => l ^^^ n

/-- How LRED and LSCAN combine two 32-bit patterns (R131). -/
def comb (t : Ty) (op : Nat) (a b : Nat) : Nat :=
  if t = .f32 then
    (if op = 0 then addF32 a b else f32.minmax (op == 2) false a b)
  else
    match op with
    | 0 => (a + b) % 2 ^ 32
    | 1 => minI t a b
    | 2 => maxI t a b
    | 3 => a &&& b
    | 4 => a ||| b
    | _ => a ^^^ b

/-- The combination when an entry may be absent. -/
def combO (t : Ty) (op : Nat) : Option Nat → Option Nat → Option Nat
  | some a, some b => some (comb t op a b)
  | some a, none => some a
  | none, y => y

/-- One level of the fixed tree: neighbours combine (R131). -/
def treeLevel (t : Ty) (op : Nat) : List (Option Nat) → List (Option Nat)
  | a :: b :: r => combO t op a b :: treeLevel t op r
  | l => l

/-- The tree over 32 lanes. -/
def treeRed (t : Ty) (op : Nat) (q : List (Option Nat)) : Option Nat :=
  ((treeLevel t op (treeLevel t op (treeLevel t op (treeLevel t op (treeLevel t op q))))).head?).join

/-- The identities of LSCAN.EXCL (R132). -/
def scanId (t : Ty) (op : Nat) : Nat :=
  match op with
  | 1 => if t = .f32 then 0x7F800000 else if t = .z32 then 0xFFFFFFFF else 0x7FFFFFFF
  | 2 => if t = .f32 then 0xFF800000 else if t = .z32 then 0 else 0x80000000
  | 3 => 0xFFFFFFFF
  | _ => 0

/-- The pattern that a reduction or a scan writes for a value: of an F32 NaN the canonical one, since LRED and LSCAN compute
on values (R64; DEDUCED, log 49). -/
def canonOf (t : Ty) (p : Nat) : Nat := if t = .f32 ∧ f32.isNan p then f32.nanBits else p

/-- The inclusive results over lanes in ascending order, each with the one before it: (lane, inclusive, previous). -/
def scanList (t : Ty) (op : Nat) (val : Nat → Nat) : Option Nat → List Nat → List (Nat × Nat × Nat)
  | _, [] => []
  | none, l :: r => (l, val l, scanId t op) :: scanList t op val (some (val l)) r
  | some p, l :: r => (l, comb t op p (val l), p) :: scanList t op val (some (comb t op p (val l))) r

/-! Meanings. -/

def execLshuf (h : Head) (f : FmtA) (s : State) : Host.Outcome State Fault Refusal :=
  runIsa (.lshuf h f) h false s fun x s =>
    .next (x.wr s f.d .z32 (bpLat f 6) fun l => x.cnt f.a (shufLane f.flags.toNat (x.cntB f l % 32) l))

/-- Without a type an S destination takes the 32 bits zero-extended, as Z32 (DESIGN CHOICE, log 50: R130 names no type for it). -/
def execLbcast (h : Head) (f : FmtA) (s : State) : Host.Outcome State Fault Refusal :=
  runIsa (.lbcast h f) h false s fun x s =>
    let t := tyOr f.ty .z32
    .next (x.wr s f.d t 2 fun _ => x.pat t f.a (x.cnt f.b x.low % 32))

def execLred (h : Head) (f : FmtA) (s : State) : Host.Outcome State Fault Refusal :=
  runIsa (.lred h f) h false s fun x s =>
    let t := tyOr f.ty .s32
    let q := (List.range 32).map fun l => if x.act.getLsbD l then some (x.cnt f.a l) else none
    let r := (treeRed t f.flags.toNat q).getD 0
    .next (x.wr s f.d t 6 fun _ => canonOf t r)

def execLscan (h : Head) (f : FmtA) (s : State) : Host.Outcome State Fault Refusal :=
  runIsa (.lscan h f) h false s fun x s =>
    let t := tyOr f.ty .s32
    let rs := scanList t (f.flags.toNat % 8) (fun l => x.cnt f.a l) none (lanesOf x.act)
    .next (x.wr s f.d t 6 fun l =>
      let e := FMap.getD rs l (0, 0)
      canonOf t (if f.flags.getLsbD 3 then e.2 else e.1))

def execLballot (h : Head) (f : FmtA) (s : State) : Host.Outcome State Fault Refusal :=
  runIsa (.lballot h f) h false s fun x s =>
    let m := (maskOf fun l => x.act.getLsbD l && x.test f.a l).toNat
    .next (if f.d.isP then { x with act := BitVec.allOnes 32 }.put s f.d false 2 (fun _ => 0) m
           else x.put s f.d false 2 (fun _ => m) m)

def execLvote (h : Head) (f : FmtA) (s : State) : Host.Outcome State Fault Refusal :=
  runIsa (.lvote h f) h false s fun x s =>
    let ls := lanesOf x.act
    let key (l : Nat) : Nat := if f.a.isP || f.a == .exec then b2n (x.test f.a l) else x.cnt f.a l
    let r := match f.flags.toNat with
      | 0 => ls.all (x.test f.a)
      | 1 => ls.any (x.test f.a)
      | _ => ls.all fun l => key l == key x.low
    .next (x.wrTest s f.d 2 fun _ => r)

def execPlog (h : Head) (f : FmtA) (s : State) : Host.Outcome State Fault Refusal :=
  runIsa (.plog h f) h false s fun x s =>
    .next (x.wrTest s f.d 2 fun l =>
      f.flags.getLsbD (2 * b2n ((x.mask f.a).getLsbD l) + b2n ((x.mask f.b).getLsbD l)))

def execPcnt (h : Head) (f : FmtA) (s : State) : Host.Outcome State Fault Refusal :=
  runIsa (.pcnt h f) h false s fun x s =>
    let m := (x.mask f.a).toNat
    .next (x.wr s f.d .z32 2 fun l => if f.flags.getLsbD 0 then popN l m else popN 32 m)

/-- What MOV puts into an S register: 64 bits of S and CLOCK, else the 32-bit value (R112). -/
def Ctx.movUni (x : Ctx) (o : Opd) : Nat :=
  match o with
  | .s _ | .clock => x.wide o x.low
  | _ => x.cnt o x.low

/-- An S destination takes the 32-bit value of a special or a mask, EXEC and NRM the whole value (R112). -/
def execMov (h : Head) (f : FmtA) (s : State) : Host.Outcome State Fault Refusal :=
  runIsa (.mov h f) h false s fun x s =>
    .next (if f.d.isP then x.wrTest s f.d 2 fun l => x.cnt f.a l != 0
           else x.put s f.d (f.ty == .z64) 2 (fun l => if f.ty = .z64 then x.wide f.a l else x.cnt f.a l)
             (if f.d.isS then x.movUni f.a else x.wide f.a x.low))

end Sys2Proof.Machine
end

