-- ==== Sys2Proof/Machine/Migrate.lean ====
section
/-! DEFINITION. Page migration: MIGRATE and the phases of the migration engine (R269, R270, R336). -/

namespace Sys2Proof.Machine

/-- The domain whose tables a DID has: through a slot that holds it, or through its function's partition. -/
def State.didDom (s : State) (did : Nat) : Option Dom :=
  if did = 0 then some (s.dom 0 0)
  else
    match (List.range 192).findSome? fun c =>
        ((List.range 8).find? fun k => k != 0 && s.dsValid c k && s.dsDid c k == did).map fun k => s.dom c k with
    | some d => some d
    | none =>
      (((List.range 513).map fun f => (s.sysReg 0x400 f).toNat).find? fun v => v.testBit 63 && fld v 0 10 == did).map fun v =>
        { dslot := 1, did, part := some (fld v 16 6), root := 0, g2 := (s.part (fld v 16 6)).g2 }

/-- Stage 2 of an IPA with reading and writing permitted. -/
def State.stage2rw (s : State) (d : Dom) (ipa : Nat) : Option Nat :=
  (s.stage2 d ipa).bind fun o => if o.rd && o.wr then some o.pa else none

/-- What MIGRATE's operands ask for, or none when it is refused (R336). An S[b] with bits [63:57], and an old page or an entry
in the host window, are refused too (DESIGN CHOICE, log 41). -/
def State.migPlan (s : State) (a b e n : Nat) : Option Mig :=
  let did := fld a 0 10
  let leaf := match pteOf 3 e with
    | .leaf oa => some oa
    | _ => none
  if fld a 10 6 ≠ 0 ∨ fld a 57 7 ≠ 0 ∨ fld b 57 7 ≠ 0 ∨ b % 8 ≠ 0 ∨ fld n 0 16 ≠ 0 ∨ fld n 57 7 ≠ 0 then none
  else
    match s.didDom did, leaf with
    | some d, some oa =>
      match s.stage2rw d b, s.stage2rw d n, s.stage2 d oa with
      | some entryPa, some newPa, some old =>
        if s.region newPa ≠ 0 ∨ 1 < s.region old.pa ∨ 1 < s.region entryPa ∨ homeOf newPa = homeOf old.pa then none
        else some
          { id := 0, src := homeOf old.pa, did, part := d.ptag, vpage := fld a 16 41, oldPa := old.pa / 65536 * 65536
            newPa := newPa / 65536 * 65536, entryPa, expected := BitVec.ofNat 64 e, newOa := n, phase := 0, nextLine := 0
            dirty := [], pass := 0, todo := [], copied := 0, held := [], req := 0, committed := false }
      | _, _, _ => none
    | _, _ => none

def State.setMig (s : State) (g : Mig) : State := { s with migs := FMap.put s.migs g.id g }

def execMigrate (h : Head) (f : FmtE) (s : State) : Host.Outcome State Fault Refusal :=
  runIsa (.migrate h f) h false s fun x s =>
    x.sysOnly s
      (match s.migPlan (x.uni f.a).toNat (x.uni f.b).toNat (x.uni f.c).toNat (x.k.getS (sNo f.c + 1)).toNat with
       | none => .next (x.putLocked s f.d 1 3)
       | some g =>
         if 4 ≤ (s.migs.filter fun m => m.2.src == g.src && decide (m.2.phase < 4)).length then .next (x.putLocked s f.d 1 2)
         else
           let q := s.ask x f.d 0 0 0
           let id := q.2.nextId
           .next ((q.2.bumpId.setMig { g with id, req := q.1 }).schedule (s.clock + 1) (.migrationCopy id)))

/-- A line is copied by a read and a write of the engine, which nothing waits for (R434, DESIGN CHOICE, log 41); its mark goes as it
is read. -/
def State.migLine (s : State) (g : Mig) (line : Nat) : State :=
  let b := s.rd (g.oldPa + 128 * line) 128
  let s := s.setMig { g with dirty := g.dirty.filter (· != line), copied := g.copied + 1 }
  let d := s.dom (16 * g.src) 0
  let s := s.sendToken ⟨0, 16 * g.src, d⟩ { pa := g.oldPa + 128 * line, n := 128, write := false, shrd := false, mt := 0 } 128
  let s := s.sendToken ⟨0, 16 * g.src, d⟩ { pa := g.newPa + 128 * line, n := 128, write := true, shrd := false, mt := 0 } 128
  s.lineWrite none (g.newPa + 128 * line) (b.zip (List.range 128) |>.map fun p => (p.2, p.1))

/-- The lines that a phase has still to copy, and the migration without the first of them. -/
def Mig.nextCopy (g : Mig) : Option (Nat × Mig) :=
  if g.phase = 0 then (if g.nextLine < 512 then some (g.nextLine, { g with nextLine := g.nextLine + 1 }) else none)
  else match g.todo with
    | l :: r => some (l, { g with todo := r })
    | [] => none

/-- The step after the last line of a phase. -/
def Mig.after (g : Mig) : Instr := if g.phase ≤ 1 then .migrationRecopyPass g.id else .migrationCommit g.id

/-- The end of a migration that a lost line stops (R336 status 4), or that goes to its release. -/
def State.stopMig (s : State) (g : Mig) : State :=
  (s.setMig { g with phase := 3, pass := g.pass, nextLine := 513 }).schedule s.clock (.migrationRelease g.id)

/-- One line of the copy, of a recopy pass or of the hold (R269); H4 holds it (R351). -/
def execMigrationCopy (id : Nat) (s : State) : Host.Outcome State Fault Refusal :=
  match FMap.get? s.migs id with
  | none => .next s
  | some g =>
    if 2 < g.phase then .next s
    else if 4 ≤ s.level g.src ∨ 4 ≤ s.level (homeOf g.newPa) then .next (s.schedule s.nextSample (.migrationCopy id))
    else
      match g.nextCopy with
      | none => .next (s.schedule s.clock g.after)
      | some (l, g) =>
        if s.isLost (g.oldPa + 128 * l) || s.isLost (g.newPa + 128 * l) then .next (s.stopMig g)
        else .next ((s.migLine g l).schedule (s.clock + 4) (.migrationCopy id))

/-- After the copy, or after a pass: another pass, or the hold. -/
def execMigrationRecopyPass (id : Nat) (s : State) : Host.Outcome State Fault Refusal :=
  match FMap.get? s.migs id with
  | none => .next s
  | some g =>
    let more := if g.phase = 0 then !g.dirty.isEmpty else decide (16 < g.dirty.length) && decide (g.pass < 4)
    if 1 < g.phase then .next s
    else if more then
      .next ((s.setMig { g with phase := 1, pass := g.pass + 1, todo := ascending g.dirty }).schedule s.clock
        (.migrationCopy id))
    else .next (s.schedule s.clock (.migrationHold id))

/-- The hold begins: accesses that arrive at the source wait, and the lines still marked are copied. -/
def execMigrationHold (id : Nat) (s : State) : Host.Outcome State Fault Refusal :=
  match FMap.get? s.migs id with
  | none => .next s
  | some g =>
    if 1 < g.phase then .next s
    else .next ((s.setMig { g with phase := 2, todo := ascending g.dirty }).schedule s.clock (.migrationCopy id))

/-- The entry is exchanged if it is as expected; the page's translations and L1 lines go. What the device itself wrote
during the hold is copied first. -/
def execMigrationCommit (id : Nat) (s : State) : Host.Outcome State Fault Refusal :=
  match FMap.get? s.migs id with
  | none => .next s
  | some g =>
    if g.phase ≠ 2 then .next s
    else
      let s := g.dirty.foldl (fun s l => match FMap.get? s.migs id with
        | some g => s.migLine { g with copied := g.copied - 1 } l
        | none => s) s
      if s.isLost g.entryPa || g.dirty.any fun l => s.isLost (g.oldPa + 128 * l) || s.isLost (g.newPa + 128 * l) then .next (s.stopMig { g with dirty := [] })
      else if s.rdN g.entryPa 8 ≠ g.expected.toNat then
        .next ((s.setMig { g with phase := 3, dirty := [] }).schedule s.clock (.migrationRelease id))
      else
        let e := setFld g.expected.toNat 12 45 (g.newOa / 4096)
        let s := s.setMig { g with phase := 3, dirty := [], committed := true }
        let s := s.lineWrite none (lineOf g.entryPa) (((toBytes 8 e).zip (List.range 8)).map fun b => (g.entryPa % 128 + b.2, b.1))
        let s := (s.cores.map (·.1)).foldl (fun s c => s.l1Drop c fun l _ _ => l / 65536 == g.oldPa / 65536) s
        let v : Inval :=
          { id := 0, kind := 0, did := g.did, part := g.part, page := g.vpage, count := 1, fn := none, req := 0,
            mig := some id, until_ := [] }
        .next (s.beginInval v (tlbNames g.did g.vpage 1) fun _ e _ va => e == g.did && va % 2 ^ 57 / 65536 == g.vpage)

/-- An address of the old page in the new one. -/
def Mig.moved (g : Mig) (pa : Nat) : Nat := if pa / 65536 = g.oldPa / 65536 then g.newPa + pa % 65536 else pa

/-- A held access goes on to the page's home: where the page now is, or the source again after an abort. It arrives there as
an item crossing from the source stack does (R269, R460). -/
def State.sendOn (s : State) (g : Mig) (id : Nat) : State :=
  match FMap.get? s.fly id with
  | none => s
  | some f =>
    if !g.committed ∨ f.kind = 18 then (s.setFly { f with phase := 0, arrives := s.clock }).schedule s.clock (.homeArrival id)
    else
      let pa := g.moved f.pa
      let dst := homeOf pa
      let t := s.clock + 60 + hopCost (s.ringWay g.src dst)
      let s : State := { s with loads := s.loads.map fun l =>
        if l.1 = f.op then
          (l.1, { l.2 with accs := l.2.accs.map fun a => if lineOf a.pa = lineOf f.pa then { a with pa := g.moved a.pa } else a })
        else l }
      (s.setFly { f with
        pa, accs := f.accs.map fun a => { a with pa := g.moved a.pa }, nofill := true, own := dst == stackOf f.core, phase := 0
        arrives := t, back := s.halfPath pa + hopCost (s.ringWay (stackOf f.core) dst) }).schedule t (.homeArrival id)

/-- The waiters at barrier words of the page wait at its new home (R173, R210). -/
def State.moveWaiters (s : State) (g : Mig) : State :=
  { s with fly := s.fly.map fun f =>
      if f.2.phase = 7 ∧ f.2.kind = 9 then
        (f.1, { f.2 with pa := g.moved f.2.pa, accs := f.2.accs.map fun a => { a with pa := g.moved a.pa } })
      else f }

/-- The queued accesses go on in their order; d lands (R269, R336). The migration's queue stays until they are performed. -/
def execMigrationRelease (id : Nat) (s : State) : Host.Outcome State Fault Refusal :=
  match FMap.get? s.migs id with
  | none => .next s
  | some g =>
    if g.phase = 4 then
      let left := g.held.any fun i => match FMap.get? s.fly i with
        | some f => !f.performed
        | none => false
      .next (if left then s.schedule (s.clock + 1) (.migrationRelease id) else { s with migs := FMap.drop s.migs id })
    else if g.phase ≠ 3 then .next s
    else
      let st := if g.nextLine = 513 then 4 else if g.committed then 0 else 1
      let s := (s.setMig { g with phase := 4 }).schedule (s.clock + 1) (.migrationRelease id)
      let s := if g.committed then s.moveWaiters g else s
      let s := g.held.foldl (fun s f => s.sendOn g f) s
      .next (s.answer g.req (st + g.pass * 2 ^ 8 + g.copied % 2 ^ 16 * 2 ^ 16))

end Sys2Proof.Machine
end

