-- ==== Sys2Proof/Machine/Net.lean ====
section
/-! DEFINITION. Links that fail, are forced down or retrain: pause, reroute, reissue (R433, R435, R436, R453). -/

namespace Sys2Proof.Machine

/-- Links forced down (R436). -/
def State.forced (s : State) (k : Nat) : List Nat :=
  (List.range 96).filter fun i => (s.sysReg (0x804 + i / 64) k).getLsbD (i % 64)

/-- A request on its way over the networks to its home. -/
def State.travels (s : State) (f : Fly) : Bool :=
  [0, 1, 2, 9, 13, 14, 15, 18].contains f.kind && !f.performed && f.phase == 0 && decide (s.region f.pa ≤ 1)
    && decide (s.clock < f.arrives)

/-- A request on its way through a stack's network on one of some links; on routes that firmware has computed, on any. -/
def State.onLinks (s : State) (k : Nat) (was new : List Nat) (f : Fly) : Bool :=
  let e := s.ends k f.core f.pa f.ext
  s.travels f && (stackOf f.core == k || homeOf f.pa == k) && (!was.isEmpty || (pathLinks e.1 e.2).any new.contains)

/-- A discarded request is sent again by its source, and counted in its core's register: one of the stack itself leaves when
injection resumes, one that comes over the Trellis waits at the port until then (R435). -/
def State.sendAgain (s : State) (k t : Nat) (f : Fly) : State :=
  let c := f.core % 16
  let n := if f.ext then s
    else s.modStack (stackOf f.core) fun k => { k with lostMsgs := FMap.put k.lostMsgs c (FMap.getD k.lostMsgs c 0 + 1) }
  if stackOf f.core = k then n.launchFly { f with left_ := t }
  else
    let u := max t f.arrives
    (n.setFly { f with arrives := u }).schedule u (.homeArrival f.id)

/-- The sequence of R435 with a new set of links out of use: how many of the packets on the links are discarded, and how
long draining and pause last, are free; the discarded ones are the latest, so that order is kept (R433). Nothing is injected
from the failure on (DESIGN CHOICE, log 39). -/
def State.reroute (s : State) (k : Nat) (out : List Nat) : State :=
  let was := (s.stack k).linkOut
  let new := out.filter fun i => !was.contains i
  let drain := s.freeLat 1
  let len := drain.2.freeBelow 16384
  let from_ := s.clock + drain.1
  let p := len.1 + 1
  let s := len.2.modStack k fun st =>
    { st with
      linkOut := out, netState := if netWhole out then st.netState else 3, reroutes := st.reroutes + 1
      lastPause := p + from_ / 4096 % 2 ^ 32 * 2 ^ 32, drainUntil := max st.drainUntil from_
      pausedUntil := max st.pausedUntil (from_ + p) }
  let on := (s.fly.map (·.2)).filter (s.onLinks k was new)
  let n := s.freeBelow (on.length + 1)
  let s := (on.drop (on.length - n.1)).foldl (fun s f => s.sendAgain k (from_ + p) f) n.2
  ((s.fly.map (·.2)).filter fun f => s.travels f && !(s.routable f.core f.pa f.ext)).foldl State.failFly s

/-- A link fails (R435). -/
def execLinkFailure (stack link : Nat) (s : State) : Host.Outcome State Fault Refusal :=
  let st := s.stack stack
  if 96 ≤ link ∨ st.linkDown.contains link then .next s
  else
    let s := s.modStack stack fun k => { k with linkDown := link :: k.linkDown }
    .next (s.reroute stack ((List.range 96).filter fun i => i == link || st.linkDown.contains i || (s.forced stack).contains i))

/-- A write of FORCEDOWN (R436); its status lands when injection resumes. -/
def execForcedown (stack word : Nat) (value : U64) (req : Nat) (s : State) : Host.Outcome State Fault Refusal :=
  let idx := 0x804 + word
  let c := s.writeCheck idx stack
  let v := maskTo idx value
  let s' := s.setSys idx stack v
  let out := (List.range 96).filter fun i => (s.stack stack).linkDown.contains i || (s'.forced stack).contains i
  if s.begun req then .next (s.answer req 0)
  else if c ≠ 0 then .next (s.answer req c)
  else if !(netWhole out) then .next (s.answer req 1)
  else if s.sysReg idx stack = v then .next (s.answer req 0)
  else
    let s := (s'.reroute stack out).begin req
    .next (s.schedule (s.netOpen stack) (.forcedown stack word value req))

/-- A link loses its training and trains again: kind 0 toward the stack below, 1 toward the stack above, 2 PCIe, 3
Ethernet. A Trellis link has a port at both ends. -/
def execLinkRetrain (stack kind : Nat) (s : State) : Host.Outcome State Fault Refusal :=
  let drop (s : State) (k bit idx : Nat) : State :=
    if (s.stack k).ready.getLsbD bit then
      let t := s.freeLat 1
      ((t.2.modStack k fun st => { st with ready := st.ready &&& ~~~(1#64 <<< bit) }).count idx k 1).schedule
        (s.clock + t.1) (.unitReady k bit)
    else s
  .next (if kind = 0 then drop (drop s stack 4 0x704) ((stack + 11) % 12) 5 0x704
    else if kind = 1 then drop (drop s stack 5 0x704) ((stack + 1) % 12) 4 0x704
    else if kind = 2 then drop s stack 6 0x705
    else drop s stack 7 0x705)

end Sys2Proof.Machine
end

