-- ==== Sys2Proof/Machine/Package.lean ====
section
/-! DEFINITION. Readiness, resets, the management mailbox, background work, errors (R386 to R388, R437 to R440, R453, R454,
R456, R457). -/

namespace Sys2Proof.Machine

/-! Readiness (R437 to R439). -/

/-- A unit reports ready: R437's bit. After 4 s only one that has been ready before comes back. -/
def execUnitReady (stack unit : Nat) (s : State) : Host.Outcome State Fault Refusal :=
  if 12 ≤ stack ∨ 24 ≤ unit ∨ !((s.unitMask stack).testBit unit) then .next s
  else if readyLimit ≤ s.clock ∧ !((s.stack stack).seen.getLsbD unit) then .next s
  else
    let bit := BitVec.ofNat 64 (2 ^ unit)
    let s := s.modStack stack fun k => { k with ready := k.ready ||| bit, seen := k.seen ||| bit }
    let waits := s.reqs.filter fun r => unit == 0 && r.2.idx == 0x30 && r.2.no == stack && r.2.status == 255
    .next ((waits.foldl (fun s r => s.answer r.1 0) s).pokeAll)

/-- 4 s after package reset: units not ready are counted, and stay unusable (R439). -/
def execReadyTimeout (s : State) : Host.Outcome State Fault Refusal :=
  .next ((List.range 12).foldl (fun s k =>
    s.count 0x709 k ((List.range 24).filter fun u => (s.unitMask k).testBit u && !((s.stack k).seen.getLsbD u)).length) s)

/-! Stack reset (R440). -/

/-- The workgroups of a core end at once, and the core stands empty: its buffered stores set out, and what the domain slots and the park
records hold stays. -/
def State.clearCore (s : State) (c : Nat) : State :=
  let s := (s.core c).bufs.foldl (fun s q => q.2.foldl (fun s e => s.leaveBuffer c q.1 e) s) s
  let s := ((s.core c).wgs.map (·.1)).foldl (fun s key => s.endGroup c key) s
  let s := s.modCore c fun k => { k with warps := [], ops := [] }
  let s := ((s.core c).wgs.map (·.1)).foldl (fun s key => s.exitWg c key) s
  s.modCore c fun k => { l1ways := k.l1ways, parkHeld := k.parkHeld, pendingRecs := k.pendingRecs, nextTicket := k.nextTicket }

/-- Copies that touch the stack fault at their first element there; one that has not started moves nothing (R286, R440). -/
def State.cutCopies (s : State) (k : Nat) : State :=
  let ops := s.cores.flatMap fun c => (c.2.ops.filter (·.isCopy)).map fun o => (c.1, o)
  ops.foldl (fun s p =>
    let j := s.copyWork p.1 p.2
    match j.fail with
    | some f =>
      let moved := if p.2.started then j.s else s
      if f.cause = cMachineCheck then moved.copyEnd p.1 p.2 j.zeros (some f)
      else if j.miss.isSome ∧ p.2.homes.any (fun h => h.1 == k) then
        moved.copyEnd p.1 p.2 j.zeros (some { cause := cMachineCheck, addr := f.addr, pa := 0, detail := 0xF + 32 * k * 2 ^ 4 })
      else s
    | none => s) s

/-- Trowel items with a request for a line of the stack under way, and partials on their way to it, fail (R304, R440). -/
def State.cutItems (s : State) (k : Nat) : State :=
  let s := s.cmds.foldl (fun s g =>
    let item := s.agenda.findSome? fun a => match a.2 with
      | .trowelItem c i => if c = g.1 then some i else none
      | _ => none
    match s.fly.find? fun f => f.2.kind == 18 && f.2.op == g.1 && !f.2.performed && homeOf f.2.pa == k, item with
    | some f, some i => s.nmFail g.2 i 4 f.2.va.toNat
    | _, _ => s) s
  let parts := s.cmds.flatMap fun g => g.2.partials.map fun p => (g.1, p.1)
  parts.foldl (fun s p =>
    match FMap.get? s.cmds p.1 with
    | none => s
    | some g =>
      match s.nmPlaces g (s.nmUnit g (nmOut 2 g.rcd p.2)) [(nmOut 2 g.rcd p.2, 1, 4)] with
      | .fail 4 _ => (match execTrowelPartialArrival p.1 p.2 s with
          | .next s => s
          | _ => s)
      | _ => s) s

/-- Table reads of walks on their way to the stack fail (R440). -/
def State.cutWalks (s : State) (k : Nat) : State :=
  (s.walks.map (·.2)).foldl (fun s wk =>
    match s.stage2 (s.walkDom wk) (entryIpa wk.level wk.base wk.va) with
    | some o =>
      if wk.running && wk.hop == 1 && decide (s.region o.pa ≤ 1) && homeOf o.pa == k then
        (s.dropLines wk.id).walkDone wk (.lost o.pa)
      else s
    | none => s) s

/-- Bytes that nobody knows any more: lines that were lost are free values (DESIGN CHOICE, log 2). -/
def State.freeLine (s : State) (pa : Nat) : State :=
  let r := (List.range 16).foldl (fun (r : List Byte × State) _ =>
    let w := r.2.freeWord
    (r.1 ++ toBytes 8 w.1.toNat, w.2)) ([], s)
  r.2.wr pa r.1

/-- The steps of R440 on a stack. -/
def State.resetStack (s : State) (k : Nat) : State :=
  let s := s.count 0x703 k 1
  let s := ((List.range 16).map (16 * k + ·)).foldl State.clearCore s
  let here (pa : Nat) : Bool := decide (s.region pa ≤ 1) && homeOf pa == k
  let s : State := { s with fly := s.fly.filter fun f => !(f.2.phase == 7 && stackOf f.2.core == k) }
  let s := s.modStack k fun st => { st with cut := true }
  let s := ((s.cutCopies k).cutItems k).cutWalks k
  let s := s.modStack k fun st => { st with cut := false }
  let dead := (s.fly.map (·.2)).filter fun f =>
    [0, 1, 2, 9, 13, 14, 15, 18].contains f.kind && here f.pa && (!f.performed || f.phase == 7)
  let s := dead.foldl State.failFly s
  let s := ((s.migs.map (·.2)).filter fun g => g.src == k || homeOf g.newPa == k).foldl (fun s g =>
    if g.phase < 3 then ({ s with migs := FMap.put s.migs g.id { g with phase := 3, nextLine := 513 } } : State).schedule s.clock
      (.migrationRelease g.id) else s) s
  let s := (s.stack k).lost.foldl (fun s l => s.freeLine l.1) s
  let s : State := { s with
    portQ := s.portQ.filter fun p => p.1 / 32 != k
    walks := s.walks.filter fun w => w.2.stack != k }
  (s.spendLevel k).modStack k fun st =>
    { st with
      ready := 0, lost := [], l2 := [], tlb := [], walkers := 0, refresh := [], linkDown := []
      linkOut := (List.range 96).filter fun i => (s.sysReg (0x804 + i / 64) k).getLsbD (i % 64)
      netState := 0, reroutes := 0, lastPause := 0, lostMsgs := [], drainUntil := s.clock, pausedUntil := s.clock, level := 0, low := false, cause := 0 }

/-- The units of a stack report ready again, each in its own time of at most 4 s. -/
def State.unitsRise (s : State) (k : Nat) : State :=
  (List.range 24).foldl (fun s u =>
    if (s.unitMask k).testBit u then
      let r := s.freeBelow readyLimit
      r.2.schedule (s.clock + 1 + r.1) (.unitReady k u)
    else s) s

/-- A write of STKRESET go = 1; its status lands when the logic bit rises. -/
def execStkreset (stack req : Nat) (s : State) : Host.Outcome State Fault Refusal :=
  let c := s.writeCheck 0x30 stack
  if c ≠ 0 then .next (s.answer req c) else .next (((s.resetStack stack).unitsRise stack).begin req)

/-! The mailbox (R456, R457). -/

/-- Eight bytes of the mailbox's buffer. -/
def State.mailWord (s : State) (off : Nat) : Nat := ofBytes ((s.mailBuf.drop off).take 8)

/-- An image's signature verifies under the key whose digest is fused, and its digest matches its body (R456). -/
def imageGood (image : List Byte) : Bool :=
  Config.shake256 (Config.imageKey image) == Config.vendorKeyDigest
    && Config.mlDsaVerify (Config.imageKey image) (Config.imageSigned image) (Config.imageSignature image)
    && Config.imageDigest image == Config.shake256 (Config.imageBody image)

/-- LOAD: the image is read from the host and verified; accepted, it waits for the next package reset. -/
def execLoad (s : State) : Host.Outcome State Fault Refusal :=
  let image := s.hostMem.read (s.mailWord 0) (s.mailWord 8)
  let v := Config.imageVersion image
  if !(imageGood image) then .next { s with mailStatus := 1 }
  else if v < s.minVersion then .next { s with mailStatus := 2 }
  else .next { s with mailStatus := 0, staged := some image, minVersion := v }

/-- The fuse map's words in their order. -/
def State.fuseMap (s : State) : List U64 :=
  (List.range 21).map fun i => BitVec.ofNat 64
    (if i < 3 then fuseWord s.fuseCore i else if i < 9 then fuseWord s.fuseSlice (i - 3) else fuseWord s.fuseChan (i - 9))

/-- The fields of a report, in R457's order: the nonce, DEVID and SERIAL, the digest of the fuse map, the running firmware's digest
and security version (R457; the widths of the last DESIGN CHOICE, log 15). -/
def State.reportFields (s : State) (nonce : List Byte) : List Byte :=
  nonce ++ toBytes 8 (s.sysVal 0 0) ++ toBytes 8 (s.sysVal 1 0)
    ++ toBytes 64 (Config.shake256 (s.fuseMap.flatMap fun w => toBytes 8 w.toNat)).toNat
    ++ toBytes 64 (Config.imageDigest s.running).toNat ++ toBytes 8 (Config.imageVersion s.running)

/-- A report: its fields, and the signature over their digest (R457). -/
def State.report (s : State) (nonce : List Byte) : List Byte :=
  s.reportFields nonce ++ Config.attestSign (Config.shake256 (s.reportFields nonce))

/-- ATTEST: the report replaces the first bytes of the buffer. -/
def execAttest (s : State) : Host.Outcome State Fault Refusal :=
  let nonce := (s.mailBuf ++ List.replicate 32 0).take 32
  let r := (s.report nonce).take 4080
  .next { s with mailBuf := r ++ s.mailBuf.drop r.length }

/-- RESET: as STKRESET, of the stack in the buffer. -/
def execReset (s : State) : Host.Outcome State Fault Refusal :=
  let k := s.mailWord 0
  .next (if k < 12 then s.schedule s.clock (.stkreset k 0) else s)

/-- Package reset: CLOCK is 0 and every unit not ready; what is fused or non-volatile, the host and its record of the device
stay, and staged firmware runs (R439, R453, R456). -/
def execPackageReset (s : State) : Host.Outcome State Fault Refusal :=
  let s := (List.range 12).foldl State.spendLevel s
  .next { State.reset with
    free := s.free, nextId := s.nextId, inbox := s.inbox.map fun i => (i.1 - s.clock, i.2)
    hostMem := s.hostMem, fuseCore := s.fuseCore, fuseSlice := s.fuseSlice, fuseChan := s.fuseChan
    staged := none, running := s.staged.getD s.running, minVersion := s.minVersion
    counters := s.counters, nvCounters := s.nvCounters, outPackets := s.outPackets, hostGot := s.hostGot
    stackMap := s.stackMap.map fun k => (k.1, { sensors := k.2.sensors }) }

/-! Background work (R453, R454). -/

/-- Cycles in a second. -/
def second : Nat := 3300000000

/-- The lifetime counters go to their storage, at least once a second. -/
def execCounterWriteback (s : State) : Host.Outcome State Fault Refusal :=
  .next (({ s with nvCounters := s.counters } : State).schedule (s.clock + second) .counterWriteback)

/-- The patrol scrubber reads a line, and rewrites it if it corrects it: nothing of the architecture changes (R454). -/
def execPatrolScrub (s : State) : Host.Outcome State Fault Refusal := .next s

/-- A corrected error is counted (R453): kind 0 an SRAM or register, 1 a DRAM. -/
def execCorrectedError (stack kind : Nat) (s : State) : Host.Outcome State Fault Refusal :=
  if 12 ≤ stack then .next s else .next (s.count (if kind = 0 then 0x700 else 0x701) stack 1)

/-! Uncorrectable errors (R386 to R388). -/

/-- A machine check that concerns no warp: a park record in slot 0xFF of a core (R373, R387). -/
def State.lossRecord (s : State) (c did : Nat) (pa : Nat) (detail : U64) : State :=
  let t := s.checkDetail { cause := cMachineCheck, pc := 0, pa := BitVec.ofNat 64 pa, detail }
  let w0 := cMachineCheck + 0xFF * 2 ^ 8 + 1 * 2 ^ 28 + did % 1024 * 2 ^ 32
  t.2.postRecord c 255 [BitVec.ofNat 64 w0, 0, 0, 0, BitVec.ofNat 64 pa, 0, t.1.detail, 0]

/-- Cores of a stack that hold a system warp. -/
def State.sysCores (s : State) (k : Nat) : List Nat :=
  ((List.range 16).map (16 * k + ·)).filter fun c => (s.warp? c 63).isSome

/-- A line is lost (R387): the table takes it, or the loss cannot be contained. -/
def State.loseLine (s : State) (pa source : Nat) : State :=
  let line := lineOf pa
  let k := homeOf line
  let st := s.stack k
  if 1 < s.region line ∨ st.lost.any (fun l => l.1 == line) then s
  else if 64 ≤ st.lost.length then
    ((List.range 16).map (16 * k + ·)).foldl (fun s c =>
      if (s.warp? c 63).isSome then s.lossRecord c 0 line (BitVec.ofNat 64 (0xF + s.pkgSlice line * 2 ^ 4)) else s)
      (s.count 0x703 k 1)
  else
    let d : Nat × State := match FMap.get? st.filled line with
      | some did => (did, s)
      | none => s.freeBelow 1024
    let s := (d.2.l2Drop line).modStack k fun st => { st with lost := st.lost ++ [(line, d.1, source, [])] }
    let s := (s.cores.map (·.1)).foldl (fun s c => s.l1Drop c fun l _ own => l == line && own) s
    (s.count 0x702 k 1).lossRecord ((s.sysCores k).headD (16 * k)) d.1 line 0

/-- A register of a warp holds an error. -/
def State.badReg (s : State) (c slot : Nat) (r : Reg) : State :=
  match s.warp? c slot with
  | none => s
  | some k => (s.setWarp c slot { k with bad := r :: k.bad.filter (· != r) }).count 0x702 (stackOf c) 1

/-- Warps whose batches an error touches: a core, an identity and a batch each. -/
def State.markBatches (s : State) (l : List (Nat × Nat × Nat)) : State :=
  l.foldl (fun s m => s.modCore m.1 fun k =>
    { k with warps := k.warps.map fun p =>
        if p.2.uid = m.2.1 then (p.1, { p.2 with lostBatches := m.2.2 :: p.2.lostBatches }) else p }) s

/-- Operations of a core's cluster, with their cores. -/
def State.clusterOps (s : State) (c : Nat) : List (Nat × EOp) :=
  ((List.range 4).map (c / 4 * 4 + ·)).flatMap fun k => ((s.core k).ops.filter fun o => !o.isCopy).map fun o => (k, o)

/-- A core's working latch holds an error: it is invalid, and so is what started operations took from it. -/
def State.badLatch (s : State) (c : Nat) : State :=
  let l := (s.quad c).latch
  if !l.valid then s
  else
    let owner := (s.cores.flatMap fun k => (k.2.warps.filter fun p => p.2.uid == l.uid).map fun _ => (k.1, l.uid, 0)).take 1
    let s := s.modQuad c fun q => { q with latch := { q.latch with valid := false } }
    let s := (s.clusterOps c).foldl (fun s p =>
      let i := (membersOf p.2.mode p.1).findIdx (· == c)
      s.setOp p.1 { p.2 with lat := (p.2.lat.zip (List.range p.2.lat.length)).map fun e =>
        if e.2 = i then { e.1 with valid := false } else e.1 }) s
    ((s.markBatches owner).reissue c).count 0x702 (stackOf c) 1

/-- An accumulator bank holds an error: it is lost, and the batches of operations that name it are marked (R358). -/
def State.badBank (s : State) (c b : Nat) : State :=
  if (FMap.get? (s.quad c).stamps b).isNone then s
  else
    let hit := (s.clusterOps c).filter fun p =>
      (p.2.kind == 11 || (p.2.kind == 12 && !p.2.flag)) && (p.2.banks p.1).1.contains c && (p.2.banks p.1).2.contains b
    let s := s.modQuad c fun q =>
      { q with lost := b :: q.lost.filter (· != b), banks := q.banks.filter fun e => e.1 / 32768 != b }
    (s.markBatches (hit.map fun p => (p.1, p.2.uid, p.2.batch))).count 0x702 (stackOf c) 1

/-- An uncorrectable error, by where it is found. -/
def execUncorrectableError (place : ErrPlace) (s : State) : Host.Outcome State Fault Refusal :=
  match place with
  | .l1Line c pa => .next ((s.l1Drop c fun l _ _ => l == lineOf pa).count 0x702 (stackOf c) 1)
  | .cleanL2 pa =>
    match s.l2Find pa with
    | some l => .next (if l.dirty then s.loseLine pa 5 else (s.l2Drop pa).count 0x702 (homeOf pa) 1)
    | none => .next s
  | .vreg c w i => .next (s.badReg c w (.v i))
  | .reserve c w i => .next (s.badReg c w (.rsv i))
  | .sreg c w i => .next (s.badReg c w (.s i))
  | .preg c w i => .next (s.badReg c w (.p i))
  | .scale c w i => .next (s.badReg c w (.x i))
  | .tile c w i => .next (s.badReg c w (.t i))
  | .scratch c word =>
    .next ((s.modCore c fun k => { k with badScratch := word :: k.badScratch.filter (· != word) }).count 0x702 (stackOf c) 1)
  | .latch c => .next (s.badLatch c)
  | .bank c i => .next (s.badBank c i)
  | .line pa source => .next (s.loseLine pa source)
  | .ctxRecord pa =>
    match s.ctxRecs.find? fun r => decide (r.addr ≤ pa) && decide (pa < r.addr + r.len) with
    | some r => .next ((s.wr r.addr [3]).count 0x702 (homeOf r.addr) 1)
    | none => .next s

end Sys2Proof.Machine
end

