-- ==== Sys2Proof/Machine/Pair.lean ====
section
/-! DEFINITION. Pair words (R35 to R38, R137). -/

namespace Sys2Proof.Machine

/-- The type a slot's x names (R36). -/
def sopTy (x : Nat) : Ty :=
  match x with
  | 1 => .s8
  | 2 => .s16
  | 3 => .s32
  | 5 => .z8
  | 6 => .z16
  | 7 => .z32
  | 9 => .f16
  | 10 => .bf16
  | 11 => .f32
  | _ => .dflt

/-- The operands of the full equivalent: d, d, b; MOV, FABS and FNEG use b where the full form uses a (R137). -/
def Slot.full (q : Slot) : FmtA :=
  { d := .v q.d, a := if q.readsD then .v q.d else q.b, b := q.b, bp := 0, c := .zero, ty := sopTy q.x.toNat,
    rnd := .rne, flags := 0 }

/-- A slot's effect under its own guard (R36, R38): sources are those the context saw before the pair (R37). -/
def slotEff (x : Ctx) (q : Slot) (s : State) : State :=
  let f := Slot.full q
  let imm := sextN 7 q.x.toNat
  if x.act = 0 then s
  else
    match q.sop with
    | .snop => s
    | .iadd => effI2 2 (addI false) x f s
    | .isub => effI2 2 (subI false) x f s
    | .iand => effI2 2 (fun _ a b => a &&& b) x f s
    | .ior => effI2 2 (fun _ a b => a ||| b) x f s
    | .ixor => effI2 2 (fun _ a b => a ^^^ b) x f s
    | .ishl => effIc 2 shlI x f s
    | .ishr => effIc 2 shrI x f s
    | .isra => effIc 2 sraI x f s
    | .imin => effI2 2 minI x f s
    | .imax => effI2 2 maxI x f s
    | .imul => effI2 4 mulI x f s
    | .iaddi => x.put s f.d false 2 (fun l => wrapN 32 ((x.cnt f.d l : Nat) + imm)) 0
    | .mov => x.put s f.d false 2 (fun l => x.cnt q.b l) 0
    | .movi => x.put s f.d false 2 (fun _ => wrapN 32 imm) 0
    | .fadd => effF 4 (rnd2 addX) x f false s
    | .fsub => effF 4 (rnd2 subX) x f false s
    | .fmul => effF 4 (rnd2 fun _ => Exact.mul) x f false s
    | .fmin => effF 4 (fun fm _ _ a b _ => fm.minmax false false a b) x f false s
    | .fmax => effF 4 (fun fm _ _ a b _ => fm.minmax true false a b) x f false s
    | .fabs => effF 4 (fun fm _ _ a _ _ => fm.absBits a) x f false s
    | .fneg => effF 4 (fun fm _ _ a _ _ => fm.negBits a) x f false s

/-- The shared stall count as a head; the slots' own guards come later (R38). -/
def pairHead (stall : BitVec 3) : Head := ⟨0, false, stall.setWidth 4⟩

def execPairWord (stall : BitVec 3) (s0 s1 : Slot) (s : State) : Host.Outcome State Fault Refusal :=
  runIsa (.pairWord stall s0 s1) (pairHead stall) false s fun x s =>
    .next (slotEff (x.slot s1) s1 (slotEff (x.slot s0) s0 s))

end Sys2Proof.Machine
end

