-- ==== Sys2Proof/Machine/Dispatch.lean ====
section
/-! DEFINITION. One arm for each constructor of Instr. -/

namespace Sys2Proof.Machine

/-- The meaning of each instruction and of each step. -/
def exec (i : Instr) (s : State) : Host.Outcome State Fault Refusal :=
  match i with
  | .iadd h f => Sys2Proof.Machine.execIadd h f s
  | .isub h f => Sys2Proof.Machine.execIsub h f s
  | .imul h f => Sys2Proof.Machine.execImul h f s
  | .imulh h f => Sys2Proof.Machine.execImulh h f s
  | .imad h f => Sys2Proof.Machine.execImad h f s
  | .idiv h f => Sys2Proof.Machine.execIdiv h f s
  | .irem h f => Sys2Proof.Machine.execIrem h f s
  | .iabs h f => Sys2Proof.Machine.execIabs h f s
  | .ineg h f => Sys2Proof.Machine.execIneg h f s
  | .imin h f => Sys2Proof.Machine.execImin h f s
  | .imax h f => Sys2Proof.Machine.execImax h f s
  | .iand h f => Sys2Proof.Machine.execIand h f s
  | .ior h f => Sys2Proof.Machine.execIor h f s
  | .ixor h f => Sys2Proof.Machine.execIxor h f s
  | .inot h f => Sys2Proof.Machine.execInot h f s
  | .ishl h f => Sys2Proof.Machine.execIshl h f s
  | .ishr h f => Sys2Proof.Machine.execIshr h f s
  | .isra h f => Sys2Proof.Machine.execIsra h f s
  | .irot h f => Sys2Proof.Machine.execIrot h f s
  | .ibfx h f => Sys2Proof.Machine.execIbfx h f s
  | .ibfi h f => Sys2Proof.Machine.execIbfi h f s
  | .ipopc h f => Sys2Proof.Machine.execIpopc h f s
  | .iclz h f => Sys2Proof.Machine.execIclz h f s
  | .ibrev h f => Sys2Proof.Machine.execIbrev h f s
  | .icmp h f => Sys2Proof.Machine.execIcmp h f s
  | .isel h f => Sys2Proof.Machine.execIsel h f s
  | .iaddc h f => Sys2Proof.Machine.execIaddc h f s
  | .idot4 h f => Sys2Proof.Machine.execIdot4 h f s
  | .ilea h f => Sys2Proof.Machine.execIlea h f s
  | .iaddi h f => Sys2Proof.Machine.execIaddi h f s
  | .icmpi h f => Sys2Proof.Machine.execIcmpi h f s
  | .fadd h f => Sys2Proof.Machine.execFadd h f s
  | .fsub h f => Sys2Proof.Machine.execFsub h f s
  | .fmul h f => Sys2Proof.Machine.execFmul h f s
  | .ffma h f => Sys2Proof.Machine.execFfma h f s
  | .fmin h f => Sys2Proof.Machine.execFmin h f s
  | .fmax h f => Sys2Proof.Machine.execFmax h f s
  | .fabs h f => Sys2Proof.Machine.execFabs h f s
  | .fneg h f => Sys2Proof.Machine.execFneg h f s
  | .fcmp h f => Sys2Proof.Machine.execFcmp h f s
  | .frcp h f => Sys2Proof.Machine.execFrcp h f s
  | .frsq h f => Sys2Proof.Machine.execFrsq h f s
  | .fsqrt h f => Sys2Proof.Machine.execFsqrt h f s
  | .fexp2 h f => Sys2Proof.Machine.execFexp2 h f s
  | .flog2 h f => Sys2Proof.Machine.execFlog2 h f s
  | .fsin h f => Sys2Proof.Machine.execFsin h f s
  | .fcos h f => Sys2Proof.Machine.execFcos h f s
  | .ftanh h f => Sys2Proof.Machine.execFtanh h f s
  | .fclass h f => Sys2Proof.Machine.execFclass h f s
  | .fdiv h f => Sys2Proof.Machine.execFdiv h f s
  | .fdot2 h f => Sys2Proof.Machine.execFdot2 h f s
  | .fscale h f => Sys2Proof.Machine.execFscale h f s
  | .frnd h f => Sys2Proof.Machine.execFrnd h f s
  | .ffrac h f => Sys2Proof.Machine.execFfrac h f s
  | .cvt h f src => Sys2Proof.Machine.execCvt h f src s
  | .qnt h f => Sys2Proof.Machine.execQnt h f s
  | .dqnt h f => Sys2Proof.Machine.execDqnt h f s
  | .pack h f => Sys2Proof.Machine.execPack h f s
  | .unpk h f => Sys2Proof.Machine.execUnpk h f s
  | .lshuf h f => Sys2Proof.Machine.execLshuf h f s
  | .lbcast h f => Sys2Proof.Machine.execLbcast h f s
  | .lred h f => Sys2Proof.Machine.execLred h f s
  | .lscan h f => Sys2Proof.Machine.execLscan h f s
  | .lballot h f => Sys2Proof.Machine.execLballot h f s
  | .lvote h f => Sys2Proof.Machine.execLvote h f s
  | .plog h f => Sys2Proof.Machine.execPlog h f s
  | .pcnt h f => Sys2Proof.Machine.execPcnt h f s
  | .mov h f => Sys2Proof.Machine.execMov h f s
  | .movi h f => Sys2Proof.Machine.execMovi h f s
  | .movhi h f => Sys2Proof.Machine.execMovhi h f s
  | .rdspec h f => Sys2Proof.Machine.execRdspec h f s
  | .wrspec h f => Sys2Proof.Machine.execWrspec h f s
  | .bra h f => Sys2Proof.Machine.execBra h f s
  | .brx h f => Sys2Proof.Machine.execBrx h f s
  | .join h f => Sys2Proof.Machine.execJoin h f s
  | .call h f => Sys2Proof.Machine.execCall h f s
  | .callx h f => Sys2Proof.Machine.execCallx h f s
  | .ret h f => Sys2Proof.Machine.execRet h f s
  | .rgrow h f => Sys2Proof.Machine.execRgrow h f s
  | .rshrink h f => Sys2Proof.Machine.execRshrink h f s
  | .exit h f => Sys2Proof.Machine.execExit h f s
  | .yield h f => Sys2Proof.Machine.execYield h f s
  | .sleep h f => Sys2Proof.Machine.execSleep h f s
  | .sleepuntil h f => Sys2Proof.Machine.execSleepuntil h f s
  | .trap h f => Sys2Proof.Machine.execTrap h f s
  | .bkpt h f => Sys2Proof.Machine.execBkpt h f s
  | .ld h f => Sys2Proof.Machine.execLd h f s
  | .st h f => Sys2Proof.Machine.execSt h f s
  | .ldu h f => Sys2Proof.Machine.execLdu h f s
  | .stu h f => Sys2Proof.Machine.execStu h f s
  | .pref h f => Sys2Proof.Machine.execPref h f s
  | .pagein h f => Sys2Proof.Machine.execPagein h f s
  | .cctlIl1 h f => Sys2Proof.Machine.execCctlIl1 h f s
  | .cctlIl1all h f => Sys2Proof.Machine.execCctlIl1all h f s
  | .cctlIl1rem h f => Sys2Proof.Machine.execCctlIl1rem h f s
  | .cctlEvl2 h f => Sys2Proof.Machine.execCctlEvl2 h f s
  | .atom h f => Sys2Proof.Machine.execAtom h f s
  | .atomcas h f => Sys2Proof.Machine.execAtomcas h f s
  | .red h f => Sys2Proof.Machine.execRed h f s
  | .fence h f => Sys2Proof.Machine.execFence h f s
  | .nop h => Sys2Proof.Machine.execNop h s
  | .barinit h f => Sys2Proof.Machine.execBarinit h f s
  | .arrive h f => Sys2Proof.Machine.execArrive h f s
  | .waitb h f => Sys2Proof.Machine.execWaitb h f s
  | .arrwait h f => Sys2Proof.Machine.execArrwait h f s
  | .wsync h f => Sys2Proof.Machine.execWsync h f s
  | .gsync h => Sys2Proof.Machine.execGsync h s
  | .launch h f => Sys2Proof.Machine.execLaunch h f s
  | .cwait h f => Sys2Proof.Machine.execCwait h f s
  | .fetchwg h f => Sys2Proof.Machine.execFetchwg h f s
  | .tload h f => Sys2Proof.Machine.execTload h f s
  | .tstore h f => Sys2Proof.Machine.execTstore h f s
  | .tgather h f => Sys2Proof.Machine.execTgather h f s
  | .tscatter h f => Sys2Proof.Machine.execTscatter h f s
  | .tcopy h f => Sys2Proof.Machine.execTcopy h f s
  | .tfill h f => Sys2Proof.Machine.execTfill h f s
  | .tstat h f => Sys2Proof.Machine.execTstat h f s
  | .mwld h f => Sys2Proof.Machine.execMwld h f s
  | .mma h f => Sys2Proof.Machine.execMma h f s
  | .mread h f => Sys2Proof.Machine.execMread h f s
  | .mzero h f => Sys2Proof.Machine.execMzero h f s
  | .mhad h f => Sys2Proof.Machine.execMhad h f s
  | .mbatch h f => Sys2Proof.Machine.execMbatch h f s
  | .mwait h f => Sys2Proof.Machine.execMwait h f s
  | .mfuseNone h d => Sys2Proof.Machine.execMfuseNone h d s
  | .mfuseNpair h d => Sys2Proof.Machine.execMfuseNpair h d s
  | .mfuseKpair h d => Sys2Proof.Machine.execMfuseKpair h d s
  | .mfuseQuad h d => Sys2Proof.Machine.execMfuseQuad h d s
  | .mrelease h f => Sys2Proof.Machine.execMrelease h f s
  | .nmexp h f => Sys2Proof.Machine.execNmexp h f s
  | .nmred h f => Sys2Proof.Machine.execNmred h f s
  | .xmov h f => Sys2Proof.Machine.execXmov h f s
  | .xadd h f => Sys2Proof.Machine.execXadd h f s
  | .xsub h f => Sys2Proof.Machine.execXsub h f s
  | .xmax h f => Sys2Proof.Machine.execXmax h f s
  | .xmin h f => Sys2Proof.Machine.execXmin h f s
  | .xcvt h f => Sys2Proof.Machine.execXcvt h f s
  | .xbind h f => Sys2Proof.Machine.execXbind h f s
  | .xunbind h f => Sys2Proof.Machine.execXunbind h f s
  | .xtag h f => Sys2Proof.Machine.execXtag h f s
  | .xqnt h f => Sys2Proof.Machine.execXqnt h f s
  | .xld h f => Sys2Proof.Machine.execXld h f s
  | .xst h f => Sys2Proof.Machine.execXst h f s
  | .fmtset h f => Sys2Proof.Machine.execFmtset h f s
  | .fmtget h f => Sys2Proof.Machine.execFmtget h f s
  | .tdset h f => Sys2Proof.Machine.execTdset h f s
  | .tdget h f => Sys2Proof.Machine.execTdget h f s
  | .gcall h gate n => Sys2Proof.Machine.execGcall h gate n s
  | .gret h => Sys2Proof.Machine.execGret h s
  | .sysrd h d idx no => Sys2Proof.Machine.execSysrd h d idx no s
  | .syswr h d a idx no => Sys2Proof.Machine.execSyswr h d a idx no s
  | .tlbinvRange h d a => Sys2Proof.Machine.execTlbinvRange h d a s
  | .tlbinvDid h d a => Sys2Proof.Machine.execTlbinvDid h d a s
  | .tlbinvPart h d a => Sys2Proof.Machine.execTlbinvPart h d a s
  | .ctxsave h d a => Sys2Proof.Machine.execCtxsave h d a s
  | .ctxrst h d a => Sys2Proof.Machine.execCtxrst h d a s
  | .dpreempt h d a => Sys2Proof.Machine.execDpreempt h d a s
  | .eret h k next => Sys2Proof.Machine.execEret h k next s
  | .eretSpill h k next => Sys2Proof.Machine.execEretSpill h k next s
  | .eretFill h k next => Sys2Proof.Machine.execEretFill h k next s
  | .migrate h f => Sys2Proof.Machine.execMigrate h f s
  | .pairWord stall s0 s1 => Sys2Proof.Machine.execPairWord stall s0 s1 s
  | .fixedLatencyLand core slot id => Sys2Proof.Machine.execFixedLatencyLand core slot id s
  | .fragmentPromotion core slot frag => Sys2Proof.Machine.execFragmentPromotion core slot frag s
  | .splitFusion core slot split => Sys2Proof.Machine.execSplitFusion core slot split s
  | .space1LoadReturn id => Sys2Proof.Machine.execSpace1LoadReturn id s
  | .storeBufferDrain core quarter entry => Sys2Proof.Machine.execStoreBufferDrain core quarter entry s
  | .homeArrival id => Sys2Proof.Machine.execHomeArrival id s
  | .lineRequestAnswer id => Sys2Proof.Machine.execLineRequestAnswer id s
  | .barrierWordOperation id => Sys2Proof.Machine.execBarrierWordOperation id s
  | .sleepExpire core slot frag => Sys2Proof.Machine.execSleepExpire core slot frag s
  | .sleepuntilWake core slot frag => Sys2Proof.Machine.execSleepuntilWake core slot frag s
  | .wsyncRelease core slot pc => Sys2Proof.Machine.execWsyncRelease core slot pc s
  | .launchRecordRead id => Sys2Proof.Machine.execLaunchRecordRead id s
  | .nmRecordRead id => Sys2Proof.Machine.execNmRecordRead id s
  | .fetchwgMailboxWrite id => Sys2Proof.Machine.execFetchwgMailboxWrite id s
  | .cwaitWorkgroupPark core wg => Sys2Proof.Machine.execCwaitWorkgroupPark core wg s
  | .cwaitWorkgroupRestore id => Sys2Proof.Machine.execCwaitWorkgroupRestore id s
  | .copyStart core op => Sys2Proof.Machine.execCopyStart core op s
  | .copyComplete core op => Sys2Proof.Machine.execCopyComplete core op s
  | .xqntComplete core op => Sys2Proof.Machine.execXqntComplete core op s
  | .copyFault core op => Sys2Proof.Machine.execCopyFault core op s
  | .matrixOpRetire core op => Sys2Proof.Machine.execMatrixOpRetire core op s
  | .pageWalk id => Sys2Proof.Machine.execPageWalk id s
  | .l1AgeInvalidate core line => Sys2Proof.Machine.execL1AgeInvalidate core line s
  | .refreshStart stack chan => Sys2Proof.Machine.execRefreshStart stack chan s
  | .refreshEnd stack chan => Sys2Proof.Machine.execRefreshEnd stack chan s
  | .contextSave job => Sys2Proof.Machine.execContextSave job s
  | .stage2WriteComplete id => Sys2Proof.Machine.execStage2WriteComplete id s
  | .invalidationComplete id => Sys2Proof.Machine.execInvalidationComplete id s
  | .atsTranslationResponse id page rd wr => Sys2Proof.Machine.execAtsTranslationResponse id page rd wr s
  | .atsInvalidationRequest page count tag => Sys2Proof.Machine.execAtsInvalidationRequest page count tag s
  | .priResponse id page answer => Sys2Proof.Machine.execPriResponse id page answer s
  | .pageinCompletion id => Sys2Proof.Machine.execPageinCompletion id s
  | .migrationCopy id => Sys2Proof.Machine.execMigrationCopy id s
  | .migrationRecopyPass id => Sys2Proof.Machine.execMigrationRecopyPass id s
  | .migrationHold id => Sys2Proof.Machine.execMigrationHold id s
  | .migrationCommit id => Sys2Proof.Machine.execMigrationCommit id s
  | .migrationRelease id => Sys2Proof.Machine.execMigrationRelease id s
  | .trowelItem cmd item => Sys2Proof.Machine.execTrowelItem cmd item s
  | .trowelPartialArrival cmd part => Sys2Proof.Machine.execTrowelPartialArrival cmd part s
  | .trowelCompletionWrite cmd => Sys2Proof.Machine.execTrowelCompletionWrite cmd s
  | .kick fn off size value => Sys2Proof.Machine.execKick fn off size value s
  | .kickTaken fn slot => Sys2Proof.Machine.execKickTaken fn slot s
  | .dependenceRead grid => Sys2Proof.Machine.execDependenceRead grid s
  | .workgroupPlacement part => Sys2Proof.Machine.execWorkgroupPlacement part s
  | .gridRetire grid => Sys2Proof.Machine.execGridRetire grid s
  | .bucketAdmit slice => Sys2Proof.Machine.execBucketAdmit slice s
  | .linkFailure stack link => Sys2Proof.Machine.execLinkFailure stack link s
  | .rdreq port p => Sys2Proof.Machine.execRdreq port p s
  | .rdresp port p => Sys2Proof.Machine.execRdresp port p s
  | .write port p => Sys2Proof.Machine.execWrite port p s
  | .atomic port p => Sys2Proof.Machine.execAtomic port p s
  | .atomresp port p => Sys2Proof.Machine.execAtomresp port p s
  | .ack port p => Sys2Proof.Machine.execAck port p s
  | .nak port p => Sys2Proof.Machine.execNak port p s
  | .mrwrite port p => Sys2Proof.Machine.execMrwrite port p s
  | .transportPacketDiscard port p => Sys2Proof.Machine.execTransportPacketDiscard port p s
  | .peerRetransmit port peer seq => Sys2Proof.Machine.execPeerRetransmit port peer seq s
  | .bar2Access isWrite off size value => Sys2Proof.Machine.execBar2Access isWrite off size value s
  | .invcnt fn count => Sys2Proof.Machine.execInvcnt fn count s
  | .invstatLostClear fn => Sys2Proof.Machine.execInvstatLostClear fn s
  | .registerWrite reg value req => Sys2Proof.Machine.execRegisterWrite reg value req s
  | .functionLevelReset fn => Sys2Proof.Machine.execFunctionLevelReset fn s
  | .unitReady stack unit => Sys2Proof.Machine.execUnitReady stack unit s
  | .stkreset stack req => Sys2Proof.Machine.execStkreset stack req s
  | .sysfault stack value req => Sys2Proof.Machine.execSysfault stack value req s
  | .stage2EntryWrite part word value req => Sys2Proof.Machine.execStage2EntryWrite part word value req s
  | .gateEntryWrite gate word value req => Sys2Proof.Machine.execGateEntryWrite gate word value req s
  | .pquota part value req => Sys2Proof.Machine.execPquota part value req s
  | .dscfg no value req => Sys2Proof.Machine.execDscfg no value req s
  | .dslim no value req => Sys2Proof.Machine.execDslim no value req s
  | .dsroot no value req => Sys2Proof.Machine.execDsroot no value req s
  | .dshnd no value req => Sys2Proof.Machine.execDshnd no value req s
  | .dsctx no value req => Sys2Proof.Machine.execDsctx no value req s
  | .vfcfg fn value req => Sys2Proof.Machine.execVfcfg fn value req s
  | .l2cap no value req => Sys2Proof.Machine.execL2cap no value req s
  | .fctl stack value req => Sys2Proof.Machine.execFctl stack value req s
  | .ftrace stack n value req => Sys2Proof.Machine.execFtrace stack n value req s
  | .forcedown stack word value req => Sys2Proof.Machine.execForcedown stack word value req s
  | .uncorrectableError place => Sys2Proof.Machine.execUncorrectableError place s
  | .instructionFetch core slot frag => Sys2Proof.Machine.execInstructionFetch core slot frag s
  | .linkRetrain stack kind => Sys2Proof.Machine.execLinkRetrain stack kind s
  | .correctedError stack kind => Sys2Proof.Machine.execCorrectedError stack kind s
  | .gsyncRelease => Sys2Proof.Machine.execGsyncRelease s
  | .matrixOpStart => Sys2Proof.Machine.execMatrixOpStart s
  | .walkQueueAge => Sys2Proof.Machine.execWalkQueueAge s
  | .networkRequestAge => Sys2Proof.Machine.execNetworkRequestAge s
  | .clocheSample => Sys2Proof.Machine.execClocheSample s
  | .systemHandlerEntry => Sys2Proof.Machine.execSystemHandlerEntry s
  | .vfTurnEnd => Sys2Proof.Machine.execVfTurnEnd s
  | .patrolScrub => Sys2Proof.Machine.execPatrolScrub s
  | .load => Sys2Proof.Machine.execLoad s
  | .attest => Sys2Proof.Machine.execAttest s
  | .reset => Sys2Proof.Machine.execReset s
  | .packageReset => Sys2Proof.Machine.execPackageReset s
  | .readyTimeout => Sys2Proof.Machine.execReadyTimeout s
  | .counterWriteback => Sys2Proof.Machine.execCounterWriteback s

end Sys2Proof.Machine
end

