-- ==== Sys2Proof/Machine/Step.lean ====
section
/-! DEFINITION. One step of the machine: the next thing that happens in the present cycle, or the passing of the cycle
(DESIGN CHOICE, log 1). -/

namespace Sys2Proof.Machine

/-- What the outside world does next; a step of the device is no doing of its own. -/
def State.outside (s : State) (x : Input) : Host.Outcome State Fault Refusal :=
  match x with
  | .act i => if Instr.fromOutside i then exec i s else .next s
  | x => .next (s.takeInput x)

/-- A fragment issues its word: what it decodes to, or ILLOP. -/
def State.issueWord (s : State) (c w g : Nat) : Host.Outcome State Fault Refusal :=
  match s.fetched c w g with
  | some i => exec i s
  | none => .next (s.badWord c w g)

/-- The end of a cycle: what comes after its issue, then the next cycle. -/
def State.lateStep (s : State) : Host.Outcome State Fault Refusal :=
  match s.agendaDue (2 * s.clock + 1) with
  | some (i, s') => exec i s'.endIssue
  | none => .next s.tick

/-- One step. -/
def step (s : State) : Host.Outcome State Fault Refusal :=
  match s.inboxDue with
  | some (x, s') => s'.outside x
  | none =>
    match s.agendaDue (2 * s.clock) with
    | some (i, s') => exec i s'
    | none =>
      match s.nextIssue with
      | some (c, q, w, g) => (s.selectFrag c q w g).issueWord c w g
      | none => s.lateStep

/-- The state with an instruction where the next step issues it (DESIGN CHOICE, log 5). -/
def State.withFetchWord (s : State) (nbits w : Nat) : State := s.placeWord (BitVec.ofNat 64 (w % 2 ^ nbits))

end Sys2Proof.Machine
end

