-- ==== Sys2Proof/Safety.lean ====
section
/-! DEFINITION. What claims call a safe run, and the terms in which they speak of an issue, a result on its way and what
an instruction leaves alone. -/

namespace Sys2Proof

open Machine

/-- The step goes on. -/
def Machine.State.goesOn (s : State) : Prop := ∃ t, step s = .next t

/-- A run of n steps none of which stops. -/
def SafeRun : Nat → State → Prop
  | 0, _ => True
  | n + 1, s => ∃ t, step s = .next t ∧ SafeRun n t

/-- Memory, the host's memory and every scratchpad are in canonical form. -/
def Machine.State.memWf (s : State) : Bool :=
  s.mem.wf && s.hostMem.wf && s.cores.all fun c => c.2.scratch.wf

namespace Machine

/-! An issue to the instruction's own effect. -/

/-- The state in which a fragment's word takes effect: the issue has begun, and the allocation covers the word (R146, R187). -/
def State.opened (s : State) (i : Instr) (c w g : Nat) : State :=
  ((s.beginIssue i c w g).cover c w (Instr.vNames i)).getD (s.beginIssue i c w g)

/-- What the word reads there. -/
def State.seen (s : State) (i : Instr) (h : Head) (whole : Bool) (c w g : Nat) : Ctx := Ctx.of (s.opened i c w g) c w g h whole

/-- Fragment g of warp slot w of core c is selected, nothing of R41 and R97 holds its word, and none of the conditions
common to all words turns it away: an error a matrix operation left (R386), a guard that leaves no lane (R20, R21), a
source with an error (R386), CHKMODE (R42), the bars of a handler (R369) and of a gate (R325), a scale register in a
workgroup without scales (R307), an allocation that cannot grow (R146). -/
def State.issues (s : State) (i : Instr) (h : Head) (whole : Bool) (c w g : Nat) : Bool :=
  let s1 := s.beginIssue i c w g
  let x := Ctx.of s1 c w g h whole
  s.issuer == some (c, w, g) && !s.held i h c w g && x.k.pendingFail.isNone && x.actsFor i && !s1.badSource x i
    && !(x.k.chk && s1.tooEarly x i) && !(x.k.handler.isSome && Instr.barred i)
    && !(x.k.gates != 0 && (Instr.namesXTF i || Instr.engine i))
    && !(Instr.namesX i && !(s1.wg c x.k.wg).scales) && (s1.cover c w (Instr.vNames i)).isSome

/-- The fragment has gone on: it is at a PC, with the lanes it had, and asks for the word there. -/
def GoesOn (t : State) (x : Ctx) (pc : U64) : Prop :=
  (t.frag x.c x.w x.g).pc = pc ∧ (t.frag x.c x.w x.g).exec = x.fr.exec ∧ (t.frag x.c x.w x.g).word = none
    ∧ (2 * t.clock, Instr.instructionFetch x.c x.w x.g) ∈ t.agenda

/-! Results on their way (R40 to R43). -/

/-- A result is on its way to a register of the issuing warp: its lanes, its latency, its landing, what it holds. -/
def Flies (t : State) (x : Ctx) (r : Reg) (mask : U32) (lat : Nat) (good : Pend → Prop) : Prop :=
  ∃ p ∈ (t.warp x.c x.w).pend, p.reg = r ∧ p.mask = mask ∧ p.lands = x.clock + lat
    ∧ (2 * (x.clock + lat), Instr.fixedLatencyLand x.c x.w p.id) ∈ t.agenda ∧ good p

/-- A destination's result is on its way: v in each lane of a V register (64 bits in a register pair when wide), u in a
uniform one, the lanes' bits of u in a P register; nothing for ZERO and P0 (R31, R59, R94). -/
def Writes (t : State) (x : Ctx) (d : Opd) (wide : Bool) (lat : Nat) (v : Nat → Nat) (u : Nat) : Prop :=
  match d with
  | .v n =>
    Flies t x (x.k.physV n.toNat) x.act lat (fun p => ∀ l < 32, p.lanes.get l = BitVec.ofNat 32 (v l))
      ∧ (wide = true → Flies t x (x.k.physV (n.toNat + 1)) x.act lat
          (fun p => ∀ l < 32, p.lanes.get l = BitVec.ofNat 32 (v l / 2 ^ 32)))
  | .s n => Flies t x (.s n.toNat) (BitVec.allOnes 32) lat (fun p => p.uni = BitVec.ofNat 64 u)
  | .exec => Flies t x (.exec x.g) (BitVec.allOnes 32) lat (fun p => p.uni = BitVec.ofNat 64 u)
  | .nrm => Flies t x .nrm (BitVec.allOnes 32) lat (fun p => p.uni = BitVec.ofNat 64 u)
  | .p n => n ≠ 0 → Flies t x (.p n.toNat) x.act lat (fun p => p.uni = BitVec.ofNat 64 u)
  | _ => True

/-- A result of a type: the w-bit pattern of each lane, or of the lowest acting lane in a uniform register (R59, R62, R92). -/
def WritesTy (t : State) (x : Ctx) (d : Opd) (ty : Ty) (lat : Nat) (f : Nat → Nat) : Prop :=
  Writes t x d ty.is64 lat (fun l => extTo (if ty.is64 then 64 else 32) ty (f l)) (extTo 64 ty (f x.low))

/-- A test's result: a mask in a P register, 1 or 0 elsewhere (R94). -/
def WritesTest (t : State) (x : Ctx) (d : Opd) (lat : Nat) (p : Nat → Bool) : Prop :=
  Writes t x d false lat (fun l => b2n (p l)) (if d.isP then (maskOf p).toNat else b2n (p x.low))

/-! What stays. -/

/-- The registers of two warps are the same: V with the trap reserve, S, P, NRM, X, T, F, the window and the trap record. -/
def SameRegs (a b : Warp) : Prop :=
  a.v = b.v ∧ a.reserve = b.reserve ∧ a.s = b.s ∧ a.p = b.p ∧ a.nrm = b.nrm ∧ a.x = b.x ∧ a.t = b.t ∧ a.f = b.f
    ∧ a.b = b.b ∧ a.spilled = b.spilled ∧ a.frames = b.frames ∧ a.chk = b.chk ∧ a.handler = b.handler ∧ a.gates = b.gates

/-- Memory and everything outside the issuing core is the same, and in the core its scratchpad and its other warps. -/
def SameAround (s t : State) (c w : Nat) : Prop :=
  t.mem = s.mem ∧ t.hostMem = s.hostMem ∧ t.sys = s.sys ∧ t.stackMap = s.stackMap ∧ t.grids = s.grids ∧ t.clock = s.clock
    ∧ (t.core c).scratch = (s.core c).scratch ∧ (t.core c).wgs = (s.core c).wgs ∧ (∀ d, d ≠ c → t.core d = s.core d)
    ∧ ∀ w', w' ≠ w → t.warp c w' = s.warp c w'

end Machine

end Sys2Proof
end

