-- ==== Sys2Proof/Certificates/Slice0/Obligations.lean ====
section
/-! DEFINITION. The statements for the provers: what the spec's rules say of the machine. A rule table gives, for each
instruction it speaks of, what the state after the issue holds; the obligation under it says that the instruction issues
and that this is so. -/

namespace Sys2Proof.Machine

/-! How a statement speaks of an instruction. -/

/-- What the state after an instruction holds, in the terms of what the instruction saw, the state in which it took effect
(the issue begun, the allocation covering the registers it names) and the state after. -/
abbrev Rule := Ctx → State → State → Prop

/-- An instruction of a rule table that issues to its own effect answers a next state, and that state is as the table says. -/
def Follows (table : Instr → Option Rule) (whole : Bool) : Prop :=
  ∀ (i : Instr) (r : Rule) (s : State) (c w g : Nat), table i = some r → Instr.wf i = true →
    s.issues i (Instr.head i) whole c w g = true →
    ∃ t, exec i s = .next t ∧ r (s.seen i (Instr.head i) whole c w g) (s.opened i c w g) t

/-- The fragment goes on at the next word, and in the state after there is what a proposition says. -/
def Then (good : Ctx → State → Prop) : Rule := fun x _ t => GoesOn t x (x.pc + 8) ∧ good x t

/-- Each lane's w-bit result of a type is as a relation says, and is on its way to d. -/
def Gives (x : Ctx) (t : State) (d : Opd) (ty : Ty) (lat : Nat) (rel : Nat → Nat → Prop) : Prop :=
  ∃ f, (∀ l, rel l (f l)) ∧ WritesTy t x d ty lat f

/-- Each lane's truth value is as a proposition says, and the test's result is on its way to d. -/
def Tests (x : Ctx) (t : State) (d : Opd) (lat : Nat) (prop : Nat → Prop) : Prop :=
  ∃ p : Nat → Bool, (∀ l, p l = true ↔ prop l) ∧ WritesTest t x d lat p

/-! Integers (R60, R98). -/

/-- r is z modulo 2^w. -/
def Wraps (w : Nat) (z : Int) (r : Nat) : Prop := r < 2 ^ w ∧ ∃ k : Int, (r : Int) = z + k * ((2 ^ w : Nat) : Int)

/-- The range of an integer type. -/
def tyMin (t : Ty) : Int := if tySigned t then -((2 ^ (tyWidth t - 1) : Nat) : Int) else 0
def tyMax (t : Ty) : Int := if tySigned t then ((2 ^ (tyWidth t - 1) : Nat) : Int) - 1 else ((2 ^ tyWidth t : Nat) : Int) - 1

/-- r is the pattern of z, or of the end of the range that z is beyond. -/
def Clamps (t : Ty) (z : Int) (r : Nat) : Prop :=
  r < 2 ^ tyWidth t ∧ intOf t r = if z < tyMin t then tyMin t else if tyMax t < z then tyMax t else z

/-- An exact integer brought into a type, saturated or wrapped. -/
def Narrows (t : Ty) (sat : Bool) (z : Int) (r : Nat) : Prop := if sat then Clamps t z r else Wraps (tyWidth t) z r

/-- r is the w-bit pattern with the bits that a test gives. -/
def BitsAre (w : Nat) (bit : Nat → Bool) (r : Nat) : Prop := r < 2 ^ w ∧ ∀ k < w, r.testBit k = bit k

/-- The values of the sources of a format-A word of a type in a lane. -/
def Ctx.ia (x : Ctx) (t : Ty) (f : FmtA) (l : Nat) : Int := intOf t (x.pat t f.a l)
def Ctx.ib (x : Ctx) (t : Ty) (f : FmtA) (l : Nat) : Int := intOf t (x.patB t f l)
def Ctx.ic (x : Ctx) (t : Ty) (f : FmtA) (l : Nat) : Int := intOf t (x.pat t f.c l)

/-- A lane pattern other than IDENT takes a cycle more (R40). -/
def withBp (f : FmtA) (n : Nat) : Nat := if f.bp = 0 then n else n + 1

/-- Sums, differences, products (R98, R102, R103, R107). -/
def arithRule : Instr → Option Rule
  | .iadd _ f =>
    let ty := tyOr f.ty .s32
    some (Then fun x t => Gives x t f.d ty (withBp f 2) fun l r =>
      Narrows ty (f.flags.getLsbD 0) (x.ia ty f l + x.ib ty f l) r)
  | .isub _ f =>
    let ty := tyOr f.ty .s32
    some (Then fun x t => Gives x t f.d ty (withBp f 2) fun l r =>
      Narrows ty (f.flags.getLsbD 0) (x.ia ty f l - x.ib ty f l) r)
  | .imul _ f =>
    let ty := tyOr f.ty .s32
    some (Then fun x t => Gives x t f.d ty (withBp f 4) fun l r => Wraps (tyWidth ty) (x.ia ty f l * x.ib ty f l) r)
  | .imulh _ f =>
    let ty := tyOr f.ty .s32
    some (Then fun x t => Gives x t f.d ty (withBp f 4) fun l r =>
      ∃ (hi lo : Int), x.ia ty f l * x.ib ty f l = hi * ((2 ^ tyWidth ty : Nat) : Int) + lo ∧ 0 ≤ lo
        ∧ lo < ((2 ^ tyWidth ty : Nat) : Int) ∧ Wraps (tyWidth ty) hi r)
  | .imad _ f =>
    let ty := tyOr f.ty .s32
    some (Then fun x t => Gives x t f.d ty (withBp f 4) fun l r =>
      Narrows ty (f.flags.getLsbD 0) (x.ia ty f l * x.ib ty f l + x.ic ty f l) r)
  | .iabs _ f =>
    let ty := tyOr f.ty .s32
    some (Then fun x t => Gives x t f.d ty (withBp f 2) fun l r =>
      Narrows ty (f.flags.getLsbD 0) (if x.ia ty f l < 0 then -(x.ia ty f l) else x.ia ty f l) r)
  | .ineg _ f =>
    let ty := tyOr f.ty .s32
    some (Then fun x t => Gives x t f.d ty (withBp f 2) fun l r => Narrows ty (f.flags.getLsbD 0) (-(x.ia ty f l)) r)
  | .ilea _ f =>
    some (Then fun x t => Gives x t f.d .z64 (withBp f 2) fun l r =>
      Wraps 64 ((x.wide f.a l : Int)
        + intOf (if f.ty = .z32 then .z32 else .s32) (x.cntB f l) * ((2 ^ f.flags.toNat : Nat) : Int)) r)
  | .idot4 _ f =>
    let e : Ty := if f.ty = .z8 then .z8 else .s8
    let ty : Ty := if f.ty = .z8 then .z32 else .s32
    some (Then fun x t => Gives x t f.d ty (withBp f 4) fun l r =>
      let a (i : Nat) : Int := intOf e (fld (x.cnt f.a l) (8 * i) 8)
      let b (i : Nat) : Int := intOf e (fld (x.cntB f l) (8 * i) 8)
      Narrows ty (f.flags.getLsbD 0) (intOf ty (x.cnt f.c l) + a 0 * b 0 + a 1 * b 1 + a 2 * b 2 + a 3 * b 3) r)
  | .iaddi _ f =>
    some (Then fun x t => ∃ (v : Nat → Nat) (u : Nat), Writes t x f.d false 2 v u
      ∧ (∀ l, Wraps 32 ((x.cnt f.a l : Int) + f.imm.toInt) (v l)) ∧ Wraps 64 ((x.wide f.a x.low : Int) + f.imm.toInt) u)
  | _ => none

/-- The quotient and the remainder of R60, as integers: truncated toward zero; the remainder takes the dividend's sign. -/
def QuotRem (a b q r : Int) : Prop := a = q * b + r ∧ r.natAbs < b.natAbs ∧ (r = 0 ∨ (r < 0 ↔ a < 0))

/-- IDIV and IREM (R60, R99). -/
def divideRule : Instr → Option Rule
  | .idiv _ f =>
    let ty := tyOr f.ty .s32
    some (Then fun x t => Gives x t f.d ty (withBp f 12) fun l r =>
      if x.ib ty f l = 0 then BitsAre (tyWidth ty) (fun _ => true) r
      else ∃ q m, QuotRem (x.ia ty f l) (x.ib ty f l) q m ∧ Wraps (tyWidth ty) q r)
  | .irem _ f =>
    let ty := tyOr f.ty .s32
    some (Then fun x t => Gives x t f.d ty (withBp f 12) fun l r =>
      if x.ib ty f l = 0 then BitsAre (tyWidth ty) (fun _ => true) r
      else ∃ q m, QuotRem (x.ia ty f l) (x.ib ty f l) q m ∧ Wraps (tyWidth ty) m r)
  | _ => none

/-- Bitwise operations, shifts and fields, counts (R104 to R107). -/
def bitsRule : Instr → Option Rule
  | .iand _ f =>
    let ty := tyOr f.ty .s32
    some (Then fun x t => Gives x t f.d ty (withBp f 2) fun l =>
      BitsAre (tyWidth ty) fun k => (x.pat ty f.a l).testBit k && (x.patB ty f l).testBit k)
  | .ior _ f =>
    let ty := tyOr f.ty .s32
    some (Then fun x t => Gives x t f.d ty (withBp f 2) fun l =>
      BitsAre (tyWidth ty) fun k => (x.pat ty f.a l).testBit k || (x.patB ty f l).testBit k)
  | .ixor _ f =>
    let ty := tyOr f.ty .s32
    some (Then fun x t => Gives x t f.d ty (withBp f 2) fun l =>
      BitsAre (tyWidth ty) fun k => (x.pat ty f.a l).testBit k != (x.patB ty f l).testBit k)
  | .inot _ f =>
    let ty := tyOr f.ty .s32
    some (Then fun x t => Gives x t f.d ty (withBp f 2) fun l => BitsAre (tyWidth ty) fun k => !(x.pat ty f.a l).testBit k)
  | .ishl _ f =>
    let ty := tyOr f.ty .s32
    some (Then fun x t => Gives x t f.d ty (withBp f 2) fun l =>
      BitsAre (tyWidth ty) fun k => decide (x.cntB f l ≤ k) && (x.pat ty f.a l).testBit (k - x.cntB f l))
  | .ishr _ f =>
    let ty := tyOr f.ty .s32
    some (Then fun x t => Gives x t f.d ty (withBp f 2) fun l =>
      BitsAre (tyWidth ty) fun k => decide (k + x.cntB f l < tyWidth ty) && (x.pat ty f.a l).testBit (k + x.cntB f l))
  | .isra _ f =>
    let ty := tyOr f.ty .s32
    some (Then fun x t => Gives x t f.d ty (withBp f 2) fun l =>
      BitsAre (tyWidth ty) fun k => (x.pat ty f.a l).testBit (min (k + x.cntB f l) (tyWidth ty - 1)))
  | .irot _ f =>
    let ty := tyOr f.ty .s32
    some (Then fun x t => Gives x t f.d ty (withBp f 2) fun l =>
      let n := x.cntB f l % tyWidth ty
      BitsAre (tyWidth ty) fun k =>
        (x.pat ty f.a l).testBit ((if f.flags.getLsbD 0 then k + n else k + tyWidth ty - n) % tyWidth ty))
  | .ibfx _ f =>
    let ty := tyOr f.ty .s32
    some (Then fun x t => Gives x t f.d ty (withBp f 2) fun l =>
      let pos := x.cntB f l
      let n := min (x.cnt f.c l) (tyWidth ty - pos)
      BitsAre (tyWidth ty) fun k =>
        n != 0 && (if k < n then (x.pat ty f.a l).testBit (pos + k) else tySigned ty && (x.pat ty f.a l).testBit (pos + n - 1)))
  | .ibfi _ f =>
    let ty := tyOr f.ty .s32
    some (Then fun x t => Gives x t f.d ty (withBp f 2) fun l =>
      let pos := x.cnt f.c l % 256
      let n := x.cnt f.c l / 256 % 256
      BitsAre (tyWidth ty) fun k =>
        if pos ≤ k ∧ k < pos + n then (x.patB ty f l).testBit (k - pos) else (x.pat ty f.a l).testBit k)
  | .ipopc _ f =>
    let ty := tyOr f.ty .s32
    some (Then fun x t => Gives x t f.d ty (withBp f 2) fun l r =>
      r = ((List.range (tyWidth ty)).filter fun k => (x.pat ty f.a l).testBit k).length)
  | .iclz _ f =>
    let ty := tyOr f.ty .s32
    some (Then fun x t => Gives x t f.d ty (withBp f 2) fun l r =>
      r ≤ tyWidth ty ∧ (∀ k < r, (x.pat ty f.a l).testBit (tyWidth ty - 1 - k) = false)
        ∧ (r < tyWidth ty → (x.pat ty f.a l).testBit (tyWidth ty - 1 - r) = true))
  | .ibrev _ f =>
    let ty := tyOr f.ty .s32
    some (Then fun x t => Gives x t f.d ty (withBp f 2) fun l =>
      BitsAre (tyWidth ty) fun k => (x.pat ty f.a l).testBit (tyWidth ty - 1 - k))
  | _ => none

/-- The integer conditions (R95): the values compare in their type, codes 6 to 9 the patterns. -/
def CondHolds (ty : Ty) (code : Nat) (a b : Nat) : Prop :=
  (code = 0 → a = b) ∧ (code = 1 → a ≠ b) ∧ (code = 2 → intOf ty a < intOf ty b) ∧ (code = 3 → intOf ty a ≤ intOf ty b)
    ∧ (code = 4 → intOf ty b < intOf ty a) ∧ (code = 5 → intOf ty b ≤ intOf ty a) ∧ (code = 6 → a < b) ∧ (code = 7 → a ≤ b)
    ∧ (code = 8 → b < a) ∧ (code = 9 → b ≤ a)

/-- The lane's bit of a P operand; on the uniform path the lowest acting lane's (R92). -/
def Ctx.pbit (x : Ctx) (o : Opd) (l : Nat) : Bool := (x.mask o).getLsbD l

/-- Comparing and choosing (R95, R100, R101, R108, R109). -/
def compareRule : Instr → Option Rule
  | .icmp _ f =>
    let ty := tyOr f.ty .s32
    some (Then fun x t => Tests x t f.d (withBp f 2) fun l =>
      CondHolds ty f.flags.toNat (x.pat ty f.a l) (x.patB ty f l))
  | .icmpi _ f =>
    some (Then fun x t => ∃ y, Wraps 32 (f.imm.extractLsb' 4 27).toInt y
      ∧ Tests x t f.d 2 fun l => CondHolds .s32 (f.imm.extractLsb' 0 4).toNat (x.cnt f.a l) y)
  | .imin _ f =>
    let ty := tyOr f.ty .s32
    some (Then fun x t => Gives x t f.d ty (withBp f 2) fun l r =>
      r < 2 ^ tyWidth ty ∧ intOf ty r = min (x.ia ty f l) (x.ib ty f l))
  | .imax _ f =>
    let ty := tyOr f.ty .s32
    some (Then fun x t => Gives x t f.d ty (withBp f 2) fun l r =>
      r < 2 ^ tyWidth ty ∧ intOf ty r = max (x.ia ty f l) (x.ib ty f l))
  | .isel _ f =>
    let ty := tyOr f.ty .z32
    some (Then fun x t => Gives x t f.d ty (withBp f 2) fun l r =>
      r = if x.pbit f.c l then x.pat ty f.a l else x.patB ty f l)
  | .iaddc _ f =>
    let ty := tyOr f.ty .z32
    some (Then fun x t =>
      ∃ (v cy : Nat → Nat), WritesTy t x f.d ty (withBp f 2) v
        ∧ (∀ l, v l < 2 ^ tyWidth ty ∧ cy l < 2
            ∧ x.pat ty f.a l + x.patB ty f l + (if x.pbit f.c l then 1 else 0) = v l + cy l * 2 ^ tyWidth ty)
        ∧ (∀ n, f.c = .p n → n ≠ 0 →
            Flies t x (.p n.toNat) (if f.d.isS then maskOf (fun l => l == x.low) else x.act) (withBp f 2)
              (fun p => ∀ l < 32, p.uni.getLsbD l = decide (cy l = 1))))
  | _ => none

/-- Constants and moves (R31, R33, R111, R112). -/
def moveRule : Instr → Option Rule
  | .movi _ f =>
    some (Then fun x t => ∃ v u, Wraps 32 f.imm.toInt v ∧ Wraps 64 f.imm.toInt u
      ∧ Writes t x f.d false 2 (fun _ => v) u)
  | .movhi _ f =>
    some (Then fun x t => Writes t x f.d false 2 (fun l => (f.imm.extractLsb' 0 16).toNat * 2 ^ 16 + x.cnt f.a l % 2 ^ 16)
      (f.imm.toNat * 2 ^ 32 + x.cnt f.a x.low))
  | .mov _ f =>
    some (Then fun x t =>
      if f.d.isP then Tests x t f.d 2 fun l => x.cnt f.a l ≠ 0
      else Writes t x f.d (f.ty == .z64) 2 (fun l => if f.ty = .z64 then x.wide f.a l else x.cnt f.a l)
        (if f.d.isS then (match f.a with
          | .s _ | .clock => x.wide f.a x.low
          | _ => x.cnt f.a x.low) else x.wide f.a x.low))
  | _ => none

/-! Floating point (R61 to R70, R113 to R122). -/

/-- A rounded result is on its way, made with each lane's generator as it stood; under SR the generators of the lanes that
round have stepped once an element, else none has (R66, R70). -/
def Rounds (x : Ctx) (t : State) (d : Opd) (ty : Ty) (lat : Nat) (r : Rnd) (n : Nat) (f : Nat → U32 → Nat) : Prop :=
  WritesTy t x d ty lat (fun l => f l (x.k.gen.get l))
    ∧ ∀ l < 32, (t.warp x.c x.w).gen.get l
        = if r = .sr ∧ (if d.isS then l = x.low else x.act.getLsbD l = true) then Nat.repeat genStep n (x.k.gen.get l)
          else x.k.gen.get l

/-- What an element operation says: the generator after its step, the patterns of the sources, and the result. -/
abbrev Element := IFmt → Rnd → U32 → Nat → Nat → Nat → Nat

/-- An exact operation rounded once. -/
def once (e : Rnd → Exact → Exact → Exact → Exact) : Element := fun fm r g a b c =>
  fm.round r g (e r (fm.decode a) (fm.decode b) (fm.decode c))

/-- A float word over its elements: one a lane, or two of 16 bits under .DUAL, the low one first (R62, R113, R114). -/
def elements (lat : Nat) (op : Element) (f : FmtA) : Rule :=
  let ty := tyOr f.ty .f32
  let fm := tyFmt ty
  let lat := withBp f (if ty = .f64 then 16 else lat)
  Then fun x t =>
    if f.flags.getLsbD 0 ∧ ty.half then
      Rounds x t f.d .z32 lat f.rnd 2 fun l g =>
        op fm f.rnd (genStep g) (x.cnt f.a l % 2 ^ 16) (x.cntB f l % 2 ^ 16) (x.cnt f.c l % 2 ^ 16)
          + 2 ^ 16 * op fm f.rnd (genStep (genStep g)) (x.cnt f.a l / 2 ^ 16) (x.cntB f l / 2 ^ 16) (x.cnt f.c l / 2 ^ 16)
    else
      Rounds x t f.d ty lat f.rnd 1 fun l g => op fm f.rnd (genStep g) (x.pat ty f.a l) (x.patB ty f l) (x.pat ty f.c l)

/-- Exact operations rounded once (R113, R119 to R122). A sum that is exactly zero takes RD's sign. -/
def floatRule : Instr → Option Rule
  | .fadd _ f => some (elements 4 (once fun r a b _ => Exact.add (r == .rd) a b) f)
  | .fsub _ f => some (elements 4 (once fun r a b _ => Exact.add (r == .rd) a b.neg) f)
  | .fmul _ f => some (elements 4 (once fun _ a b _ => Exact.mul a b) f)
  | .ffma _ f => some (elements 4 (once fun r a b c => Exact.add (r == .rd) (Exact.mul a b) c) f)
  | .frcp _ f => some (elements 12 (once fun _ a _ _ => Exact.div (.fin false 1 0 false) a) f)
  | .fdiv _ f => some (elements 12 (once fun _ a b _ => Exact.div a b) f)
  | .fsqrt _ f => some (elements 12 (once fun _ a _ _ => a.sqrt) f)
  | .frsq _ f => some (elements 12 (once fun _ a _ _ => a.rsqrt) f)
  | .fexp2 _ f => some (elements 12 (once fun _ a _ _ => exp2Exact a) f)
  | .flog2 _ f => some (elements 12 (once fun _ a _ _ => log2Exact a) f)
  | .fsin _ f => some (elements 12 (once fun _ a _ _ => sinExact a) f)
  | .fcos _ f => some (elements 12 (once fun _ a _ _ => cosExact a) f)
  | .ftanh _ f => some (elements 12 (once fun _ a _ _ => tanhExact a) f)
  | .ffrac _ f => some (elements 4 (once fun _ a _ _ => fracX a) f)
  | .frnd _ f => some (elements 4 rndOp f)
  | .fscale _ f =>
    let ty := tyOr f.ty .f32
    some (Then fun x t => Rounds x t f.d ty (withBp f (if ty = .f64 then 16 else 4)) f.rnd 1 fun l g =>
      (tyFmt ty).round f.rnd (genStep g) (((tyFmt ty).decode (x.pat ty f.a l)).scale (BitVec.ofNat 32 (x.cntB f l)).toInt))
  | .fdot2 _ f =>
    let fm := if f.ty = .f16 then f16 else bf16
    some (Then fun x t => Rounds x t f.d .f32 (withBp f 4) f.rnd 1 fun l g =>
      let a := x.cnt f.a l
      let b := x.cntB f l
      let sum := Exact.add (f.rnd == .rd)
      f32.round f.rnd (genStep g)
        (sum (sum (f32.decode (x.cnt f.c l)) (Exact.mul (fm.decode (a % 2 ^ 16)) (fm.decode (b % 2 ^ 16))))
          (Exact.mul (fm.decode (a / 2 ^ 16)) (fm.decode (b / 2 ^ 16)))))
  | _ => none

/-- The value of a pattern is less: -0 is below +0 (R115). -/
def PatLess (fm : IFmt) (a b : Nat) : Prop :=
  Exact.cmp (fm.decode a) (fm.decode b) = .lt
    ∨ (Exact.cmp (fm.decode a) (fm.decode b) = .eq ∧ (fm.decode a).isNeg = true ∧ (fm.decode b).isNeg = false)

/-- FMIN or FMAX of two patterns (R115). -/
def MinMax (fm : IFmt) (isMax nanp : Bool) (a b r : Nat) : Prop :=
  let nan (p : Nat) : Prop := (fm.decode p).isNan = true
  (nan a ∧ nan b → r = fm.nanBits) ∧ (nan a ∧ ¬nan b → r = if nanp then fm.nanBits else b)
    ∧ (¬nan a ∧ nan b → r = if nanp then fm.nanBits else a)
    ∧ (¬nan a ∧ ¬nan b → (r = a ∨ r = b)
        ∧ (PatLess fm a b → r = if isMax then b else a) ∧ (PatLess fm b a → r = if isMax then a else b))

/-- A word whose elements each stand in a relation to their sources; no rounding, so no generator steps (R62, R114). -/
def relates (rel : IFmt → Nat → Nat → Nat → Prop) (f : FmtA) : Rule :=
  let ty := tyOr f.ty .f32
  let fm := tyFmt ty
  let lat := withBp f (if ty = .f64 then 16 else 4)
  Then fun x t =>
    (t.warp x.c x.w).gen = x.k.gen
      ∧ if f.flags.getLsbD 0 ∧ ty.half then
          Gives x t f.d .z32 lat fun l r =>
            rel fm (x.cnt f.a l % 2 ^ 16) (x.cntB f l % 2 ^ 16) (r % 2 ^ 16)
              ∧ rel fm (x.cnt f.a l / 2 ^ 16) (x.cntB f l / 2 ^ 16) (r / 2 ^ 16)
        else Gives x t f.d ty lat fun l r => rel fm (x.pat ty f.a l) (x.patB ty f l) r

/-- The class of a pattern, a bit number (R118). -/
def ClassIs (fm : IFmt) (p k : Nat) : Prop :=
  let neg : Bool := p.testBit (fm.eb + fm.mb)
  let ex := fld p fm.mb fm.eb
  let fr := fld p 0 fm.mb
  let top := 2 ^ fm.eb - 1
  (ex = top ∧ fr = 0 → k = if neg then 0 else 7) ∧ (ex = top ∧ fr ≠ 0 → k = if fr.testBit (fm.mb - 1) then 9 else 8)
    ∧ (ex = 0 ∧ fr = 0 → k = if neg then 3 else 4) ∧ (ex = 0 ∧ fr ≠ 0 → k = if neg then 2 else 5)
    ∧ (ex ≠ 0 ∧ ex ≠ top → k = if neg then 1 else 6)

/-- The float conditions (R95). -/
def FltCond (code : Nat) (a b : Exact) : Prop :=
  let nan := a.isNan = true ∨ b.isNan = true
  (code = 0 → ¬nan ∧ Exact.cmp a b = .eq) ∧ (code = 1 → nan ∨ Exact.cmp a b ≠ .eq) ∧ (code = 2 → ¬nan ∧ Exact.cmp a b = .lt)
    ∧ (code = 3 → ¬nan ∧ Exact.cmp a b ≠ .gt) ∧ (code = 4 → ¬nan ∧ Exact.cmp a b = .gt)
    ∧ (code = 5 → ¬nan ∧ Exact.cmp a b ≠ .lt) ∧ (code = 6 → nan) ∧ (code = 7 → ¬nan)

/-- Operations on patterns, comparison and classes (R115 to R118). -/
def patternRule : Instr → Option Rule
  | .fmin _ f => some (relates (fun fm a b r => MinMax fm false (f.flags.getLsbD 1) a b r) f)
  | .fmax _ f => some (relates (fun fm a b r => MinMax fm true (f.flags.getLsbD 1) a b r) f)
  | .fabs _ f => some (relates (fun fm a _ r => BitsAre fm.width (fun k => k != fm.width - 1 && a.testBit k) r) f)
  | .fneg _ f => some (relates (fun fm a _ r => BitsAre fm.width (fun k => (k == fm.width - 1) != a.testBit k) r) f)
  | .fcmp _ f =>
    let ty := tyOr f.ty .f32
    some (Then fun x t => Tests x t f.d (withBp f (if ty = .f64 then 16 else 4)) fun l =>
      FltCond f.flags.toNat ((tyFmt ty).decode (x.pat ty f.a l)) ((tyFmt ty).decode (x.patB ty f l)))
  | .fclass _ f =>
    let ty := tyOr f.ty .f32
    some (Then fun x t => Gives x t f.d .z32 (if ty = .f64 then 16 else 4) fun l r =>
      ∃ k, r = 2 ^ k ∧ ClassIs (tyFmt ty) (x.pat ty f.a l) k)
  | _ => none

/-! Conversion, quantisation, packing (R71 to R73, R78, R83, R123 to R127). -/

/-- A float or narrow value brought to an integer type (R71). -/
def ToInteger (ty : Ty) (r : Rnd) (g : U32) (v : Exact) (p : Nat) : Prop :=
  match v with
  | .nan => p = 0
  | .inf neg => p < 2 ^ tyWidth ty ∧ intOf ty p = if neg then tyMin ty else tyMax ty
  | .fin neg m e st => Clamps ty (if neg then -(roundToInt r g neg m e st : Int) else (roundToInt r g neg m e st : Int)) p

/-- One element converted (R123). -/
def Converts (k : Warp) (src dst : Ty) (sat : Bool) (r : Rnd) (g : U32) (p q : Nat) : Prop :=
  if src.isInt ∧ dst.isInt then Narrows dst sat (intOf src p) q
  else if dst.isInt then ToInteger dst r g (exactOf k src p) q
  else if dst.isNarrow then q = (k.nfmt dst).encode r g (exactOf k src p)
  else q = (tyFmt dst).round r g (exactOf k src p)

/-- The elements that the acting lanes of QNT's block b supply. -/
def qntBlock (x : Ctx) (nf : NFmt) (q : Ty) (f : FmtA) (b : Nat) : List Exact :=
  ((List.range 32).filter fun l => x.act.getLsbD l && l / nf.blk == b).map fun l => (tyFmt q).decode (x.pat q f.a l)

/-- CVT, QNT, DQNT, PACK, UNPK. -/
def convertRule : Instr → Option Rule
  | .cvt _ f src =>
    some (Then fun x t => ∃ v : Nat → Nat, Rounds x t f.d f.ty (if f.ty = .f64 ∨ src = .f64 then 16 else 4) f.rnd 1 (fun l _ => v l)
      ∧ ∀ l, Converts x.k src f.ty (f.flags.getLsbD 0) f.rnd (genStep (x.k.gen.get l)) (x.pat src f.a l) (v l))
  | .qnt _ f =>
    let q : Ty := if f.flags = 0 then .f32 else if f.flags = 1 then .f16 else .bf16
    some (Then fun x t =>
      let nf := x.k.nfmt f.ty
      let blk := qntBlock x nf q f
      WritesTy t x f.d .z32 6
          (fun l => blockCode nf (if l / nf.blk = 0 then blockExp nf (blk 0) else blockExp nf (blk 1)) f.rnd
            (genStep (x.k.gen.get l)) ((tyFmt q).decode (x.pat q f.a l)))
        ∧ Writes t x f.c false 6 (fun _ => 0)
            (blockScale nf (blk 0) + 2 ^ 8 * (if nf.blk32 then 0 else blockScale nf (blk 1)))
        ∧ ∀ l < 32,
            (t.warp x.c x.w).gen.get l = if f.rnd = .sr ∧ x.act.getLsbD l then genStep (x.k.gen.get l) else x.k.gen.get l)
  | .dqnt _ f =>
    let q : Ty := if f.flags = 0 then .f32 else if f.flags = 1 then .f16 else .bf16
    some (Then fun x t =>
      let nf := x.k.nfmt f.ty
      Rounds x t f.d q 4 f.rnd 1 fun l g => (tyFmt q).round f.rnd (genStep g)
        (Exact.mul (nf.decode (x.cnt f.a l))
          (scaleVal nf.e4m3 (x.wide f.c x.low / 2 ^ (8 * (l / nf.blk)) % 2 ^ 8))))
  | .pack _ f =>
    some (Then fun x t => Gives x t f.d .z32 (withBp f 4) fun l =>
      let a := x.cnt f.a l
      let b := x.cntB f l
      let s := packW x.k f.ty
      BitsAre 32 fun k =>
        if s = 16 then (if k < 16 then a.testBit k else b.testBit (k - 16))
        else if s = 8 then (if k < 16 then a.testBit (k / 8 * 16 + k % 8) else b.testBit ((k - 16) / 8 * 16 + k % 8))
        else if s = 6 then
          (if k < 12 then a.testBit (k / 6 * 16 + k % 6)
           else decide (k < 24) && b.testBit ((k - 12) / 6 * 16 + k % 6))
        else (if k < 16 then a.testBit (k / 4 * 8 + k % 4) else b.testBit ((k - 16) / 4 * 8 + k % 4)))
  | .unpk _ f =>
    some (Then fun x t => Gives x t f.d .z32 4 fun l =>
      let a := x.cnt f.a l
      let s := packW x.k f.ty
      let hi := if f.flags.getLsbD 0 then 1 else 0
      let signed := tySigned f.ty
      BitsAre 32 fun k =>
        if s = 16 then (if k < 16 then a.testBit (16 * hi + k) else signed && a.testBit (16 * hi + 15))
        else if s = 8 then
          (if k % 16 < 8 then a.testBit (16 * hi + k / 16 * 8 + k % 16) else signed && a.testBit (16 * hi + k / 16 * 8 + 7))
        else if s = 6 then decide (k % 16 < 6) && a.testBit (12 * hi + k / 16 * 6 + k % 16)
        else decide (k % 8 < 4) && a.testBit (16 * hi + k / 8 * 4 + k % 8))
  | _ => none

/-! Lanes and masks (R128 to R136). -/

/-- The fixed tree over the acting lanes: level k joins blocks of 2^k lanes from lane p (R131). -/
def laneTree (ty : Ty) (op : Nat) (act : Nat → Bool) (v : Nat → Nat) : Nat → Nat → Option Nat
  | 0, p => if act p then some (v p) else none
  | k + 1, p => combO ty op (laneTree ty op act v k p) (laneTree ty op act v k (p + 2 ^ k))

/-- p is the acting lane before l. -/
def PrevLane (act : Nat → Bool) (l p : Nat) : Prop := p < l ∧ act p = true ∧ ∀ m, p < m → m < l → act m = false

/-- LBALLOT's test (R133). -/
def ballotTest (x : Ctx) (o : Opd) (l : Nat) : Bool := if o.isP || o == .exec then x.pbit o l else x.cnt o l != 0

/-- r writes the value of a pattern: an F32 NaN as the canonical one (R64; log 49). -/
def Canonical (ty : Ty) (p r : Nat) : Prop :=
  (ty = .f32 ∧ (f32.decode p).isNan = true → r = f32.nanBits) ∧ (¬(ty = .f32 ∧ (f32.decode p).isNan = true) → r = p)

/-- LRED's or LSCAN's identity (R132). -/
def ScanIdentity (ty : Ty) (op r : Nat) : Prop :=
  (op = 0 ∨ op = 4 ∨ op = 5 → r = 0) ∧ (op = 3 → r = 0xFFFFFFFF)
    ∧ (op = 1 → if ty = .f32 then r = f32.infBits false else r < 2 ^ 32 ∧ intOf ty r = tyMax ty)
    ∧ (op = 2 → if ty = .f32 then r = f32.infBits true else r < 2 ^ 32 ∧ intOf ty r = tyMin ty)

/-- LSHUF, LBCAST, LRED, LSCAN, LBALLOT, LVOTE, PLOG, PCNT. -/
def laneRule : Instr → Option Rule
  | .lshuf _ f =>
    some (Then fun x t => WritesTy t x f.d .z32 (withBp f 6) fun l =>
      let n := x.cntB f l % 32
      x.cnt f.a (match f.flags.toNat with
        | 0 => n
        | 1 => if l < n then l else l - n
        | 2 => if 31 < l + n then l else l + n
        | _ => l ^^^ n))
  | .lbcast _ f =>
    some (Then fun x t => WritesTy t x f.d (tyOr f.ty .z32) 2 fun _ => x.pat (tyOr f.ty .z32) f.a (x.cnt f.b x.low % 32))
  | .lred _ f =>
    let ty := tyOr f.ty .s32
    some (Then fun x t => ∃ r, laneTree ty f.flags.toNat (fun p => x.act.getLsbD p) (x.cnt f.a) 5 0 = some r
      ∧ Gives x t f.d ty 6 fun _ v => Canonical ty r v)
  | .lscan _ f =>
    let ty := tyOr f.ty .s32
    let op := f.flags.toNat % 8
    some (Then fun x t => ∃ inc : Nat → Nat,
      (∀ l < 32, x.act.getLsbD l = true →
        ((∀ p, ¬PrevLane (fun p => x.act.getLsbD p) l p) → inc l = x.cnt f.a l)
          ∧ ∀ p, PrevLane (fun p => x.act.getLsbD p) l p → inc l = comb ty op (inc p) (x.cnt f.a l))
      ∧ Gives x t f.d ty 6 fun l r => l < 32 → x.act.getLsbD l = true →
          if f.flags.getLsbD 3 then
            ((∀ p, ¬PrevLane (fun p => x.act.getLsbD p) l p) → ScanIdentity ty op r)
              ∧ ∀ p, PrevLane (fun p => x.act.getLsbD p) l p → Canonical ty (inc p) r
          else Canonical ty (inc l) r)
  | .lballot _ f =>
    some (Then fun x t => ∃ m : U32, (∀ l < 32, m.getLsbD l = (x.act.getLsbD l && ballotTest x f.a l))
      ∧ match f.d with
        | .p n => n ≠ 0 → Flies t x (.p n.toNat) (BitVec.allOnes 32) 2 fun p => p.uni = m.setWidth 64
        | d => Writes t x d false 2 (fun _ => m.toNat) m.toNat)
  | .lvote _ f =>
    some (Then fun x t => Tests x t f.d 2 fun _ =>
      let acting (l : Nat) : Prop := l < 32 ∧ x.act.getLsbD l = true
      match f.flags.toNat with
      | 0 => ∀ l, acting l → ballotTest x f.a l = true
      | 1 => ∃ l, acting l ∧ ballotTest x f.a l = true
      | _ => ∀ l m, acting l → acting m →
          if f.a.isP ∨ f.a = .exec then x.pbit f.a l = x.pbit f.a m else x.cnt f.a l = x.cnt f.a m)
  | .plog _ f =>
    some (Then fun x t => Tests x t f.d 2 fun l =>
      f.flags.getLsbD (2 * (if x.pbit f.a l then 1 else 0) + (if x.pbit f.b l then 1 else 0)) = true)
  | .pcnt _ f =>
    some (Then fun x t => Gives x t f.d .z32 2 fun l r => l < 32 →
      r = ((List.range (if f.flags.getLsbD 0 then l else 32)).filter fun k => x.pbit f.a k).length)
  | _ => none

/-! Pair words (R36 to R38, R137). -/

/-- A rule of the compute chapter for a full word. -/
def computeRule (i : Instr) : Option Rule :=
  arithRule i <|> divideRule i <|> bitsRule i <|> compareRule i <|> moveRule i <|> floatRule i <|> patternRule i
    <|> convertRule i <|> laneRule i

/-- The full word that a short operation is equivalent to: d, d, b; MOV, FABS and FNEG take b where it takes a. -/
def shortFull (q : Slot) : Option Instr :=
  let h : Head := ⟨q.g.setWidth 3, false, 0⟩
  let ty := (Ty.ofBits (q.x.setWidth 5)).getD .dflt
  let two : FmtA := { d := .v q.d, a := .v q.d, b := q.b, bp := 0, c := .zero, ty := ty, rnd := .rne, flags := 0 }
  let one : FmtA := { two with a := q.b }
  let imm : FmtI := { d := .v q.d, a := .v q.d, imm := q.x.signExtend 31 }
  match q.sop with
  | .snop => none
  | .iadd => some (.iadd h two)
  | .isub => some (.isub h two)
  | .iand => some (.iand h two)
  | .ior => some (.ior h two)
  | .ixor => some (.ixor h two)
  | .ishl => some (.ishl h two)
  | .ishr => some (.ishr h two)
  | .isra => some (.isra h two)
  | .imin => some (.imin h two)
  | .imax => some (.imax h two)
  | .imul => some (.imul h two)
  | .iaddi => some (.iaddi h imm)
  | .mov => some (.mov h { one with ty := .dflt })
  | .movi => some (.movi h imm)
  | .fadd => some (.fadd h two)
  | .fsub => some (.fsub h two)
  | .fmul => some (.fmul h two)
  | .fmin => some (.fmin h two)
  | .fmax => some (.fmax h two)
  | .fabs => some (.fabs h one)
  | .fneg => some (.fneg h one)

/-- A slot does what its full equivalent does, on the lanes its own guard leaves; both slots read what the registers held
before either wrote: the context is the one from before the pair. -/
def slotDoes (x : Ctx) (q : Slot) (s t : State) : Prop :=
  (x.slot q).act ≠ 0 → ∀ i r, shortFull q = some i → computeRule i = some r → r (x.slot q) s t

/-- A pair word. -/
def pairRule : Instr → Option Rule
  | .pairWord _ s0 s1 => some fun x s t => GoesOn t x (x.pc + 8) ∧ slotDoes x s0 s t ∧ slotDoes x s1 s t
  | _ => none

/-! What a compute instruction leaves alone (R20, R93). -/

/-- Nothing is on its way in a warp but what was and results to some registers. -/
def OnlySends (s t : State) (c w : Nat) (rs : List Reg) : Prop :=
  ∀ p ∈ (t.warp c w).pend, p.reg ∈ rs
    ∨ ∃ q ∈ (s.warp c w).pend, q.id = p.id ∧ q.reg = p.reg ∧ q.lanes = p.lanes ∧ q.uni = p.uni ∧ q.lands = p.lands

/-- An instruction of the compute chapter or a pair word. -/
def Instr.computes (i : Instr) : Bool := (computeRule i).isSome || (pairRule i).isSome

/-- The rounding mode of a compute instruction that rounds. -/
def Instr.rounding : Instr → Rnd
  | .fadd _ f | .fsub _ f | .fmul _ f | .ffma _ f | .frcp _ f | .frsq _ f | .fsqrt _ f | .fexp2 _ f | .flog2 _ f | .fsin _ f
  | .fcos _ f | .ftanh _ f | .fdiv _ f | .fdot2 _ f | .fscale _ f | .frnd _ f | .ffrac _ f | .cvt _ f _ | .qnt _ f
  | .dqnt _ f => f.rnd
  | _ => .rne

/-- The frame of a compute instruction: no register changes at the issue; what is set on its way goes to the registers it
writes; the trap record keeps its cause, PC, address and lanes; the generators stay unless it rounds in SR; the allocation
never shrinks; memory, scratchpads, system registers, the other fragments and warps stay. -/
def ComputeFrame (i : Instr) (s : State) (c w g : Nat) (t : State) : Prop :=
  let k := s.warp c w
  let k' := t.warp c w
  SameRegs k' k ∧ SameAround s t c w ∧ (∀ g', g' ≠ g → t.frag c w g' = s.frag c w g')
    ∧ OnlySends s t c w ((Instr.writes i).flatMap fun p => k.regsOf g p.1 p.2)
    ∧ k'.trap.cause = k.trap.cause ∧ k'.trap.pc = k.trap.pc ∧ k'.trap.addr = k.trap.addr ∧ k'.trap.lanes = k.trap.lanes
    ∧ k.alloc ≤ k'.alloc ∧ k'.locks = k.locks
    ∧ (Instr.rounding i ≠ .sr → k'.gen = k.gen)

/-! Control flow (R28, R139 to R152). -/

/-- A word address n words from a PC. -/
def wordsOn (pc : U64) (n : Int) : U64 := pc + BitVec.ofInt 64 (8 * n)

/-- A warp's trap record is this trap (R139, R366); where its trap frame lies in a lost line, a handler could not be entered, and
the record is that machine check's (R387; the model's reading, log 39). -/
def TrapIs (t : State) (c w cause : Nat) (pc addr : U64) : Prop :=
  let r := (t.warp c w).trap
  (r.cause = cause ∧ r.pc = pc ∧ r.addr = addr)
    ∨ (t.lostIn (t.trapFrame c w) 640 ≠ none ∧ r.cause = cMachineCheck ∧ r.pc = pc ∧ r.addr = 0)
def Trapped (t : State) (x : Ctx) (cause : Nat) (pc addr : U64) : Prop := TrapIs t x.c x.w cause pc addr

/-- Entries of the reconvergence stack that a pop reads back from memory lie in a lost line (R197, R387). -/
def BackLost (x : Ctx) (s : State) : Bool :=
  let n := min 16 x.k.reconOut
  x.k.recon.tail.isEmpty && n != 0 && (s.lostIn (s.runRegion x.c x.w + 32 * (x.k.reconOut - n)) (32 * n)).isSome

/-- The fragment is at a PC with these masks. -/
def FragAt (t : State) (x : Ctx) (pc : U64) (exec memb : U32) : Prop :=
  (t.frag x.c x.w x.g).pc = pc ∧ (t.frag x.c x.w x.g).exec = exec ∧ (t.frag x.c x.w x.g).memb = memb

/-- A 64-bit value is on its way to d, to land after some cycles; d is interlocked until then; bits [31:0] to a V register (R41). -/
def OwesIn (t : State) (x : Ctx) (d : Opd) (v : U64) (after : Nat → Prop) : Prop :=
  match d with
  | .v n => (∃ lat, after lat ∧ Flies t x (x.k.physV n.toNat) x.act lat (fun p => ∀ l < 32, p.lanes.get l = v.setWidth 32))
      ∧ (t.warp x.c x.w).locked (x.k.physV n.toNat) = true
  | .s n => (∃ lat, after lat ∧ Flies t x (.s n.toNat) (BitVec.allOnes 32) lat (fun p => p.uni = v))
      ∧ (t.warp x.c x.w).locked (.s n.toNat) = true
  | _ => True

abbrev Owes (t : State) (x : Ctx) (d : Opd) (v : U64) : Prop := OwesIn t x d v (1 ≤ ·)

/-- EXIT's effect (R21, R144). -/
def Exits : Rule := fun x s t =>
  let gone := if x.whole then x.fr.memb else x.act
  let left := x.fr.memb &&& ~~~gone
  if left ≠ 0 then FragAt t x (x.pc + 8) (x.fr.exec &&& ~~~gone) left
  else
    match x.k.recon with
    | [] => FMap.get? (t.warp x.c x.w).frags x.g = none
    | top :: rest =>
      if top.waiting = false then
        FragAt t x top.target top.exec top.memb
          ∧ (t.warp x.c x.w).recon = ⟨top.join, 0, 0, top.join, true⟩ :: rest
      else if BackLost x s then Trapped t x cMachineCheck x.pc 0
      else top.memb ≠ 0 → FragAt t x (top.join + 8) top.exec top.memb

/-- Entering a callee (R147). -/
def Enters (target : U64) (n : Nat) : Rule := fun x s t =>
  if 32 ≤ x.k.frames.length then Trapped t x cWinOver x.pc 0
  else
    match s.growTo x.c x.w (x.k.b + n + 15) with
    | none => Trapped t x cWinOver x.pc 0
    | some a =>
      if target.toNat % 8 ≠ 0 then Trapped t x cMisalign x.pc target
      else
      GoesOn t x target ∧ (t.warp x.c x.w).b = x.k.b + n ∧ (t.warp x.c x.w).alloc = a
        ∧ (t.warp x.c x.w).frames = ⟨x.pc + 8, n, false, 0⟩ :: x.k.frames
        ∧ ∀ g', g' ≠ x.g → (FMap.get? x.k.frags g').isSome → (t.frag x.c x.w g').heldCall.isSome

/-- Branches, calls and returns; they also act for a fragment with no lane in EXEC when unguarded (R21). -/
def flowRule : Instr → Option Rule
  | .bra h f => some fun x s t =>
      let target := wordsOn x.pc f.tgt.toInt
      let join := wordsOn x.pc f.jn.toInt
      let rest := x.fr.exec &&& ~~~x.act
      let mine := x.fr.memb &&& ~~~x.act
      if (h.g = 0 ∧ h.gn = false) ∨ x.act = x.fr.exec then GoesOn t x target
      else
        match x.k.freeSplit with
        | some (i, j) =>
          FragAt t x (x.pc + 8) rest mine
            ∧ (t.frag x.c x.w j).pc = target ∧ (t.frag x.c x.w j).exec = x.act ∧ (t.frag x.c x.w j).memb = x.act
            ∧ (t.frag x.c x.w j).prio = x.fr.prio ∧ (t.frag x.c x.w j).age = x.fr.age
            ∧ (t.frag x.c x.w j).stall = x.clock + max 1 h.st.toNat
            ∧ ∃ sp, FMap.get? (t.warp x.c x.w).splits i = some sp ∧ sp.join = join ∧ sp.members = [x.g, j] ∧ sp.gone = []
        | none =>
          if 4096 ≤ x.k.recon.length + x.k.reconOut then Trapped t x cWinOver x.pc (BitVec.allOnes 64)
          else if 32 ≤ x.k.recon.length ∧ s.lostIn (s.runRegion x.c x.w + 32 * x.k.reconOut) 32 ≠ none then
            Trapped t x cMachineCheck x.pc 0
          else FragAt t x (x.pc + 8) rest mine
            ∧ (t.warp x.c x.w).recon.head? = some ⟨target, x.act, x.act, join, false⟩
  | .brx _ f => some fun x _ t =>
      if (x.uni f.a).toNat % 8 ≠ 0 then Trapped t x cMisalign x.pc (x.uni f.a) else GoesOn t x (x.uni f.a)
  | .join _ _ => some fun x s t =>
      let bySplit : Prop :=
        match x.k.joinSplit x.g x.pc with
        | none => GoesOn t x (x.pc + 8)
        | some i =>
          if (FMap.get? x.k.splits i).map (·.depth) = some x.fr.depth then
            (t.frag x.c x.w x.g).st = .arrived i
              ∧ ∀ sp, FMap.get? (t.warp x.c x.w).splits i = some sp → x.g ∈ sp.gone
                  ∧ ((∀ m ∈ sp.members, m ∈ sp.gone) → (2 * (x.clock + 1), Instr.splitFusion x.c x.w i) ∈ t.agenda)
          else GoesOn t x (x.pc + 8)
      match x.k.recon with
      | [] => bySplit
      | top :: rest =>
        if top.join ≠ x.pc then bySplit
        else if top.waiting = false then
          FragAt t x top.target top.exec top.memb
            ∧ (t.warp x.c x.w).recon = ⟨x.pc, x.fr.exec, x.fr.memb, x.pc, true⟩ :: rest
        else if BackLost x s then Trapped t x cMachineCheck x.pc 0
        else
          FragAt t x (x.pc + 8) (x.fr.exec ||| top.exec) (x.fr.memb ||| top.memb)
            ∧ (rest ≠ [] ∨ x.k.reconOut = 0 → (t.warp x.c x.w).recon = rest)
  | .call _ f => some fun x s t => Enters (wordsOn x.pc f.tgt.toInt) (f.jn.toNat % 128) x s t
  | .callx _ f => some fun x s t => Enters (x.uni f.a) (f.imm.toNat % 128) x s t
  | .ret _ _ => some fun x s t =>
      match x.k.frames with
      | [] => if x.k.spilledFrames = 0 then Exits x s t else Trapped t x cWinUnder x.pc 0
      | fr :: rest =>
        if fr.gate then
          if x.k.spilledFrames = 0 then Trapped t x cGate x.pc (gateAddr fr.gateNo 7) else Trapped t x cWinUnder x.pc 0
        else if x.k.b < fr.n then Trapped t x cWinUnder x.pc 0
        else GoesOn t x fr.pc ∧ (t.warp x.c x.w).b = x.k.b - fr.n ∧ (t.warp x.c x.w).frames = rest
  | .exit _ _ => some Exits
  | _ => none

/-- A column sensor's reading, 16 bits signed, as 32 bits (R139, R352). -/
def sensorValue (reading : U64) (i : Nat) : Nat :=
  let v := reading.toNat / 2 ^ (16 * i) % 2 ^ 16
  if v < 2 ^ 15 then v else v + (2 ^ 32 - 2 ^ 16)

/-- The table of R139, bit by bit, for the warp that reads it: the grid's extents stand in words 2 to 4 of its launch record and the
argument pointer in words 8 and 9 (R189); inside a gate the last two read 0 (R325). -/
def specialValue (x : Ctx) (s : State) (idx : Nat) : Nat :=
  let k := x.k
  let rcd := ((FMap.get? s.grids (s.wg x.c k.wg).grid).map (·.rcd)).getD 0
  let word (i : Nat) : Nat := rcd / 2 ^ (32 * i) % 2 ^ 32
  let lin := (s.wg x.c k.wg).lin
  let gx := max 1 (word 2)
  let gy := max 1 (word 3)
  match idx with
  | 0x000 => word 2
  | 0x001 => word 3
  | 0x002 => word 4
  | 0x004 => lin % gx
  | 0x005 => lin / gx % gy
  | 0x006 => lin / (gx * gy)
  | 0x010 => x.c / 16
  | 0x011 => x.c / 4 % 4
  | 0x012 => x.c % 4
  | 0x013 => x.w / 16
  | 0x020 => k.dslot
  | 0x021 => if k.dslot = 0 then 0 else (s.sysReg 0x300 (8 * x.c + k.dslot)).toNat % 1024
  | 0x030 => k.b + k.spilled * 2 ^ 32
  | 0x031 => k.alloc + k.frames.length * 2 ^ 16 + k.spilledFrames * 2 ^ 32
  | 0x032 => k.spillPtr.toNat
  | 0x040 => k.trap.cause
  | 0x041 => k.trap.pc.toNat
  | 0x042 => k.trap.addr.toNat
  | 0x043 => k.trap.lanes.toNat
  | 0x044 => k.trap.done.toNat
  | 0x060 => sensorValue (s.stack (x.c / 16)).reading 0
  | 0x061 => sensorValue (s.stack (x.c / 16)).reading 1
  | 0x062 => sensorValue (s.stack (x.c / 16)).reading 2
  | 0x063 => sensorValue (s.stack (x.c / 16)).reading 3
  | 0x070 => if k.chk = true then 1 else 0
  | 0x080 => if k.gates = 0 then word 8 + word 9 * 2 ^ 32 else 0
  | 0x081 => if k.gates = 0 then (s.wg x.c k.wg).grid else 0
  | _ => 0

/-- Special registers, the window's size, yielding, sleeping, traps by software (R139, R140, R145, R149 to R152); RGROW's status where both
hold is log 50, the cycles of a read log 11. -/
def controlRule : Instr → Option Rule
  | .rdspec _ f => some fun x s t => GoesOn t x (x.pc + 8)
      ∧ OwesIn t x f.d (BitVec.ofNat 64 (specialValue x s f.idx.toNat))
          fun lat => if 0x060 ≤ f.idx.toNat ∧ f.idx.toNat ≤ 0x063 then lat = 40 else 2 ≤ lat
  | .wrspec _ f => some fun x _ t => GoesOn t x (x.pc + 8) ∧ (t.warp x.c x.w).chk = (x.uni f.a).getLsbD 0
  | .rgrow _ f => some fun x s t =>
      let n := (f.imm.toNat % 256 + 7) / 8 * 8
      let share := (s.dslim x.c x.k.aslot / 2 ^ 8) % 2 ^ 9 * 8
      let tooMany := share < x.k.alloc + n ∨ 1024 < x.k.alloc + n
      let lacks := s.regsFree x.c x.k.aslot < n
      GoesOn t x (x.pc + 8)
        ∧ (n = 0 ∨ (¬tooMany ∧ ¬lacks) → (t.warp x.c x.w).alloc = x.k.alloc + n ∧ Owes t x f.d 0)
        ∧ (n ≠ 0 ∧ tooMany → (t.warp x.c x.w).alloc = x.k.alloc ∧ Owes t x f.d 2)
        ∧ (n ≠ 0 ∧ ¬tooMany ∧ lacks → (t.warp x.c x.w).alloc = x.k.alloc ∧ Owes t x f.d 1)
  | .rshrink _ f => some fun x _ t =>
      ∃ n, n % 8 = 0 ∧ n ≤ (f.imm.toNat % 256 + 7) / 8 * 8 ∧ (n = 0 ∨ x.k.b + 32 + n ≤ x.k.alloc)
        ∧ (n = (f.imm.toNat % 256 + 7) / 8 * 8 ∨ x.k.alloc < x.k.b + 32 + n + 8)
        ∧ (t.warp x.c x.w).alloc = x.k.alloc - n ∧ GoesOn t x (x.pc + 8) ∧ Owes t x f.d (BitVec.ofNat 64 n)
  | .yield _ _ => some fun x _ t => GoesOn t x (x.pc + 8) ∧ (t.frag x.c x.w x.g).yielded = true
  | .sleep h f => some fun x _ t =>
      GoesOn t x (x.pc + 8)
        ∧ (max 1 h.st.toNat < f.imm.toNat → (t.frag x.c x.w x.g).st = .parked (.sleep (x.clock + f.imm.toNat))
            ∧ (2 * (x.clock + f.imm.toNat), Instr.sleepExpire x.c x.w x.g) ∈ t.agenda)
  | .sleepuntil _ f => some fun x s t =>
      let due := promiseReached x.clock (x.uni f.a)
        || (f.flags.getLsbD 0 && (s.core x.c).ticketDone x.k.wg (x.uni f.a))
      if due = false then
        (t.frag x.c x.w x.g).st = .parked (.promise (x.uni f.a) (f.flags.getLsbD 0)) ∧ (t.frag x.c x.w x.g).pc = x.pc
          ∧ (2 * promiseCycle x.clock (x.uni f.a), Instr.sleepuntilWake x.c x.w x.g) ∈ t.agenda
      else
        match (s.core x.c).ticket? x.k.wg (x.uni f.a) with
        | none => GoesOn t x (x.pc + 8)
        | some r =>
          (r.state = 1 → GoesOn t x (x.pc + 8)) ∧ (r.state = 2 → Trapped t x r.cause (x.pc + 8) r.addr)
            ∧ (r.state = 0 → Trapped t x cPromiseMissed (x.pc + 8) (x.uni f.a))
  | .trap _ f => some fun x _ t =>
      Trapped t x (f.imm.toNat % 128) (x.pc + 8) 0
        ∧ (t.lostIn (t.trapFrame x.c x.w) 640 = none → (t.warp x.c x.w).trap.lanes = x.act)
  | .bkpt _ f => some fun x _ t => Trapped t x cBkpt x.pc (BitVec.ofNat 64 (f.imm.toNat % 2 ^ 16))
  | .nop _ => some fun x s t => GoesOn t x (x.pc + 8) ∧ SameRegs (t.warp x.c x.w) x.k ∧ SameAround s t x.c x.w
      ∧ OnlySends s t x.c x.w []
  | _ => none

/-! Steps of the device and of the outside world. -/

/-- What a step of the device leaves, given the state before it. -/
abbrev StepRule := State → State → Prop

/-- A step asked for at a time: before the issue of its cycle, or after it. -/
def Due (t : State) (u : Nat) (i : Instr) : Prop := (2 * u, i) ∈ t.agenda
def DueLate (t : State) (u : Nat) (i : Instr) : Prop := (2 * u + 1, i) ∈ t.agenda

/-- A step of a table always answers a next state, and that state is as the table says. -/
def Does (table : Instr → Option StepRule) : Prop :=
  ∀ (i : Instr) (r : StepRule) (s : State), table i = some r → ∃ t, exec i s = .next t ∧ r s t

/-- A V register inside the resident allocation, or of the trap reserve (R191, R369). -/
def Warp.holds (k : Warp) : Reg → Bool
  | .v i => decide (i < 16 ∨ i < k.alloc)
  | _ => true

/-- A result lands in its register, in the lanes or bits of its mask, and in no other (R31, R40, R43, R158, R309). -/
def Lands (k k' : Warp) (p : Pend) : Prop :=
  (∀ r, (∃ i, r = Reg.v i) ∨ (∃ i, r = Reg.rsv i) → ∀ l < 32, (k'.getV r).get l
      = if r = p.reg ∧ p.mask.getLsbD l = true ∧ k.holds r = true then p.lanes.get l else (k.getV r).get l)
    ∧ (∀ i, k'.getS i = if p.reg = .s i ∧ p.mask ≠ 0 then p.uni else k.getS i)
    ∧ (∀ i, i ≠ 0 → ∀ l < 32, (k'.getP i).getLsbD l
        = if p.reg = .p i ∧ p.mask.getLsbD l = true then p.uni.getLsbD l else (k.getP i).getLsbD l)
    ∧ k'.nrm = (if p.reg = .nrm ∧ p.mask ≠ 0 then p.uni &&& 0x3FFFFFFFF else k.nrm)
    ∧ (∀ g f, FMap.get? k.frags g = some f → ∃ f', FMap.get? k'.frags g = some f'
        ∧ f'.exec = (if p.reg = .exec g ∧ p.mask ≠ 0 then p.uni.setWidth 32 &&& f.memb else f.exec)
        ∧ f'.memb = f.memb ∧ f'.pc = f.pc ∧ f'.st = f.st)
    ∧ (∀ i, p.reg = .t i ∧ p.mask ≠ 0 → (k'.getT i).gen = (k.getT i).gen + 1
        ∧ (k'.getT i).base = BitVec.ofNat 22 p.uni.toNat ∧ (k'.getT i).valid = p.uni.getLsbD 63)
    ∧ (∀ i, k'.getF i = if p.reg = .f i ∧ p.mask ≠ 0 then p.uni.setWidth 32 else k.getF i)
    ∧ ((∀ i, p.reg ≠ .t i ∧ p.reg ≠ .f i) → k'.t = k.t ∧ ∀ i, p.reg ≠ .x i → k'.getX i = k.getX i)
    ∧ k'.alloc = k.alloc ∧ k'.b = k.b ∧ k'.frames = k.frames ∧ k'.handler = k.handler ∧ k'.trap = k.trap ∧ k'.chk = k.chk

/-- The steps of a core's own issue and registers (R40 to R43, R143, R150, R151, R186, R188, R199). -/
def coreStepRule : Instr → Option StepRule
  | .fixedLatencyLand c w id => some fun s t =>
      match s.warp? c w with
      | none => t = s
      | some k =>
        match k.pend.find? (·.id == id) with
        | none => t = s
        | some p =>
          Lands k (t.warp c w) p ∧ (t.warp c w).pend = k.pend.filter (·.id != id)
            ∧ (t.warp c w).locks = k.locks.filter (·.owner != id) ∧ (k.handler = none → t.mem = s.mem)
            ∧ t.agenda = s.agenda ∧ t.clock = s.clock ∧ (t.core c).scratch = (s.core c).scratch
            ∧ (∀ d, d ≠ c → t.core d = s.core d) ∧ ∀ w', w' ≠ w → t.warp c w' = s.warp c w'
  | .fragmentPromotion c w g => some fun s t =>
      match (s.warp? c w).bind fun k => FMap.get? k.frags g with
      | none => t = s
      | some f => if 1024 ≤ f.wait then t.frag c w g = { f with promoted := true } ∧ t.mem = s.mem else t = s
  | .sleepExpire c w g => some fun s t =>
      match (s.warp? c w).bind fun k => FMap.get? k.frags g with
      | none => t = s
      | some f =>
        match f.st with
        | .parked (.sleep u) =>
          if u ≤ s.clock then t.frag c w g = { f with st := .ready, stall := max f.stall u } ∧ t.mem = s.mem else t = s
        | _ => t = s
  | .splitFusion c w i => some fun s t =>
      match (s.warp? c w).bind fun k => FMap.get? k.splits i with
      | none => t = s
      | some sp =>
        let k := s.warp c w
        let ms := (List.range 9).filter fun m => sp.members.contains m
        if sp.members.all fun m => sp.gone.contains m then
          FMap.get? (t.warp c w).splits i = none
            ∧ match ms with
              | [] => True
              | lead :: rest =>
                (t.frag c w lead).pc = sp.join + 8 ∧ (t.frag c w lead).st = .ready ∧ (t.frag c w lead).depth = sp.depth
                  ∧ (∀ l < 32, ((t.frag c w lead).exec.getLsbD l = true ↔ ∃ m ∈ ms, (s.frag c w m).exec.getLsbD l = true)
                      ∧ ((t.frag c w lead).memb.getLsbD l = true ↔ ∃ m ∈ ms, (s.frag c w m).memb.getLsbD l = true))
                  ∧ (∀ m ∈ rest, FMap.get? (t.warp c w).frags m = none)
                  ∧ ∀ m, m ∉ ms → FMap.get? (t.warp c w).frags m = FMap.get? k.frags m
        else t = s
  | .sleepuntilWake c w g => some fun s t =>
      match (s.warp? c w).bind fun k => FMap.get? k.frags g with
      | none => t = s
      | some f =>
        match f.st with
        | .parked (.promise a early) =>
          let k := s.warp c w
          let due := promiseReached s.clock a || (early && (s.core c).ticketDone k.wg a)
          let ends := (s.core c).ops.any fun o =>
            o.started && o.occ == s.clock && decide (o.kind < 10) && o.wg == k.wg && o.ticket == a.toNat / 2 ^ 48 % 2 ^ 16
          let waits := k.parked ∨ f.heldTrap = true
          let again (n : Nat) : Prop := (2 * n, Instr.sleepuntilWake c w g) ∈ t.agenda
          let trap (cause : Nat) (addr : U64) : Prop :=
            if waits then again (s.clock + 1)
              ∧ ∃ r, (t.frag c w g).missed = some r ∧ r.cause = cause ∧ r.pc = f.pc + 8 ∧ r.addr = addr
            else TrapIs t c w cause (f.pc + 8) addr
          if k.stopped then t = s
          else
            match f.missed with
            | some r => if waits then t.frag c w g = f ∧ again (s.clock + 1) else TrapIs t c w r.cause r.pc r.addr
            | none =>
              if ends then t.frag c w g = f ∧ again s.clock
              else if due then
                match (s.core c).ticket? k.wg a with
                | none => (t.frag c w g).pc = f.pc + 8 ∧ (t.frag c w g).st = .ready
                | some r =>
                  (r.state = 1 → (t.frag c w g).pc = f.pc + 8 ∧ (t.frag c w g).st = .ready)
                    ∧ (r.state = 2 → trap r.cause r.addr) ∧ (r.state = 0 → trap cPromiseMissed a)
              else t = s
        | _ => t = s
  | .instructionFetch c w g => some fun s t =>
      match (s.warp? c w).bind fun k => FMap.get? k.frags g with
      | none => t = s
      | some f =>
        if f.fetching = false then t = s
        else
          let k := s.warp c w
          let stays := f.st != .ready || f.heldTrap || f.heldCall.isSome || k.parked || k.stopped || decide (s.clock < f.stall)
          match s.translate c (s.dom c k.dslot) f.walked f.pc.toNat 2 with
          | .ok pa _ extra =>
            if (s.routeOf pa).isSome ∨ s.isLost pa = true then True
            else
              match (s.core c).cachedWord pa with
              | some (v, r) => (t.frag c w g).word = some v ∧ (t.frag c w g).fetching = false
                  ∧ (t.frag c w g).stall = max f.stall (max r (s.clock + extra))
              | none =>
                s.routable c pa = true → pa % 8 = 0 → (t.frag c w g).fetching = false →
                  (t.frag c w g).word = some (BitVec.ofNat 64 (s.physRead pa 8))
          | .fault cause _ =>
            if stays then (2 * max (s.clock + 1) f.stall, Instr.instructionFetch c w g) ∈ t.agenda
            else TrapIs t c w cause f.pc f.pc
          | _ => True
  | _ => none

/-! Traps (R47, R366 to R376). -/

/-- The state after a trap that its own handler takes (R368): the frame saved, the fragment at the handler's entry 40 cycles
on, the other fragments held, a fresh trap reserve; every other register, every byte outside the frame, every other warp and core,
the scratchpads, the host's memory and the system registers as they were. -/
def HandlerEntered (s : State) (c w g : Nat) (t : Trap) (u : State) : Prop :=
  let k := s.warp c w
  let f := s.frag c w g
  let a := s.trapFrame c w
  (u.frag c w g).pc = BitVec.ofNat 64 (s.dsHnd c k.dslot) ∧ (u.frag c w g).stall = s.clock + 40
    ∧ (u.frag c w g).exec = f.exec ∧ (u.warp c w).handler = some g ∧ (u.warp c w).reserve = []
    ∧ (∀ g', g' ≠ g → (FMap.get? k.frags g').isSome → (u.frag c w g').heldTrap = true)
    ∧ u.rdN a 8 = t.pc.toNat ∧ u.rdN (a + 8) 4 = f.exec.toNat ∧ u.rdN (a + 12) 4 = f.memb.toNat
    ∧ u.rdN (a + 16) 8 = k.nrm.toNat ∧ u.rdN (a + 24) 8 = b2n k.chk
    ∧ (∀ i < 7, u.rdN (a + 32 + 4 * i) 4 = (k.getP (i + 1)).toNat) ∧ ∀ i < 64, u.rdN (a + 64 + 8 * i) 8 = (k.getS i).toNat
    ∧ (u.warp c w).s = k.s ∧ (u.warp c w).p = k.p ∧ (u.warp c w).nrm = k.nrm ∧ (u.warp c w).v = k.v ∧ (u.warp c w).x = k.x
    ∧ (u.warp c w).t = k.t ∧ (u.warp c w).f = k.f ∧ (u.warp c w).b = k.b ∧ (u.warp c w).frames = k.frames
    ∧ (u.warp c w).alloc = k.alloc ∧ (∀ b, b < a ∨ a + 640 ≤ b → u.mem.get b = s.mem.get b)
    ∧ (u.warp c w).gen = k.gen ∧ (u.warp c w).gates = k.gates ∧ (u.warp c w).spilled = k.spilled ∧ (u.warp c w).chk = k.chk
    ∧ (u.warp c w).spilledFrames = k.spilledFrames ∧ (u.warp c w).spillPtr = k.spillPtr ∧ (u.warp c w).recon = k.recon
    ∧ (u.warp c w).splits = k.splits ∧ (u.warp c w).locks = k.locks ∧ (u.warp c w).pend = k.pend
    ∧ (∀ w', w' ≠ w → u.warp c w' = s.warp c w') ∧ (∀ d, d ≠ c → u.core d = s.core d)
    ∧ (u.core c).scratch = (s.core c).scratch ∧ (u.core c).wgs = (s.core c).wgs ∧ u.hostMem = s.hostMem ∧ u.sys = s.sys
    ∧ u.grids = s.grids ∧ u.fly = s.fly ∧ u.loads = s.loads ∧ u.clock = s.clock

/-! Memory instructions (R153 to R170, R321). -/

/-- Device memory, the host's memory and every scratchpad are the same. -/
def MemSame (s t : State) : Prop :=
  t.mem = s.mem ∧ t.hostMem = s.hostMem ∧ ∀ d, (t.core d).scratch = (s.core d).scratch

/-- The registers of a warp are the same but for the generations of tiles and the bindings that a generation's wrap ends
(R312, R313). -/
def SameButGenerations (a b : Warp) : Prop :=
  a.v = b.v ∧ a.reserve = b.reserve ∧ a.s = b.s ∧ a.p = b.p ∧ a.nrm = b.nrm ∧ a.f = b.f ∧ a.b = b.b ∧ a.frames = b.frames
    ∧ a.chk = b.chk ∧ a.handler = b.handler ∧ a.gates = b.gates
    ∧ (∀ i, { a.getT i with gen := 0 } = { b.getT i with gen := 0 })
    ∧ ∀ i, (a.getX i).bytes = (b.getX i).bytes ∧ (a.getX i).sfmt = (b.getX i).sfmt ∧ (a.getX i).blk = (b.getX i).blk

/-- The fragment waits at its instruction for translations to be walked (R263). -/
def WaitsForWalks (t : State) (x : Ctx) : Prop :=
  ∃ ids, (t.frag x.c x.w x.g).st = .parked (.walks ids) ∧ (t.frag x.c x.w x.g).pc = x.pc

/-- What the checks of the acting lanes lead to: a translation not at hand is walked first; the lowest failing lane's cause
is raised with its address; else the access is made (R157, R168, R258). -/
def Checked (x : Ctx) (t : State) (lanes : List Nat) (chk : Nat → Chk) (va : Nat → U64) (ok : Prop) : Prop :=
  ((∃ l ∈ lanes, chk l = .miss) → WaitsForWalks t x)
    ∧ ((∀ l ∈ lanes, chk l ≠ .miss) → ∀ l ∈ lanes, ∀ cause ipa, chk l = .bad cause ipa →
        (∀ m ∈ lanes, m < l → ∃ p, chk m = .ok p) → Trapped t x cause x.pc (va l))
    ∧ ((∀ l ∈ lanes, ∃ p, chk l = .ok p) → ok)

/-- A reading operation is out: its registers interlocked, its accesses where the lanes' checks placed them. -/
def Reads (x : Ctx) (s t : State) (f : FmtM) (kind size : Nat) (regs : List Reg) (mask : U32) (lanes : List Nat)
    (chk : Nat → Chk) (tag : Nat → Nat) (more : LoadOp → Prop) : Prop :=
  (∃ op, FMap.get? t.loads s.nextId = some op ∧ op.id = s.nextId ∧ op.core = x.c ∧ op.slot = x.w ∧ op.frag = x.g
      ∧ op.pc = x.pc ∧ op.kind = kind ∧ op.size = size ∧ op.regs = regs ∧ op.mask = mask
      ∧ (∀ l ∈ lanes, ∀ p, chk l = .ok p → ∃ a ∈ op.accs, a.lane = tag l ∧ a.pa = p.pa ∧ a.kind = p.kind)
      ∧ op.accs.length = lanes.length ∧ (isAcq f.sem = true → (op.id, x.fr.exec.toNat) ∈ (t.frag x.c x.w x.g).acq) ∧ more op)
    ∧ (∀ r ∈ regs, (t.warp x.c x.w).locked r = true)
    ∧ ((∀ l ∈ lanes, ∀ p, chk l = .ok p → p.kind ≠ 4) → GoesOn t x (x.pc + 8))

/-- LD, LDU, XLD (R156 to R158, R321). -/
def loadRule : Instr → Option Rule
  | .ld _ f => some fun x s t =>
      let n := szBytes f.sz
      let k := offTerm f
      let chk (l : Nat) : Chk := s.checkLane x f k n n .rd true true l
      Checked x t (lanesOf x.act) chk (x.vaOf f k)
        (Reads x s t f 0 n (x.k.destRegs f.d (szN f.sz f.d)) x.act (lanesOf x.act) chk id
            (fun op => ∀ l < 32, op.nrm.getLsbD l = true ↔ l ∈ lanesOf x.act ∧ ∃ p, chk l = .ok p ∧ p.kind = 1)
          ∧ MemSame s t ∧ SameRegs (t.warp x.c x.w) x.k)
  | .ldu _ f => some fun x s t =>
      let n := szBytes f.sz
      let k := offTerm f
      let chk (l : Nat) : Chk := s.checkLane x f k n n .rd true true l
      Checked x t [x.low] chk (x.vaOf f k)
        (Reads x s t f 1 n (x.k.destRegs f.d (szS f.sz)) 0 [x.low] chk (fun _ => 0)
            (fun op => ∀ p, chk x.low = .ok p → op.nrm = if p.kind = 1 then BitVec.ofNat 64 (2 ^ 32) else 0)
          ∧ MemSame s t ∧ SameRegs (t.warp x.c x.w) x.k)
  | .xld _ f => some fun x s t =>
      let k (j : Nat) : Int := offTerm f + 16 * (j : Int)
      let chk (j : Nat) : Chk := s.checkLane x f (k j) 16 16 .rd true true x.low
      let pieces := List.range 64
      ((∃ j ∈ pieces, chk j = .miss) → WaitsForWalks t x)
        ∧ ((∀ j ∈ pieces, chk j ≠ .miss) →
            match pieceBad (pieces.map fun j => (j, chk j)) with
            | some (j, cause, _) => Trapped t x cause x.pc (x.vaOf f (k j) x.low)
            | none =>
              Reads x s t f 2 16 (x.k.regsOf x.g f.d 1) 0 pieces chk id (fun _ => True) ∧ MemSame s t
                ∧ SameRegs (t.warp x.c x.w) x.k)
  | _ => none

/-- A byte that the lanes' stores put at an address: of the highest lane that stores there (R159). -/
def StoredByte (lanes : List Nat) (chk : Nat → Chk) (data : Nat → List Byte) (d a : Nat) (b : Byte) : Prop :=
  ∃ l ∈ lanes, ∃ p i, chk l = .ok p ∧ p.core = d ∧ a = p.pa + i ∧ (data l)[i]? = some b
    ∧ ∀ m ∈ lanes, l < m → ∀ q, chk m = .ok q → q.core = d → a < q.pa ∨ q.pa + (data m).length ≤ a

/-- Where the stores of some lanes are: in the scratchpads, or on their way there; in the quarter's buffer; on their way
to the context area, the host or a peer. No other byte of any memory changes, and no register but the generations of the
tiles written. -/
def Stores (x : Ctx) (s t : State) (f : FmtM) (lanes : List Nat) (chk : Nat → Chk) (data : Nat → List Byte) : Prop :=
  t.mem = s.mem ∧ t.hostMem = s.hostMem
    ∧ (∀ d a, (∀ b, ¬StoredByte lanes chk data d a b) → (t.core d).scratch.get a = (s.core d).scratch.get a)
    ∧ SameButGenerations (t.warp x.c x.w) x.k
    ∧ (isSp f = true → ∀ l ∈ lanes, ∀ p, chk l = .ok p →
        (∃ y ∈ t.fly, y.2.kind = 4 ∧ y.2.core = x.c ∧ y.2.slot = x.w ∧ y.2.pa = p.core
            ∧ ∃ a ∈ y.2.accs, a.lane = l ∧ a.pa = p.pa ∧ a.data = data l)
          ∨ ∀ i b, StoredByte lanes chk data p.core (p.pa + i) b → i < (data l).length →
              (t.core p.core).scratch.get (p.pa + i) = b)
    ∧ (isSp f = false → ∀ l ∈ lanes, ∀ p, chk l = .ok p →
        if f.sp = .ctx then
          ∃ y ∈ t.fly, y.2.kind = 1 ∧ y.2.ctx = true ∧ y.2.pa = p.pa / 128 * 128
            ∧ ∀ i b, (data l)[i]? = some b → (p.pa % 128 + i, b) ∈ y.2.bytes
        else if p.kind = 3 ∨ p.kind = 4 then
          p.kind = 3 → ∃ y ∈ t.fly, y.2.kind = 7 ∧ ∃ a ∈ y.2.accs, a.lane = l ∧ a.pa = p.pa ∧ a.data = data l
        else
          (∀ m ∈ lanes, ∀ q, chk m = .ok q → q.pa % 128 + (data m).length ≤ 128) →
          ∀ i b, StoredByte lanes (fun m => match chk m with
              | .ok q => if q.kind = 0 then .ok q else .miss
              | r => r) data p.core (p.pa + i) b → i < (data l).length →
            ∃ e ∈ FMap.getD (t.core x.c).bufs (quarterOf x.w) [],
              e.line = (p.pa + i) / 128 * 128 ∧ e.dslot = x.k.dslot ∧ ((p.pa + i) % 128, b) ∈ e.bytes)

/-- ST, STU, XST (R156, R159, R240, R245, R321). ST's lanes store in ascending order while the quarter's buffer has an entry for
them; the others wait at the instruction. A release at SY first reports a discarded peer write (R450). -/
def storeRule : Instr → Option Rule
  | .st _ f => some fun x s t =>
      let n := szBytes f.sz
      let k := offTerm f
      let chk (l : Nat) : Chk := s.checkLane x f k n n .wr true true l
      let lanes := lanesOf x.act
      let room := isSp f = true ∨ f.sp = .ctx
        ∨ (FMap.getD (s.core x.c).bufs (quarterOf x.w) []).length + lanes.length ≤ 16
      s.dropped = [] →
        (∀ l ∈ lanes, chk l = .miss → (∀ m ∈ lanes, m < l → ∃ p, chk m = .ok p) → WaitsForWalks t x)
          ∧ (room → ∀ l ∈ lanes, ∀ cause ipa, chk l = .bad cause ipa → (∀ m ∈ lanes, m < l → ∃ p, chk m = .ok p) →
              Trapped t x cause x.pc (x.vaOf f k l)
                ∧ (t.lostIn (t.trapFrame x.c x.w) 640 = none →
                  ∀ m < 32, (t.warp x.c x.w).trap.lanes.getLsbD m = decide (m = l)
                    ∧ ((t.warp x.c x.w).trap.done.getLsbD m = true ↔
                        (m < l ∧ m ∈ lanes) ∨ (x.fr.replay = some x.pc ∧ x.k.trap.done.getLsbD m = true)
                          ∨ x.fr.stored.getLsbD m = true)))
          ∧ ((∀ l ∈ lanes, ∃ p, chk l = .ok p) →
              ∃ taken ≤ lanes.length, (room → taken = lanes.length)
                ∧ Stores x s t f (lanes.take taken) chk (x.dataBytes f.d n)
                ∧ (taken = lanes.length → GoesOn t x (x.pc + 8))
                ∧ (taken < lanes.length → (t.frag x.c x.w x.g).pc = x.pc
                    ∧ ∀ m < 32, (t.frag x.c x.w x.g).stored.getLsbD m = true ↔
                        x.fr.stored.getLsbD m = true ∨ m ∈ lanes.take taken))
  | .stu _ f => some fun x s t =>
      let n := szBytes f.sz
      let k := offTerm f
      let chk (l : Nat) : Chk := s.checkLane x f k n n .wr true true l
      s.dropped = [] →
        Checked x t [x.low] chk (x.vaOf f k)
          (GoesOn t x (x.pc + 8)
            ∧ Stores x s t f [0] (fun _ => chk x.low) (fun _ => x.dataBytes f.d n x.low))
  | .xst _ f => some fun x s t =>
      let k (j : Nat) : Int := offTerm f + 16 * (j : Int)
      let chk (j : Nat) : Chk := s.checkLane x f (k j) 16 16 .wr true true x.low
      let pieces := List.range 64
      let bytes (n : BitVec 3) (j : Nat) : List Byte := (List.range 16).map fun i => (x.k.getX n.toNat).bytes.get (16 * j + i)
      s.dropped = [] →
        ((∃ j ∈ pieces, chk j = .miss) → WaitsForWalks t x)
          ∧ ((∀ j ∈ pieces, chk j ≠ .miss) →
              match pieceBad (pieces.map fun j => (j, chk j)) with
              | some (j, cause, _) => Trapped t x cause x.pc (x.vaOf f (k j) x.low)
              | none => GoesOn t x (x.pc + 8) ∧ ∀ n, f.d = .x n → Stores x s t f pieces chk (bytes n))
  | _ => none

/-- The lanes' accesses of an atomic that is out: operand and new value with each place. -/
def AtomOut (lanes : List Nat) (chk : Nat → Chk) (data new : Nat → List Byte) (accs : List LaneAcc) : Prop :=
  ∀ l ∈ lanes, ∀ p, chk l = .ok p → ∃ a ∈ accs, a.lane = l ∧ a.pa = p.pa ∧ a.data = data l ∧ a.new = new l

/-- An atomic's phases: every lane's checks, then the range locks lane by lane (R166 to R168). -/
def Atomic (x : Ctx) (s t : State) (f : FmtM) (code : Nat) (regs : List Reg) (ret : Bool) (data new : Nat → List Byte) : Prop :=
  let n := szBytes f.sz
  let host := code == 0 || (ret && (code == 8 || code == 16))
  let chk (l : Nat) : Chk := s.checkLane x f 0 n n .at_ host false l
  let lock (l : Nat) : Chk := s.checkLane x f 0 n n .at_ host true l
  let lanes := lanesOf x.act
  s.dropped = [] → Checked x t lanes chk (x.vaOf f 0)
    ((∀ l ∈ lanes, ∀ cause ipa, lock l = .bad cause ipa → (∀ m ∈ lanes, m < l → ∃ p, lock m = .ok p) →
        Trapped t x cause x.pc (x.vaOf f 0 l))
      ∧ ((∀ l ∈ lanes, ∃ p, lock l = .ok p) →
          t.mem = s.mem ∧ t.hostMem = s.hostMem
            ∧ (∀ d a, (∀ l ∈ lanes, ∀ p, lock l = .ok p → ¬(p.core = d ∧ p.pa ≤ a ∧ a < p.pa + n)) →
                (t.core d).scratch.get a = (s.core d).scratch.get a)
            ∧ SameButGenerations (t.warp x.c x.w) x.k
            ∧ (if ret ∨ isAcq f.sem = true then
                Reads x s t f 3 n regs x.act lanes lock id fun op => AtomOut lanes lock data new op.accs
              else
                ((∀ l ∈ lanes, ∀ p, lock l = .ok p → p.kind ≠ 4) → GoesOn t x (x.pc + 8))
                  ∧ (isSp f = false → (∀ l ∈ lanes, ∀ p, lock l = .ok p → p.kind = 0) →
                      ∀ l ∈ lanes, ∀ p, lock l = .ok p → ∃ y ∈ t.fly, y.2.kind = 2 ∧ y.2.code = code ∧ y.2.size = n ∧ y.2.op = 0
                        ∧ ∃ a ∈ y.2.accs, a.lane = l ∧ a.pa = p.pa ∧ a.data = data l))))

/-- ATOM, ATOMCAS, RED (R166 to R169). -/
def atomicRule : Instr → Option Rule
  | .atom _ f => some fun x s t =>
      Atomic x s t f (f.off.toNat % 16) (x.k.destRegs f.d (szV f.sz)) true (x.dataBytes f.d (szBytes f.sz)) fun _ => []
  | .atomcas _ f => some fun x s t => ∀ n, f.d = .v n →
      let words (i l : Nat) : List Byte :=
        (List.range (szBytes f.sz / 4)).flatMap fun j => toBytes 4 (x.vword n.toNat (i + j) l)
      Atomic x s t f 16 (x.k.destRegs f.d (szV f.sz)) true (words 0) (words (szBytes f.sz / 4))
  | .red _ f => some fun x s t =>
      Atomic x s t f (f.off.toNat % 16) [] false (x.dataBytes f.d (szBytes f.sz)) fun _ => []
  | _ => none

/-- FENCE, PREF, the CCTL forms: nothing of memory or of the registers changes (R163, R165, R170). -/
def orderRule : Instr → Option Rule
  | .fence _ f => some fun x s t =>
      s.dropped = [] →
        GoesOn t x (x.pc + 8) ∧ MemSame s t ∧ SameRegs (t.warp x.c x.w) x.k
          ∧ (f.sem ≠ .rel ∧ (f.sc = .pk ∨ f.sc = .sy) → ∀ l ∈ (t.core x.c).l1, l.slot = x.k.dslot → l.own = true)
          ∧ (f.sem = .rel ∨ (f.sc ≠ .pk ∧ f.sc ≠ .sy) → (t.core x.c).l1 = (s.core x.c).l1)
  | .pref _ f => some fun x s t =>
      if ∃ l ∈ lanesOf x.act, s.spot x f (offTerm f) 1 1 .rd true l = .miss then WaitsForWalks t x
      else GoesOn t x (x.pc + 8) ∧ MemSame s t ∧ SameRegs (t.warp x.c x.w) x.k
  | .cctlIl1 _ f => some fun x s t =>
      if ∃ l ∈ lanesOf x.act, s.spot x f 0 1 1 .rd true l = .miss then WaitsForWalks t x
      else GoesOn t x (x.pc + 8) ∧ MemSame s t ∧ SameRegs (t.warp x.c x.w) x.k
        ∧ ∀ l ∈ lanesOf x.act, ∀ p, s.spot x f 0 1 1 .rd true l = .ok p → p.kind = 0 →
            ∀ y ∈ (t.core x.c).l1, ¬(y.slot = x.k.dslot ∧ y.pa = p.pa / 128 * 128)
  | .cctlIl1all _ _ => some fun x s t =>
      GoesOn t x (x.pc + 8) ∧ MemSame s t ∧ SameRegs (t.warp x.c x.w) x.k
        ∧ ∀ y, y ∈ (t.core x.c).l1 ↔ y ∈ (s.core x.c).l1 ∧ y.slot ≠ x.k.dslot
  | .cctlIl1rem _ _ => some fun x s t =>
      GoesOn t x (x.pc + 8) ∧ MemSame s t ∧ SameRegs (t.warp x.c x.w) x.k
        ∧ ∀ y, y ∈ (t.core x.c).l1 ↔ y ∈ (s.core x.c).l1 ∧ (y.slot ≠ x.k.dslot ∨ y.own = true)
  | .cctlEvl2 _ f => some fun x s t =>
      if ∃ l ∈ lanesOf x.act, s.spot x f 0 1 1 .rd true l = .miss then WaitsForWalks t x
      else GoesOn t x (x.pc + 8) ∧ MemSame s t ∧ SameRegs (t.warp x.c x.w) x.k
        ∧ ∀ l ∈ lanesOf x.act, ∀ p, s.spot x f 0 1 1 .rd true l = .ok p → p.kind = 0 →
            ∀ y ∈ (t.stack (homeOf (p.pa / 128 * 128))).l2, y.pa = p.pa / 128 * 128 → y.did = s.dsDid x.c x.k.dslot →
              y.used = 0
  | _ => none

/-! What the memory system does on its own (R226, R233, R238, R245 to R252, R257, R263, R266, R425, R434, R460). -/

/-- The registers of an operation take the bytes it brought, in the lanes of its mask (R157, R158). -/
def LaneRegs (k k' : Warp) (regs : List Reg) (mask : U32) (got : Memory) (size : Nat) : Prop :=
  regs.Nodup → (∀ r ∈ regs, ∃ n, r = .v n ∨ r = .rsv n) → ∀ i r, regs[i]? = some r → k.holds r = true → ∀ l < 32,
    (k'.getV r).get l = if mask.getLsbD l = true then gotWord got l i (min 4 size) else (k.getV r).get l

/-- An operation's destination lands: all its lanes together, its NRM marks, its acquire; its registers are free; the
fragment that waits for its answer goes on (R41, R157, R158, R161, R168, R321). -/
def OpLands (s : State) (op : LoadOp) (t : State) : Prop :=
  let k := s.warp op.core op.slot
  let k' := t.warp op.core op.slot
  FMap.get? t.loads op.id = none
    ∧ (k.uid = op.uid → op.failed = [] →
        (op.kind = 0 ∨ op.kind = 3 → LaneRegs k k' op.regs op.mask op.got op.size)
          ∧ (op.kind = 1 → op.regs.Nodup → (∀ r ∈ op.regs, ∃ n, r = .s n) → ∀ (i n : Nat), op.regs[i]? = some (.s n) →
              k'.getS n = BitVec.ofNat 64 (ofBytes (op.got.read (8 * i) (min 8 op.size))))
          ∧ (op.kind = 2 → ∀ n, op.regs.head? = some (.x n) → (k'.getX n).bytes = op.got)
          ∧ ((∀ r ∈ op.regs, r ≠ .nrm) → k'.nrm = k.nrm ||| op.nrm)
          ∧ (∀ l ∈ k'.locks, l.owner ≠ op.id)
          ∧ (op.acq = .pk ∨ op.acq = .sy → ∀ l ∈ (t.core op.core).l1, l.slot = op.dslot → l.own = true)
          ∧ ((∀ r ∈ op.regs, ∀ g, r ≠ .exec g) → (s.frag op.core op.slot op.frag).st = .parked (.answer op.id) →
              (t.frag op.core op.slot op.frag).st = .ready
                ∧ (t.frag op.core op.slot op.frag).pc = (s.frag op.core op.slot op.frag).pc + 8)
          ∧ (k.handler = none → t.mem = s.mem)
          ∧ ∀ d w, d ≠ op.core ∨ w ≠ op.slot → t.warp d w = s.warp d w)

/-- The memory after an atomic's lanes, ascending, each on what the lanes before it left (R166, R233). -/
def atomicsOn (code size : Nat) (accs : List LaneAcc) (m : Memory) : Memory :=
  accs.foldl (fun m a =>
    m.write a.pa (toBytes size (atomNew code size (ofBytes (m.read a.pa size)) (ofBytes a.data) (ofBytes a.new)))) m

/-- The bytes of a line store, the last given one for a place (R245). -/
def lineByte (pa : Nat) (bs : List (Nat × Byte)) (a : Nat) (old : Byte) : Byte :=
  match bs.reverse.find? fun b => pa + b.1 == a with
  | some b => b.2
  | none => old

/-- Requests wait 512 cycles from entering the network before they are aged (R434). -/
def aging (s : State) (r : PortReq) : PortReq := { r with aged := r.aged || decide (r.born + 512 ≤ s.clock) }

/-- The requests that a port may admit: those of a domain without a bucket, those that the domain's level covers with its earlier
ones, and the head of its queue if it can borrow (R425, R426). -/
def Admissible (s : State) (p : Nat) (q : List PortReq) (r : PortReq) : Prop :=
  ∃ l1 l2, q = l1 ++ r :: l2
    ∧ (s.metered p r.did = false
        ∨ (((l1.filter fun y => y.did == r.did).map (·.cost)).sum + r.cost) * 1024 ≤ (s.bucket p r.did).level
        ∨ ((∀ y ∈ l1, y.did ≠ r.did) ∧ (s.pay p r).isSome = true))

/-- The order of service: a request that has waited 512 cycles first, of such the oldest; then the lowest slack, then the oldest
(R434). -/
def ServedBefore (a b : PortReq) : Prop :=
  if a.aged = true then b.aged = false ∨ a.born < b.born
  else b.aged = false ∧ (a.slack < b.slack ∨ (a.slack = b.slack ∧ a.born < b.born))

/-- A walk goes on: it is to read an entry of the table at a base, with nothing of memory changed, and comes back later. -/
def WalkAt (s : State) (level base id : Nat) (good : Walk → Prop) (t : State) : Prop :=
  MemSame s t ∧ ∃ w n, FMap.get? t.walks id = some w ∧ w.level = level ∧ w.base = base ∧ w.running = true ∧ good w
    ∧ s.clock ≤ n ∧ Due t n (.pageWalk id)

/-- An entry is a leaf whose use marks it accessed or dirty, which the entry's own page lets the walker do (R257, R258, R260). -/
def LeafMarks (s : State) (wk : Walk) (e : Nat) (o : S2) : Prop :=
  o.rd = true ∧ s.isLost o.pa = false ∧ (∃ oa, pteOf wk.level e = .leaf oa)
    ∧ ¬((wk.need = 1 ∧ e.testBit 2 = false) ∨ (wk.need = 2 ∧ e.testBit 3 = false))
    ∧ (e.testBit 4 = false ∨ (wk.need = 1 ∧ e.testBit 5 = false)) ∧ o.wr = true ∧ s.wayOf o.pa = none

/-- Eight bytes of a memory take a value; the others stay. -/
def Takes8 (old new : Memory) (at_ v : Nat) : Prop :=
  ∀ a, new.get a = if at_ ≤ a ∧ a < at_ + 8 then BitVec.ofNat 8 (v / 2 ^ (8 * (a - at_))) else old.get a

/-- What a walk that acts on an entry leaves in memory: the entry's accessed and dirty bits, at the address that stage 2 gives the
entry, in the host's memory or at its home, and nothing else; under a migration's hold the write waits in its queue (R257, R269). -/
def WalkWrites (s : State) (wk : Walk) (e : Nat) (t : State) : Prop :=
  let e' := e ||| 2 ^ 4 ||| (if wk.need = 1 then 2 ^ 5 else 0)
  match s.stage2 (s.walkDom wk) (entryIpa wk.level wk.base wk.va) with
  | none => MemSame s t
  | some o =>
    (¬LeafMarks s wk e o → MemSame s t)
      ∧ (LeafMarks s wk e o →
          (∀ d, (t.core d).scratch = (s.core d).scratch)
            ∧ if s.region o.pa = 2 then t.mem = s.mem ∧ (2 ^ 44 ≤ o.pa → Takes8 s.hostMem t.hostMem (o.pa - 2 ^ 44) e')
              else t.hostMem = s.hostMem ∧ (s.holder o.pa ≠ none → t.mem = s.mem)
                ∧ (s.holder o.pa = none → Takes8 s.mem t.mem o.pa e'))

/-- The fault that a walk has found: the fragment's, or what the engine that asked finds on looking again. -/
def WalkFails (s : State) (wk : Walk) (cause ipa : Nat) (t : State) : Prop :=
  (wk.uid ≠ 0 → (s.warp wk.core wk.slot).uid = wk.uid →
      (wk.va / 65536, wk.need, cause, ipa) ∈ (t.frag wk.core wk.slot wk.frag).walked)
    ∧ (wk.uid = 0 → Due t (s.clock + 2) (.pageWalk wk.id)
        ∧ ∃ w, FMap.get? t.walks wk.id = some w ∧ w.running = false ∧ w.fault = some (cause, ipa))

/-- A walk acts on the entry it has read: the next level's table, or its outcome, which the core's cache or the fragment takes
(R255, R257, R258, R263). -/
def WalkActs (s : State) (wk : Walk) (e : Nat) (t : State) : Prop :=
  let back (u : State) : Frag := u.frag wk.core wk.slot wk.frag
  match (s.walkStep (s.walkDom wk) wk.va wk.need wk.level wk.base e).1 with
  | .down ipa => WalkAt s (wk.level + 1) ipa wk.id (fun w => w.hop = 0) t
  | .done r =>
    WalkWrites s wk e t
      ∧ match r with
        | .translation => WalkFails s wk cTranslation 0 t
        | .domain ipa => WalkFails s wk cDomain ipa t
        | .lost pa => WalkFails s wk cMachineCheck pa t
        | .zeros e => wk.fills = true → e ∈ (t.core wk.core).tlb
        | .ok e => (wk.fills = true → e ∈ (t.core wk.core).tlb)
            ∧ (s.viaHost (e.pa + (wk.va - e.va)) = false → wk.uid ≠ 0 → (s.warp wk.core wk.slot).uid = wk.uid → wk.need ≠ 2 →
                (back s).st = .parked (.walks [wk.id]) → (back t).st = .ready)

/-- Bytes stand at a place, and every other byte is as it was. -/
def Placed (s t : State) (a : Nat) (b : List Byte) : Prop :=
  ∀ i, t.mem.get i = if a ≤ i then (b[i - a]?).getD (s.mem.get i) else s.mem.get i

/-- The steps of the memory system. -/
def memStepRule : Instr → Option StepRule
  | .homeArrival id => some fun s t =>
      match FMap.get? s.fly id with
      | none => t = s
      | some f =>
        if f.performed then t = s
        else f.id = id → f.phase ≠ 9 →
          let turn : Prop := f.phase = 2 ∧ s.holder f.pa = none ∧ s.homeReady f.pa = true ∧ s.mustWait f = false
            ∧ s.queuedBehind f = false
          (f.kind = 0 → s.meetsLost f = false → MemSame s t
              ∧ (∀ y, FMap.get? t.fly id = some y → y.performed = true →
                  y.data = s.rd f.pa 128 ∨ ∃ l ∈ (s.core f.core).l1, l.pa = lineOf f.pa ∧ l.slot = f.dslot ∧ y.data = l.data)
              ∧ (turn → Due t (s.clock + f.back) (.lineRequestAnswer id)
                  ∧ ∃ y, FMap.get? t.fly id = some y ∧ y.performed = true ∧ y.data = s.rd f.pa 128))
            ∧ (f.kind = 1 → s.meetsLost f = false →
                (FMap.get? t.fly id = none → ∀ a, t.mem.get a =
                    lineByte f.pa (if f.ctx then s.ctxBytes f.pa f.bytes else f.bytes) a (s.mem.get a))
                  ∧ (FMap.get? t.fly id ≠ none → t.mem = s.mem) ∧ t.hostMem = s.hostMem
                  ∧ (turn → FMap.get? t.fly id = none))
            ∧ (f.kind = 2 → s.meetsLost f = false → t.hostMem = s.hostMem
                ∧ (t.mem = s.mem ∨ (t.mem = atomicsOn f.code f.size f.accs s.mem
                    ∧ ∀ y, FMap.get? t.fly id = some y → y.performed = true))
                ∧ (turn → t.mem = atomicsOn f.code f.size f.accs s.mem
                    ∧ if f.op = 0 then FMap.get? t.fly id = none
                      else Due t (s.clock + f.back) (.lineRequestAnswer id) ∧ ∃ y, FMap.get? t.fly id = some y ∧ y.performed = true))
            ∧ (f.kind = 4 ∨ f.kind = 5 → f.phase = 4 ∨ f.phase = 6 → t.mem = s.mem ∧ t.hostMem = s.hostMem
                ∧ (t.core f.pa).scratch =
                    if (FMap.get? (s.core f.pa).wgs f.arg).isSome ∧ ¬(f.back = 30 ∧ (s.core f.pa).rowBusy s.clock = true) then
                      let now := f.accs.filter fun a => a.pass == s.clock - f.arrives
                      if f.kind = 4 then now.foldl (fun m a => m.write a.pa a.data) (s.core f.pa).scratch
                      else now.foldl (fun m a => m.write a.pa (toBytes f.size (atomNew f.code f.size
                        (ofBytes (m.read a.pa f.size)) (ofBytes a.data) (ofBytes a.new)))) (s.core f.pa).scratch
                    else (s.core f.pa).scratch)
            ∧ (f.kind = 14 → turn → s.meetsLost f = false → s.region f.pa ≠ 2 →
                FMap.get? t.fly id = none ∧ t.hostMem = s.hostMem
                  ∧ (f.accs = [] → Placed s t f.pa (f.bytes.map (·.2)))
                  ∧ ∀ a, f.accs = [a] → Placed s t f.pa (toBytes f.size
                      (atomNew f.code f.size (ofBytes (s.rd f.pa f.size)) (ofBytes a.data) (ofBytes a.new))))
            ∧ (f.kind = 18 → s.meetsLost f = false → MemSame s t
                ∧ (turn → f.op ≠ 0 → Due t (s.clock + f.back) (.pageWalk f.op)
                    ∧ ∃ y, FMap.get? t.fly id = some y ∧ y.performed = true ∧ y.data = s.rd f.pa f.size))
            ∧ (f.kind = 7 → t.mem = s.mem
                ∧ (t.hostMem = s.hostMem ∨ (FMap.get? t.fly id = none
                    ∧ t.hostMem = f.accs.foldl (fun m a => m.write (a.pa - 0x100000000000) a.data) s.hostMem)))
  | .lineRequestAnswer id => some fun s t =>
      match FMap.get? s.fly id with
      | none => t = s
      | some f =>
        if f.performed = false then t = s
        else f.id = id →
          FMap.get? t.fly id = none
            ∧ if f.kind = 9 ∨ f.kind = 16 ∨ f.kind = 17 then
                s.barFrag f = true →
                  let u := t.frag f.core f.slot f.frag
                  if f.nofill then
                    TrapIs t f.core f.slot cBarrierMismatch (s.frag f.core f.slot f.frag).pc f.va
                  else
                    u.st = .ready ∧ u.pc = (s.frag f.core f.slot f.frag).pc + 8
                      ∧ ∀ op n, FMap.get? s.loads f.op = some op → op.regs = [.s n] →
                          (t.warp f.core f.slot).getS n = BitVec.ofNat 64 f.seq
              else
                match FMap.get? s.loads f.op with
                | none => MemSame s t
                | some op => op.id = f.op →
                  let op' := op.take (if f.kind = 0 ∨ f.kind = 6 then lineBytes op f else f.bytes)
                  (op.left = 1 → op.kind ≤ 2 → op.lands ≤ s.clock → OpLands s { op' with left := 0 } t)
                    ∧ (2 ≤ op.left → FMap.get? t.loads op.id = some { op' with left := op.left - 1 } ∧ t.mem = s.mem
                        ∧ (op.kind = 3 → (s.warp op.core op.slot).uid = op.uid →
                            LaneRegs (s.warp op.core op.slot) (t.warp op.core op.slot) op.regs
                              (maskOf fun l => f.accs.any fun a => a.lane == l) op'.got op.size))
  | .space1LoadReturn id => some fun s t =>
      match FMap.get? s.loads id with
      | none => t = s
      | some op => op.id = id →
        match s.fly.find? fun f => f.2.op == id && f.2.performed && (f.2.kind == 3 || f.2.kind == 5) with
        | some f => FMap.get? t.fly f.1 = none ∧ OpLands s (op.take f.2.bytes) t
        | none => if op.left = 0 then OpLands s op t else t = s
  | .storeBufferDrain c q id => some fun s t =>
      let buf (u : State) : List Entry := FMap.getD (u.core c).bufs q []
      match (buf s).find? (·.id == id) with
      | none => t = s
      | some e =>
        MemSame s t ∧ (∀ x ∈ buf t, x ∈ buf s ∧ x.id ≠ id ∧ (e.own = true → x.own = true → id < x.id))
          ∧ (e.own = false → ∀ x ∈ buf s, x.id ≠ id → x ∈ buf t)
          ∧ ∃ f, FMap.get? t.fly id = some f ∧ f.kind = 1 ∧ f.core = c ∧ f.pa = e.line ∧ f.bytes = e.bytes ∧ f.ctx = e.ctx
              ∧ f.performed = false
  | .bucketAdmit p => some fun s t =>
      let q := (FMap.getD s.portQ p []).map (aging s)
      let q' := FMap.getD t.portQ p []
      MemSame s t ∧ (q' ≠ [] → Due t (s.clock + 1) (.bucketAdmit p))
        ∧ ((∀ x, ¬Admissible s p q x) → q' = q)
        ∧ ((∃ x, Admissible s p q x) →
            ∃ r, Admissible s p q r ∧ (∀ x, Admissible s p q x → ¬ServedBefore x r) ∧ q' = q.filter (fun x => x.fly != r.fly)
              ∧ (s.metered p r.did = true → r.cost * 1024 ≤ (s.bucket p r.did).level →
                  (t.bucket p r.did).level = (s.bucket p r.did).level - r.cost * 1024)
              ∧ ∀ f, FMap.get? s.fly r.fly = some f → f.id = r.fly →
                  FMap.get? t.fly r.fly = some { f with phase := 1 } ∧ Due t s.clock (.homeArrival r.fly))
  | .networkRequestAge => some fun s t =>
      MemSame s t ∧ ∀ p, FMap.getD t.portQ p [] = (FMap.getD s.portQ p []).map (aging s)
  | .l1AgeInvalidate c line => some fun s t =>
      MemSame s t ∧ ∀ l, l ∈ (t.core c).l1
        ↔ l ∈ (s.core c).l1 ∧ ¬(l.pa = line ∧ l.own = false ∧ l.filled + 16384 ≤ s.clock)
  | .walkQueueAge => some fun s t =>
      MemSame s t ∧ ∀ id, FMap.get? t.walks id = (FMap.get? s.walks id).map fun w =>
        if w.running = false ∧ w.born + 512 ≤ s.clock then { w with aged := true } else w
  | .pageWalk id => some fun s t =>
      match FMap.get? s.walks id with
      | none => t = s
      | some wk =>
        if wk.fault.isSome then t = { s with walks := FMap.drop s.walks id }
        else if wk.running = false ∨ wk.waitsAts = true then t = s
        else wk.id = id →
          let d := s.walkDom wk
          match s.stage2 d (entryIpa wk.level wk.base wk.va) with
          | none => WalkActs s wk 0 t
          | some o =>
            let now := s.physRead o.pa 8
            if o.rd = false ∨ s.region o.pa = 3 then WalkActs s wk 0 t
            else if wk.hop = 0 ∧ s.routable wk.core o.pa = false then MemSame s t ∧ WalkFails s wk cMachineCheck o.pa t
            else if s.region o.pa = 2 then
              if wk.hop ≠ 0 then WalkActs s wk wk.entry t
              else if s.clock < s.wayFrom wk.stack o.pa then WalkAt s wk.level wk.base id (fun w => w = wk) t
              else
                match s.wayOf o.pa with
                | none => WalkAt s wk.level wk.base id (fun w => w = { wk with hop := 2, entry := now }) t
                | some y =>
                  if y.mr then MemSame s t ∧ WalkFails s wk cTranslation 0 t
                  else WalkAt s wk.level wk.base id (fun w => w.hop = 2) t
            else if wk.hop = 0 then
              MemSame s t ∧ FMap.get? t.walks id = some { wk with hop := 1 }
                ∧ ∃ y ∈ t.fly, y.2.kind = 18 ∧ y.2.op = id ∧ y.2.core = wk.core ∧ y.2.pa = o.pa ∧ y.2.size = 8 ∧ y.2.did = d.did
                    ∧ y.2.cost = 128 ∧ y.2.slack = 15 ∧ y.2.performed = false
            else if wk.hop = 1 then
              match s.tokenOf id (walkReq o) with
              | none => MemSame s t ∧ WalkFails s wk cMachineCheck o.pa t
              | some f =>
                if f.performed then
                  WalkAt s wk.level wk.base id (fun w => w = { wk with hop := 2, entry := ofBytes f.data }) t
                else t = s
            else
              match pteOf wk.level wk.entry with
              | .leaf _ =>
                if s.pageHeld o.pa then WalkAt s wk.level wk.base id (fun w => w = wk) t
                else if now % 4 = wk.entry % 4 ∧ now / 2 ^ 12 % 2 ^ 45 = wk.entry / 2 ^ 12 % 2 ^ 45 then WalkActs s wk now t
                else WalkAt s 0 d.root id (fun w => w.hop = 0) t
              | _ => WalkActs s wk wk.entry t
  | .atsTranslationResponse id page rd wr => some fun s t =>
      match FMap.get? s.walks id with
      | none => t = s
      | some wk =>
        if wk.waitsAts = false then t = s
        else
          MemSame s t ∧ hostEntry (s.fnOf wk.did) page rd wr ∈ (t.stack wk.stack).tlb
            ∧ (wk.uid ≠ 0 → (s.warp wk.core wk.slot).uid = wk.uid → wk.need ≠ 2 →
                (s.frag wk.core wk.slot wk.frag).st = .parked (.walks [wk.id]) →
                (t.frag wk.core wk.slot wk.frag).st = .ready)
  | _ => none

/-! Barriers (R171 to R177, R210). -/

/-- The address check of a barrier operation: its single uniform address, the index field being b (R172). -/
def barCheck (x : Ctx) (s : State) (f : FmtM) (code : Nat) : Chk :=
  s.checkLane x { f with b := .zero } (offTerm f) 8 8 (if code = 3 then .rd else .at_) false true x.low

/-- A barrier operation at its word: BARINIT goes on, the others hold the fragment until the word's ALU answers. -/
def BarrierOut (x : Ctx) (s t : State) (f : FmtM) (code seq : Nat) (regs : List Reg) : Prop :=
  let va := x.vaOf { f with b := .zero } (offTerm f) x.low
  let op := fun (y : Fly) (p : Spot) =>
    y.kind = (if f.sp = .gl then 9 else if f.sp = .sp then 16 else 17) ∧ y.wordAt = p.pa ∧ y.seq = seq
      ∧ y.code = code + 8 * scopeNo f.sc ∧ y.core = x.c ∧ y.slot = x.w ∧ y.frag = x.g ∧ y.va = va
  s.dropped = [] →
    (barCheck x s f code = .miss → WaitsForWalks t x)
      ∧ (∀ cause ipa, barCheck x s f code = .bad cause ipa → Trapped t x cause x.pc va)
      ∧ ∀ p, barCheck x s f code = .ok p →
          if 3 ≤ p.kind then Trapped t x cTranslation x.pc va
          else if (code = 1 ∨ code = 2) ∧ seq = 0 then Trapped t x cBarrierMismatch x.pc va
          else if p.kind = 1 then
            (t.warp x.c x.w).nrm = x.k.nrm ||| BitVec.ofNat 64 (2 ^ 32) ∧ MemSame s t
              ∧ (seq ≠ 0 → GoesOn t x (x.pc + 8)
                  ∧ (f.sc = .pk ∨ f.sc = .sy → ∀ l ∈ (t.core x.c).l1, l.slot = x.k.dslot → l.own = true))
              ∧ (seq = 0 → (t.frag x.c x.w x.g).pc = x.pc
                  ∧ ∃ id, (t.frag x.c x.w x.g).st = .parked (.barrier id 0 va 0 f.sc))
          else
            MemSame s t ∧ SameRegs (t.warp x.c x.w) x.k
              ∧ if code = 0 then GoesOn t x (x.pc + 8) ∧ ∃ id y, FMap.get? t.fly id = some y ∧ op y p
                else
                  (∀ r ∈ regs, (t.warp x.c x.w).locked r = true)
                    ∧ ∃ id y, FMap.get? t.fly id = some y ∧ op y p ∧ y.op = s.nextId
                        ∧ (t.frag x.c x.w x.g).st = .parked (.answer id) ∧ (t.frag x.c x.w x.g).pc = x.pc
                        ∧ ∃ o, FMap.get? t.loads s.nextId = some o ∧ o.kind = 4 ∧ o.regs = regs

/-- BARINIT, ARRIVE, WAITB, ARRWAIT, WSYNC, GSYNC at their issue. -/
def barrierRule : Instr → Option Rule
  | .barinit _ f => some fun x s t => BarrierOut x s t f 0 (if f.b.isS then (x.uni f.b).toNat % 2 ^ 16 else 0) []
  | .arrive _ f => some fun x s t => BarrierOut x s t f 1 ((x.uni f.b).toNat % 2 ^ 16) (x.k.destRegs f.d 1)
  | .waitb _ f => some fun x s t => BarrierOut x s t f 3 ((x.uni f.b).toNat % 2 ^ 16) []
  | .arrwait _ f => some fun x s t =>
      match x.fr.token with
      | none => BarrierOut x s t f 2 ((x.uni f.b).toNat % 2 ^ 16) []
      | some tok => BarrierOut x s t f 3 tok []
  | .wsync _ f => some fun x s t =>
      (t.frag x.c x.w x.g).st = .parked (.wsync (BitVec.ofNat 32 (x.wide f.a 0))) ∧ (t.frag x.c x.w x.g).pc = x.pc
        ∧ MemSame s t ∧ SameRegs (t.warp x.c x.w) x.k
        ∧ ((∀ p ∈ x.k.frags, (p.2.wsyncAt x.pc).isNone) →
            (2 * (x.clock + 1), Instr.wsyncRelease x.c x.w x.pc) ∈ t.agenda)
  | .gsync _ => some fun x s t =>
      match FMap.get? s.grids (s.wg x.c x.k.wg).grid with
      | none => Trapped t x cGridNotCoop x.pc 0
      | some g =>
        if g.rcd.testBit 217 = false then Trapped t x cGridNotCoop x.pc 0
        else (t.frag x.c x.w x.g).st = .parked .gsync ∧ (t.frag x.c x.w x.g).pc = x.pc ∧ MemSame s t
          ∧ SameRegs (t.warp x.c x.w) x.k
  | _ => none

/-- The word after a barrier operation (R173): operation, its count or token, the word before. -/
def barAfter (op seq m : Nat) : Nat :=
  let count := m % 2 ^ 16
  let arrived := m / 2 ^ 16 % 2 ^ 16
  let phase := m / 2 ^ 32 % 2 ^ 16
  let top := m / 2 ^ 48 % 2 ^ 16 * 2 ^ 48
  if op = 0 then seq % 2 ^ 64
  else if op = 3 ∨ (count ≠ 0 ∧ count ≠ seq) then m
  else if arrived + 1 = seq then (phase + 1) % 2 ^ 16 * 2 ^ 32 + top
  else seq % 2 ^ 16 + (arrived + 1) % 2 ^ 16 * 2 ^ 16 + phase * 2 ^ 32 + top

/-- Barrier operations at their words, and the ends of WSYNC and GSYNC. -/
def barrierStepRule : Instr → Option StepRule
  | .barrierWordOperation id => some fun s t =>
      match FMap.get? s.fly id with
      | none => t = s
      | some f =>
        if f.performed then t = s
        else
          let m := s.barWord f
          let op := f.code % 8
          let phase := m / 2 ^ 32 % 2 ^ 16
          let clash : Prop := op ≠ 0 ∧ op ≠ 3 ∧ m % 2 ^ 16 ≠ 0 ∧ m % 2 ^ 16 ≠ f.seq
          let last : Prop := m / 2 ^ 16 % 2 ^ 16 + 1 = f.seq
          t.barWord f = barAfter op f.seq m
            ∧ (∀ a, a < f.wordAt ∨ f.wordAt + 8 ≤ a → t.mem.get a = s.mem.get a
                ∧ (t.core f.pa).scratch.get a = (s.core f.pa).scratch.get a)
            ∧ (op ≠ 3 → ∀ p ∈ s.fly, p.2.phase = 7 → sameWord f p.2 = true → p.2.seq ≠ barAfter op f.seq m / 2 ^ 32 % 2 ^ 16 →
                (2 * (s.clock + p.2.back), Instr.lineRequestAnswer p.1) ∈ t.agenda)
            ∧ (op = 0 → FMap.get? t.fly f.id = none)
            ∧ (clash → ∃ y, FMap.get? t.fly f.id = some y ∧ y.performed = true ∧ y.nofill = true)
            ∧ (op = 3 → phase ≠ f.seq → ∃ y, FMap.get? t.fly f.id = some y ∧ y.performed = true ∧ y.phase = 8)
            ∧ (op = 1 → ¬clash → ∃ y, FMap.get? t.fly f.id = some y ∧ y.performed = true ∧ y.phase = 8 ∧ y.seq = phase
                ∧ y.nofill = f.nofill)
            ∧ (op = 2 → ¬clash → last →
                ∃ y, FMap.get? t.fly f.id = some y ∧ y.performed = true ∧ y.phase = 8 ∧ y.seq = phase)
            ∧ ((op = 3 ∧ phase = f.seq) ∨ (op = 2 ∧ ¬clash ∧ ¬last) →
                (t.frag f.core f.slot f.frag).st = .parked (.barrier f.id
                  (if f.kind = 9 then 0 else if f.kind = 16 then 1 else 2) f.va phase (scopeOf (f.code / 8))))
  | .wsyncRelease c w pc => some fun s t =>
      match s.warp? c w with
      | none => t = s
      | some k =>
        MemSame s t
          ∧ (∀ p ∈ s.wsyncReady c w pc, (t.frag c w p.1).st = .ready
              ∧ ((k.frags.map (·.1)).Nodup → (t.frag c w p.1).pc = pc + 8))
          ∧ ((k.frags.map (·.1)).Nodup → ∀ p ∈ k.frags, ∀ m, p.2.wsyncAt pc = some m → (t.frag c w p.1).st = .ready →
              ∀ l < 32, m.getLsbD l = true → (∃ q ∈ k.frags, q.2.memb.getLsbD l = true) →
                ∃ q ∈ k.frags, (q.2.wsyncAt pc).isSome ∧ q.2.memb.getLsbD l = true)
          ∧ ∀ g, (∀ p ∈ s.wsyncReady c w pc, p.1 ≠ g) → t.frag c w g = s.frag c w g
  | .gsyncRelease => some fun s t =>
      MemSame s t
        ∧ (∀ g gr, (g, gr) ∈ s.grids → s.gsyncReady g gr = true → ∀ r ∈ s.gridWarps g, ∀ p ∈ r.2.2.frags,
            p.2.inGsync = true → (t.frag r.1 r.2.1 p.1).st = .ready)
        ∧ ((∀ g ∈ s.grids, s.gsyncReady g.1 g.2 = false) →
            t.cores = s.cores ∧ (∀ g ∈ s.grids, ∀ r ∈ s.gridWarps g.1, ∀ p ∈ r.2.2.frags, p.2.inGsync = true →
              (2 * (s.clock + 1), Instr.gsyncRelease) ∈ t.agenda))
  | _ => none

/-! Work (R178 to R180, R189 to R195, R389, R399 to R407, R428 to R430, R445). -/

/-- Lines that belong to other stacks are gone from a slot's L1 (R161, R170). -/
def Acquired (t : State) (c slot : Nat) : Prop := ∀ l ∈ (t.core c).l1, l.slot = slot → l.own = true

/-- A record's operation is out, its destination interlocked; the record is read when the stores before it are performed. -/
def RecordOut (x : Ctx) (s t : State) (kind : Nat) (d : Opd) (pa : Option Nat) : Prop :=
  GoesOn t x (x.pc + 8) ∧ MemSame s t ∧ SameRegs (t.warp x.c x.w) x.k
    ∧ (∀ r ∈ x.k.destRegs d 1, (t.warp x.c x.w).locked r = true)
    ∧ ∃ op, FMap.get? t.loads s.nextId = some op ∧ op.kind = kind ∧ op.regs = x.k.destRegs d 1 ∧ op.dslot = x.k.dslot
        ∧ op.acq = .pk ∧ op.lands = 0 ∧ (if kind = 5 then DueLate t x.clock (.launchRecordRead s.nextId) else Due t x.clock (.nmRecordRead s.nextId))
        ∧ match pa with
          | none => op.accs = [] ∧ op.nrm = BitVec.ofNat 64 (2 ^ 32)
          | some a => op.accs.map (·.pa) = (List.range 8).map (a + 16 * ·) ∧ op.nrm = 0

/-- The check of a record's address, then its operation (R178, R390). -/
def RecordChecked (x : Ctx) (s t : State) (kind : Nat) (d a : Opd) : Prop :=
  let va := x.uni a
  if va.toNat % 128 ≠ 0 then Trapped t x cMisalign x.pc va
  else
    match s.translate x.c (s.dom x.c x.k.dslot) x.fr.walked va.toNat 0 with
    | .miss => WaitsForWalks t x
    | .fault cause _ => Trapped t x cause x.pc va
    | .zeros _ => RecordOut x s t kind d none
    | .ok pa _ _ =>
      if s.inReduce pa then Trapped t x cTranslation x.pc va
      else if s.isLost pa then Trapped t x cMachineCheck x.pc va
      else RecordOut x s t kind d (some pa)

/-- LAUNCH, CWAIT, FETCHWG (R178 to R180). -/
def workRule : Instr → Option Rule
  | .launch _ f => some fun x s t => RecordChecked x s t 5 f.d f.a
  | .cwait _ f => some fun x s t =>
      let kids := (s.wg x.c x.k.wg).kids
      let one := (x.uni f.a).toNat % 2 ^ 32
      let ids := if f.a.isZero then kids else [one]
      let ends (v : Nat) : Prop :=
        GoesOn t x (x.pc + 8) ∧ Acquired t x.c x.k.dslot ∧ MemSame s t ∧ ∀ n, f.d = .s n → Owes t x (.s n) (BitVec.ofNat 64 v)
      if f.a.isZero = false ∧ one ∉ kids then ends 2
      else if ∀ i ∈ ids, FMap.get? s.grids i = none then
        if ∃ i ∈ ids, FMap.get? s.retired i = some true then ends 1 else ends 0
      else
        (t.frag x.c x.w x.g).st = .parked (.cwait ids f.d) ∧ (t.frag x.c x.w x.g).pc = x.pc ∧ MemSame s t
          ∧ SameRegs (t.warp x.c x.w) x.k
  | .fetchwg _ f => some fun x s t =>
      let off := x.uni f.b
      let gid := (x.uni f.a).toNat % 2 ^ 32
      let me := s.wg x.c x.k.wg
      let lands (v : Nat) : Prop := ∀ n, f.d = .s n → Owes t x (.s n) (BitVec.ofNat 64 v)
      if off.toNat % 16 ≠ 0 then Trapped t x cMisalign x.pc off
      else if me.scratch < off.toNat + 16 then Trapped t x cDomain x.pc off
      else GoesOn t x (x.pc + 8) ∧ MemSame s t ∧ SameRegs (t.warp x.c x.w) x.k
        ∧ if 16 ≤ (s.core x.c).fetchOut then lands 1 ∧ t.grids = s.grids
          else lands 0 ∧ (t.core x.c).fetchOut = (s.core x.c).fetchOut + 1
            ∧ (∃ n, 8 ≤ n ∧ n ≤ 512 ∧ (2 * (x.clock + 1 + n), Instr.fetchwgMailboxWrite s.nextId) ∈ t.agenda)
            ∧ ∃ op, FMap.get? t.loads s.nextId = some op ∧ op.core = x.c ∧ op.wg = x.k.wg ∧ op.nrm = off
                ∧ let word (i : Nat) : Nat := ofBytes (op.got.read (4 * i) 4)
                  match FMap.get? s.grids gid with
                  | none => word 3 = 3 ∧ word 0 = 0 ∧ word 1 = 0 ∧ word 2 = 0
                  | some g =>
                    let gx := max 1 (g.rcd / 2 ^ 64 % 2 ^ 32)
                    let gy := max 1 (g.rcd / 2 ^ 96 % 2 ^ 32)
                    if g.did ≠ me.did then word 3 = 3 ∧ word 0 = 0 ∧ word 1 = 0 ∧ word 2 = 0 ∧ t.grids = s.grids
                    else if rTotal g.rcd ≤ g.next then word 3 = 2 ∧ word 0 = 0 ∧ word 1 = 0 ∧ word 2 = 0 ∧ t.grids = s.grids
                    else
                      word 3 = 1 ∧ word 0 = g.next % gx ∧ word 1 = g.next / gx % gy ∧ word 2 = g.next / gx / gy % 2 ^ 32
                        ∧ (g.id = gid → FMap.get? t.grids gid =
                            some { g with next := g.next + 1, withdrawn := g.next :: g.withdrawn })
  | _ => none

/-- The word of an operation's only destination, once it lands. -/
def WordLands (s : State) (op : LoadOp) (v : Nat) (t : State) : Prop :=
  FMap.get? t.loads op.id = none
    ∧ ∀ n, op.regs = [.s n] → (s.warp op.core op.slot).uid = op.uid →
        (t.warp op.core op.slot).getS n = BitVec.ofNat 64 v ∧ ∀ l ∈ (t.warp op.core op.slot).locks, l.owner ≠ op.id

/-- A word that the device writes, or adds, at a virtual address of a domain (R169, R304, R400, R448, R452): its page's walk is made
first; it is on its way to its home; or, where its page fails, is lost or lies in a window of reductions, nothing is written. -/
def WordGoes (s : State) (c : Nat) (d : Dom) (va : Nat) (b : List Byte) (add : Bool) (t : State) (walk sent skipped : Prop) : Prop :=
  match s.translateFor c d va 1 with
  | .miss => walk
  | .ok pa _ _ =>
    if (∃ w, s.wayOf pa = some w ∧ w.mr = true ∧ (add = true ∨ b.length % mrBytes w.etyp ≠ 0))
        ∨ (s.wayOf pa = none ∧ s.isLost pa = true) then skipped
    else sent ∧ ∃ f, FMap.get? t.fly s.nextId = some f ∧ f.performed = false ∧ f.pa = pa ∧ f.size = b.length ∧ f.code = 0
      ∧ f.kind = (if (s.wayOf pa).isSome then (if add then 12 else 11)
          else if s.region pa = 2 then (if add then 8 else 7) else 14)
      ∧ (add = false → f.bytes = (List.range b.length).zip b)
      ∧ (add = true → ∃ a, f.accs = [a] ∧ a.pa = pa ∧ a.data = b)
  | _ => skipped

/-- LAUNCH's status of R178: its checks in their order. -/
def LaunchStatus (s : State) (op : LoadOp) (rcd st : Nat) : Prop :=
  let did := s.dsDid op.core op.dslot
  let part := if op.dslot = 0 then 64 else s.dsPart op.core op.dslot
  let depth := ((FMap.get? s.grids (s.wg op.core op.wg).grid).map (·.depth)).getD 0
  if op.nrm ≠ 0 ∨ op.failed ≠ [] ∨ recordBad rcd = true then st = 4
  else if 10 ≤ depth then st = 2
  else if rcd.testBit 217 = true ∧ s.fitsWhole did part rcd = false then st = 3
  else if s.queueEntry did (depth + 1) = none then st = 1
  else st = 0

/-- The device's own steps of launching, placing and retiring. -/
def workStepRule : Instr → Option StepRule
  | .launchRecordRead id => some fun s t =>
      match FMap.get? s.loads id with
      | none => t = s
      | some op => op.id = id →
        if op.left = 0 then
          let rcd := ofBytes (op.got.read 0 128)
          ∃ st, LaunchStatus s op rcd st
            ∧ (st ≠ 0 → WordLands s op st t ∧ t.grids = s.grids)
            ∧ (st = 0 → WordLands s op (s.nextLaunch % 2 ^ 32 * 2 ^ 32) t
                ∧ t.nextLaunch = (s.nextLaunch + 1) % 2 ^ 32
                ∧ ∃ g, FMap.get? t.grids s.nextLaunch = some g ∧ g.rcd = rcd ∧ g.did = s.dsDid op.core op.dslot ∧ g.next = 0
                    ∧ g.exited = 0 ∧ g.depth = ((FMap.get? s.grids (s.wg op.core op.wg).grid).map (·.depth)).getD 0 + 1)
        else if op.lands ≠ 0 then t = s
        else if s.recordWaits op = true then
          MemSame s t ∧ t.loads = s.loads ∧ (s.performsNow op = true → DueLate t s.clock (.launchRecordRead id))
            ∧ (s.performsNow op = false → DueLate t (s.clock + 1) (.launchRecordRead id))
        else
          MemSame s t ∧ match op.accs with
            | [] => Due t (s.clock + 32) (.launchRecordRead id) ∧ FMap.get? t.loads id = some { op with left := 0 }
            | a :: _ => ∃ f, FMap.get? t.fly s.nextId = some f ∧ f.pa = a.pa ∧ f.size = 128 ∧ f.op = id ∧ f.performed = false
                ∧ f.kind = if op.kind = 5 ∧ (s.wayOf a.pa).isSome then 10 else if s.region a.pa = 2 then 6 else 0
  | .fetchwgMailboxWrite id => some fun s t =>
      match FMap.get? s.loads id with
      | none => t = s
      | some op =>
        let a := (s.wg op.core op.wg).rowBase * 1024 + op.nrm.toNat
        FMap.get? t.loads id = none ∧ t.mem = s.mem ∧ (t.core op.core).fetchOut = (s.core op.core).fetchOut - 1
          ∧ if (FMap.get? (s.core op.core).wgs op.wg).isNone then (t.core op.core).scratch = (s.core op.core).scratch
            else (t.core op.core).scratch.read a 16 = op.got.read 0 16
              ∧ ∀ b, b < a ∨ a + 16 ≤ b → (t.core op.core).scratch.get b = (s.core op.core).scratch.get b
  | .dependenceRead id => some fun s t =>
      match FMap.get? s.grids id with
      | none => t = s
      | some g => g.id = id →
        if (g.dep0 = true ∧ g.dep1 = true) ∨ rTotal g.rcd ≤ g.next then t = s
        else
          let r0 := if g.dep0 then (.ok (rDepVal g.rcd 0), s) else s.domGet g.did g.part (rDepAddr g.rcd 0) 8
          let r1 := if g.dep1 then (.ok (rDepVal g.rcd 1), r0.2) else r0.2.domGet g.did g.part (rDepAddr g.rcd 1) 8
          let again : Prop := t.grids = s.grids ∧ ∃ n, s.clock < n ∧ Due t n (.dependenceRead id)
          ∃ h, FMap.get? t.grids id = some h ∧ h.rcd = g.rcd ∧ match r0.1, r1.1 with
            | .ok a, .ok b =>
              h.dep0 = decide (rDepVal g.rcd 0 ≤ a) ∧ h.dep1 = decide (rDepVal g.rcd 1 ≤ b) ∧ h.ended = g.ended
                ∧ (h.dep0 = true ∧ h.dep1 = true → h.readyAt = s.clock ∧ ∃ u, (u, Instr.workgroupPlacement g.part) ∈ t.agenda)
                ∧ (h.dep0 = false ∨ h.dep1 = false →
                  ∃ n, 1 ≤ n ∧ n ≤ 4096 ∧ Due t (s.clock + n) (.dependenceRead id))
            | .fail, _ => h.ended = true ∧ h.next = rTotal g.rcd ∧ Due t s.clock (.gridRetire id)
            | _, .fail => h.ended = true ∧ h.next = rTotal g.rcd ∧ Due t s.clock (.gridRetire id)
            | .wait _, _ => again
            | _, .wait _ => again
  | .workgroupPlacement p => some fun s t =>
      if s.lastPlaceAny = s.clock ∧ s.clock ≠ 0 then
        t.cores = s.cores ∧ t.grids = s.grids ∧ Due t (s.clock + 1) (.workgroupPlacement p)
      else if s.clock < (s.part p).lastPlace + 4 ∧ (s.part p).lastPlace ≠ 0 then
        t.cores = s.cores ∧ t.grids = s.grids ∧ Due t ((s.part p).lastPlace + 4) (.workgroupPlacement p)
      else if s.returning p then t.cores = s.cores ∧ t.grids = s.grids ∧ Due t (s.clock + 1) (.workgroupPlacement p)
      else
        match s.arbiterOrder p with
        | [] => t = s
        | g :: _ =>
          (g.next = 0 → s.fitsEver g.did p g.rcd = false → t.cores = s.cores
              ∧ ∃ h, FMap.get? t.grids g.id = some h ∧ h.ended = true ∧ h.next = rTotal g.rcd ∧ Due t s.clock (.gridRetire g.id))
            ∧ (g.next ≠ 0 ∨ s.fitsEver g.did p g.rcd = true → g.rcd.testBit 217 = false → ∀ k ms, s.chooseStack g = some (k, ms) →
                t.mem = s.mem ∧ t.lastPlaceAny = s.clock ∧ (t.part p).lastPlace = s.clock
                  ∧ (∃ h, FMap.get? t.grids g.id = some h ∧ h.next = g.next + ms.length ∧ h.rcd = g.rcd)
                  ∧ ∀ m ∈ ms, ∃ key w, FMap.get? (t.core m.2.1).wgs key = some w ∧ w.grid = g.id ∧ w.lin = m.1
                      ∧ w.did = g.did ∧ w.slot = m.2.2.1 ∧ w.rowBase = m.2.2.2 ∧ w.warps = rWarps g.rcd)
  | .gridRetire id => some fun s t =>
      match FMap.get? s.grids id with
      | none => t = s
      | some g =>
        if g.exited < rTotal g.rcd ∨ g.nmOut ≠ 0 ∨ ∃ h ∈ s.grids, h.2.parent.map (·.1) = some id then t = s
        else g.id = id →
          let retires (missed : Nat) : Prop :=
            FMap.get? t.grids id = none ∧ FMap.get? t.retired id = some g.ended
              ∧ (∀ f, g.fn = some f → (t.func f).retired = (s.func f).retired + 1 ∧ (t.func f).msix = (s.func f).msix + 1)
              ∧ (missed = 1 → FMap.getD t.counters (0x707 * 2 ^ 20) 0
                  = min (FMap.getD s.counters (0x707 * 2 ^ 20) 0 + 1) (2 ^ 64 - 1))
          let waits : Prop := MemSame s t ∧ (∀ f, (t.func f).retired = (s.func f).retired) ∧ Due t (s.clock + 1) (.gridRetire id)
          match g.done with
          | some a => if s.underWay a = true then waits ∧ t.grids = s.grids else retires 0
          | none =>
            if rDone g.rcd = 0 then retires 0
            else
              match s.domCore g.did g.part with
              | none => retires 1
              | some (c, k) =>
                WordGoes s c (s.dom c k) (rDone g.rcd) (toBytes 8 1) true t (waits ∧ t.grids = s.grids)
                  (waits ∧ FMap.get? t.grids id = some { g with done := some s.nextId }) (retires 1)
  | .cwaitWorkgroupPark c k => some fun s t =>
      if FMap.get? (s.core c).wgs k = none ∨ ∀ w ∈ s.warpsOf c k, ∀ f ∈ w.2.frags, f.2.inCwait = false then t = s
      else if s.allCwait c k = false ∨ s.dsCtx c (s.wg c k).slot = 0 ∨ ∃ w ∈ s.warpsOf c k, w.2.stopped = true then
        MemSame s t ∧ t.cores = s.cores ∧ Due t (s.clock + 1) (.cwaitWorkgroupPark c k)
      else
        Due t s.clock (.contextSave s.nextId)
          ∧ ∃ p, FMap.get? t.preempts s.nextId = some p ∧ p.kind = 3 ∧ p.todo = s.groupOf c k ∧ p.did = (s.wg c k).did
  | _ => none

/-- A request of the system domain has its answer: its destination holds it and is free (R41, R328 to R335). -/
def Answered (s : State) (req v : Nat) (t : State) : Prop :=
  ∀ r, FMap.get? s.reqs req = some r →
    FMap.get? t.reqs req = none
      ∧ ∀ n, r.d = .s n → (s.warp r.core r.slot).uid = r.uid →
          (t.warp r.core r.slot).getS n.toNat = BitVec.ofNat 64 v ∧ ∀ l ∈ (t.warp r.core r.slot).locks, l.owner ≠ req

/-- Saving, restoring, kicks and turns of functions (R179, R332 to R335, R378, R385, R411, R418, R428 to R430, R445). -/
def contextStepRule : Instr → Option StepRule
  | .contextSave job => some fun s t =>
      match FMap.get? s.preempts job with
      | none => t = s
      | some p => p.id = job →
        (FMap.get? t.preempts job = none ∨ Due t (s.clock + 1) (.contextSave job))
          ∧ (p.stops = [] → p.todo = [] → p.kind = 0 →
              Answered s p.req ((if p.found = false then 1 else if p.full then 2 else 0) + p.saved * 2 ^ 16) t)
          ∧ ∀ c k a n, p.stops = [] → p.todo = [(c, k)] → p.kind = 1 → p.named = (c, k) → s.groupOf c k = [(c, k)] →
              (FMap.get? (s.core c).wgs k).isSome → s.quietWg c k = true → (s.core c).pendingRecs = [] →
              s.savePlaces [(c, k)] [] = some [(c, k, a, n)] →
              (∀ r, FMap.get? s.reqs p.req = some r → (s.warp r.core r.slot).handler = none) →
                FMap.get? (t.core c).wgs k = none ∧ FMap.get? t.preempts job = none
                  ∧ (∀ i b, (s.recordBytes c k 0)[i]? = some b → t.mem.get (a + i) = b)
  | .cwaitWorkgroupRestore id => some fun s t =>
      match FMap.get? s.restores id with
      | some r =>
        FMap.get? t.restores id = none
          ∧ (∀ st e, ({ s with restores := FMap.drop s.restores id } : State).restorePlan r.addr r.core r.stack r.any = .error (st, e) →
              Answered s r.req st t ∧ ∀ c, (t.core c).wgs = (s.core c).wgs)
          ∧ ∀ a c k row, ({ s with restores := FMap.drop s.restores id } : State).restorePlan r.addr r.core r.stack r.any = .ok [(a, c, k, row)] →
              (∀ q ∈ t.ctxRecs, q.addr ≠ a)
                ∧ ((∀ q, FMap.get? s.reqs r.req = some q → q.d = .zero) → t.mem.get a = 2)
      | none =>
        match FMap.get? s.parkedWgs id with
        | none => t = s
        | some p =>
          if s.cwaitStatus p.kids = none then t = s
          else FMap.get? t.parkedWgs p.id = none ∨ Due t (s.clock + 1) (.cwaitWorkgroupRestore p.id)
  | .kick fn off size v => some fun s t =>
      let good : Prop := off < 4096 ∧ off % 64 = 0 ∧ size = 8 ∧ v.toNat % 128 = 0 ∧ v.toNat / 2 ^ 57 = 0 ∧ s.fnOpen fn = true
        ∧ FMap.get? (s.func fn).slots (off / 64) = none
      if 512 < fn then t = s
      else
        t.grids = s.grids ∧ MemSame s t
          ∧ (good → FMap.get? (t.func fn).slots (off / 64) = some v
              ∧ (s.fnRuns fn = true → Due t s.clock (.kickTaken fn (off / 64)) ∧ (t.func fn).pend = (s.func fn).pend)
              ∧ (s.fnRuns fn = false → (t.func fn).pend.getLsbD (off / 64) = true ∧ Due t s.clock .vfTurnEnd))
          ∧ (¬good → t.funcs = s.funcs ∧ FMap.getD t.counters (0x706 * 2 ^ 20) 0
                = min (FMap.getD s.counters (0x706 * 2 ^ 20) 0 + 1) (2 ^ 64 - 1))
  | .kickTaken fn slot => some fun s t =>
      match (s.func fn).slots with
      | [] => t = s
      | (low, va) :: more =>
        if s.fnRuns fn = false ∨ s.queueEntry (s.fnDid fn) 0 ≠ some 0 then t = s
        else
          let taken : Prop := (t.func fn).slots = more
            ∧ (t.func fn).pend = (s.func fn).pend &&& ~~~(BitVec.ofNat 64 (2 ^ low))
            ∧ (more ≠ [] → Due t (s.clock + 1) (.kickTaken fn slot))
          let counted : Prop := t.grids = s.grids ∧ t.nextLaunch = s.nextLaunch
            ∧ FMap.getD t.counters (0x706 * 2 ^ 20) 0 = min (FMap.getD s.counters (0x706 * 2 ^ 20) 0 + 1) (2 ^ 64 - 1)
          match (s.domGet (s.fnDid fn) (s.fnPart fn) va.toNat 128).1 with
          | .wait _ => t.funcs = s.funcs ∧ t.grids = s.grids ∧ ∃ n, s.clock < n ∧ Due t n (.kickTaken fn slot)
          | .fail => taken ∧ counted
          | .ok rcd =>
            taken ∧ if recordBad rcd = true then counted
              else ∃ g, FMap.get? t.grids s.nextLaunch = some g ∧ g.rcd = rcd ∧ g.did = s.fnDid fn ∧ g.part = s.fnPart fn
                ∧ g.fn = some fn ∧ g.depth = 0 ∧ g.pool = 0 ∧ g.next = 0
  | .vfTurnEnd => some fun s t =>
      (∀ f, (s.func f).saved = []) → ∀ p < 48,
        (s.sliced p = [] → (t.part p).running = none ∧ (t.part p).after = none)
          ∧ (s.sliced p ≠ [] → (∀ j ∈ s.preempts, j.2.kind = 2 → j.2.part ≠ p) →
              ((s.part p).running = none → (s.part p).after = none → ∃ f ∈ s.sliced p, (t.part p).running = some f
                  ∧ (t.part p).turnEnd = s.clock + (s.sysReg 0x402 f).toNat)
                ∧ ∀ f ∈ s.sliced p, (s.part p).after = none → (s.part p).running = some f → s.clock < (s.part p).turnEnd →
                    (t.part p).running = some f)
  | .functionLevelReset fn => some fun s t =>
      if 512 ≤ fn then t = s
      else t.sysReg 0x400 fn = s.sysReg 0x400 fn &&& 0x7FFFFFFFFFFFFFFF ∧ (t.func fn).slots = [] ∧ (t.func fn).saved = []
        ∧ (t.func fn).pend = 0 ∧ Due t s.clock .vfTurnEnd
        ∧ ∀ id g, s.grids = [(id, g)] → g.id = id → g.did = s.fnDid fn →
            (∀ c ∈ s.cores, c.2.wgs = []) → s.ctxRecs = [] → ∃ h, FMap.get? t.grids id = some h ∧ h.ended = true
  | _ => none

/-! Copies (R272 to R286, R322, R351, R356, R396 to R398). -/

/-- A register's result is on its way and interlocked (R41). -/
def OwesReg (t : State) (x : Ctx) (r : Reg) (mask : U32) (lat : Nat) (good : Pend → Prop) : Prop :=
  Flies t x r mask lat good ∧ (t.warp x.c x.w).locked r = true

/-- Checks in order: the first that holds traps at the instruction, with its cause and address; with none, what follows is so
(R272). -/
def Checks (x : Ctx) (t : State) (good : Prop) : List (Prop × Nat × Nat) → Prop
  | [] => good
  | c :: r => (c.1 → Trapped t x c.2.1 x.pc (BitVec.ofNat 64 c.2.2)) ∧ (¬c.1 → Checks x t good r)

/-- A named tile is valid; its range lies in the allocation (R272). -/
def notValid (t : TReg) : Prop × Nat × Nat := (t.valid = false, cIllop, 1)
def notPlaced (x : Ctx) (s : State) (t : TReg) : Prop × Nat × Nat :=
  ((s.wg x.c x.k.wg).scratch < t.ending (x.k.fOf t.fmt.toNat), cDomain, t.base.toNat)

/-- Two type codes name one format: narrow ones by the values of their F registers (R272). -/
def OneFormat (x : Ctx) (a b : Nat) : Prop := if 16 ≤ a ∧ 16 ≤ b then x.k.fOf a = x.k.fOf b else a = b

/-- What R274 asks of a record with elements of eb bits and a first coordinate. -/
def RecordLegal (r eb : Nat) (x0 : Int) : Prop :=
  let size := max 1 (eb / 8)
  let grain : Nat := if eb = 4 then 2 else if eb = 6 then 4 else 1
  rRank r ≠ 0 ∧ ((1 ≤ rFmt r ∧ rFmt r ≤ 12) ∨ (16 ≤ rFmt r ∧ rFmt r ≤ 23))
    ∧ fld r 3 5 = 0 ∧ fld r 15 1 = 0 ∧ fld r 48 16 = 0 ∧ fld r 121 7 = 0 ∧ fld r 905 119 = 0
    ∧ (∀ d < 7, (rDim r d ≠ 0 ↔ d < rRank r) ∧ (rBox r d ≠ 0 ↔ d < rRank r))
    ∧ (∀ d < 7, 1 ≤ d → (rRank r ≤ d → rStride r d = 0) ∧ rStride r d ≤ 2 ^ 56 ∧ rStride r d % size = 0)
    ∧ rBase r % size = 0 ∧ rDim r 0 % grain = 0 ∧ rBox r 0 % grain = 0 ∧ x0 % (grain : Int) = 0

/-- The S register's low half as a coordinate (R275). -/
def Ctx.coord (x : Ctx) (n : Nat) : Int := sextN 32 (fld (x.k.getS n).toNat 0 32)

/-- A tile's pitch or base is no multiple of the permutation's segment (R276). -/
def offSegment (r : Nat) (t : TReg) : Prop × Nat × Nat :=
  (rPerm r ≠ 0 ∧ (t.pitch.toNat % 2 ^ (8 - rPerm r) ≠ 0 ∨ t.base.toNat % 2 ^ (8 - rPerm r) ≠ 0), cIllop, 0x0F)

/-- The lowest X register bound to a tile, and how many its scales need (R277). -/
def Ctx.boundX (x : Ctx) (ti : Nat) : Option Nat :=
  (List.range 8).find? fun j => (x.k.getX j).bnd && (x.k.getX j).tix.toNat == ti
def scalesOf (t : TReg) (blk : Nat) : Nat := t.rows.toNat * t.cols.toNat / blk
def xsOf (t : TReg) (blk : Nat) : Nat := (scalesOf t blk + 1023) / 1024

/-- The graft of a tile is stale in one of its X registers, the first of them told: not bound to it, or not tagged with its
generation (R277, R280, R288). -/
def staleAt (x : Ctx) (ti : Nat) (tagged : Bool) (j n : Nat) : List (Prop × Nat × Nat) :=
  (List.range n).map fun i =>
    let xr := x.k.getX (j + i)
    (xr.bnd = false ∨ xr.tix.toNat ≠ ti ∨ (tagged = true ∧ xr.tag ≠ (x.k.getT ti).gen), cStaleGraft, ti + 16 * (j + i))

/-- An X register's scale format or block size is not the narrow format's (R272). -/
def wrongScales (x : Ctx) (fv : U32) (j n : Nat) : Prop × Nat × Nat :=
  (∃ i < n, (x.k.getX (j + i)).sfmt ≠ (NFmt.of fv).e4m3 ∨ (x.k.getX (j + i)).blk ≠ (NFmt.of fv).blk32, cIllop, 0x0E)

/-- The checks of TLOAD and TSTORE after the record's address, in the order of R279. -/
def tensorChecks (x : Ctx) (s : State) (f : FmtE) (store : Bool) (r : Nat) : List (Prop × Nat × Nat) :=
  let ti := tNo f.b
  let t := x.k.getT ti
  let fv := x.k.fOf (rFmt r)
  let blk := (NFmt.of fv).blk
  let j := (x.boundX ti).getD 0
  let n := xsOf t blk
  [(¬RecordLegal r (eBits (rFmt r) fv) (x.coord (sNo f.c)), cIllop, 4), (63 < sNo f.c + rRank r - 1, cIllop, 0x0C),
    notValid t, notPlaced x s t, (¬OneFormat x t.fmt.toNat (rFmt r), cIllop, 3),
    (t.rows.toNat ≠ ((List.range (rRank r - 1)).map fun d => rBox r (d + 1)).prod ∨ t.cols.toNat ≠ rBox r 0, cIllop, 2),
    offSegment r t]
    ++ if f.e.getLsbD 0 then
      [(rFmt r < 16 ∨ rSbase r = 0 ∨ rBox r 0 % blk ≠ 0 ∨ x.coord (sNo f.c) % (blk : Int) ≠ 0 ∨ rDim r 0 % blk ≠ 0, cIllop, 5),
        (8192 < scalesOf t blk ∨ ((x.boundX ti).isSome ∧ 7 < j + n - 1), cIllop, 6),
        (x.boundX ti = none, cStaleGraft, ti + 16 * 15)] ++ staleAt x ti store j n ++ [wrongScales x fv j n]
    else []

/-- The checks of TGATHER and TSCATTER, in the order of R281; the tile's validity before the list's place is log 26. -/
def gatherChecks (x : Ctx) (s : State) (f : FmtE) (r : Nat) : List (Prop × Nat × Nat) :=
  let t := x.k.getT (tNo f.b)
  let c := sNo f.c
  let off := fld (x.k.getS c).toNat 0 32
  [(¬RecordLegal r (eBits (rFmt r) (x.k.fOf (rFmt r))) (if c = 63 then 0 else x.coord (c + 1)) ∨ rRank r ≠ 2, cIllop, 4),
    (off % 4 ≠ 0, cMisalign, off), notValid t, ((s.wg x.c x.k.wg).scratch < off + 4 * t.rows.toNat, cDomain, off),
    (c = 63, cIllop, 0x0C), notPlaced x s t, (¬OneFormat x t.fmt.toNat (rFmt r), cIllop, 3),
    (t.cols.toNat ≠ rBox r 0, cIllop, 2), offSegment r t]

/-- The terms of a promise (R396): lines by their homes, each looked up for a need, scratchpad rows, and the latency of a copy that
touches no memory. -/
def CostIs (s : State) (x : Ctx) (need : Nat → Nat) (line row : Nat → Prop) (bare : Nat) (k : Cost) : Prop :=
  ∀ ls rs : List Nat, ls.Nodup → (∀ l, l ∈ ls ↔ line l) → rs.Nodup → (∀ r, r ∈ rs ↔ row r) →
    let home (l : Nat) : Nat × Nat × Bool := s.lineHome x (need l) l
    let count (n : Nat) : Nat := (ls.filter fun l => (home l).1 == n).length
    let far (j : Nat) : Nat := if j = stackOf x.c then 0 else 2 * (20 + 12 * s.ringWay (stackOf x.c) j)
    let lat (l : Nat) : Nat :=
      if (home l).1 = 0 then 320 + far (home l).2.1 else if (home l).1 = 1 then 90 + far (home l).2.1 else 1600
    let a (l : Nat) : Nat := match s.level (home l).2.1 with
      | 0 => 128
      | 1 | 2 => 256
      | 3 => 512
      | _ => 65536
    k.t = max rs.length (count 0 + (count 1 + 7) / 8 + 8 * count 2)
      ∧ (∀ l ∈ ls, (home l).1 ≤ 2 → lat l ≤ k.lat)
      ∧ ((∃ l ∈ ls, (home l).1 ≤ 2 ∧ k.lat = lat l) ∨ ((∀ l ∈ ls, 2 < (home l).1) ∧ k.lat = bare))
      ∧ (∀ l ∈ ls, (home l).1 = 0 → a l ≤ k.f)
      ∧ ((∃ l ∈ ls, (home l).1 = 0 ∧ k.f = a l) ∨ ((∀ l ∈ ls, (home l).1 ≠ 0) ∧ k.f = 0))
      ∧ (k.cached = true ↔ ∀ l ∈ ls, (home l).2.2 = true)

/-- The lines and the scratchpad rows that some bytes lie in. -/
def LinesOf (l : List Run) (n : Nat) : Prop :=
  ∃ r ∈ l, 0 < r.n ∧ canonOr r.addr / 128 ≤ n ∧ n ≤ (canonOr r.addr + r.n - 1) / 128
def RowsOf (l : List (Nat × Nat)) (n : Nat) : Prop := ∃ p ∈ l, p.1 < p.2 ∧ p.1 / 1024 ≤ n ∧ n ≤ (p.2 - 1) / 1024

/-- The bytes of the rows of a tile in the core's scratchpad. -/
def rowBytesAt (x : Ctx) (s : State) (t : TReg) (n : Nat) : List (Nat × Nat) :=
  (List.range n).map fun r =>
    let at_ := (s.wg x.c x.k.wg).first + t.base.toNat + r * t.pitch.toNat
    (at_, at_ + t.rowBytes (x.k.fOf t.fmt.toNat))
/-- Those of them that a store's runs name. -/
def runBytesAt (x : Ctx) (s : State) (t : TReg) (l : List Run) : List (Nat × Nat) :=
  l.map fun r =>
    let at_ := (s.wg x.c x.k.wg).first + t.base.toNat + r.row * t.pitch.toNat + r.at_
    (at_, at_ + r.n)

/-- A copy is registered: its ticket, its promise by its cost (R396), its range locks, the captured operation in the queue; d takes
ticket and promise after 2 cycles; an operation without ranges is complete at once. -/
def CopyOut (x : Ctx) (s t : State) (d : Opd) (kind : Nat) (rng : List RangeLock) (cost : Cost → Prop) (op : EOp → Prop) : Prop :=
  let co := s.core x.c
  let ticket := if co.nextTicket = 0xFFFF then 1 else co.nextTicket + 1
  let first := (co.ops.filter fun e => e.isCopy && e.rng.any fun p => rng.any p.clash).foldl (fun m e => max m e.promise) (x.clock + 8)
  let locks := rng.filter fun r => decide (r.space < 100)
  ∃ k, cost k ∧
    let promise := if locks = [] then x.clock else max first co.hz + k.t + k.lat + k.f
    GoesOn t x (x.pc + 8) ∧ MemSame s t ∧ SameButGenerations (t.warp x.c x.w) x.k
      ∧ (t.core x.c).nextTicket = ticket
      ∧ (t.core x.c).hz = (if locks = [] then co.hz else max first co.hz + k.t)
      ∧ (∃ r ∈ (t.core x.c).tickets, r.id = ticket ∧ r.wg = x.k.wg ∧ r.promise = promise
          ∧ r.state = if locks = [] then 1 else 0)
      ∧ (t.core x.c).rlocks = co.rlocks ++ (locks.map fun r => { r with op := s.nextId })
      ∧ (locks = [] → (t.core x.c).ops = co.ops)
      ∧ (locks ≠ [] → Due t (x.clock + 8) (.copyStart x.c s.nextId) ∧ ∃ e, (t.core x.c).ops = co.ops ++ [e]
          ∧ e.id = s.nextId ∧ e.kind = kind ∧ e.ticket = ticket ∧ e.promise = promise ∧ e.started = false ∧ e.issued = x.clock
          ∧ e.wg = x.k.wg ∧ e.dslot = x.k.dslot ∧ op e)
      ∧ ∀ n, d = .s n → OwesReg t x (.s n.toNat) (BitVec.allOnes 32) 2 fun p =>
          p.uni = BitVec.ofNat 64 (ticket * 2 ^ 48 + promise % 2 ^ 48)

/-- A record is read at the issue: its address is checked first; what its words then ask for follows. A peer's words are free
(R273, R274, log 22). -/
def WithRecord (x : Ctx) (s t : State) (a : Opd) (good : Nat → Prop) : Prop :=
  let va := x.uni a
  if va.toNat % 128 ≠ 0 then Trapped t x cMisalign x.pc va
  else
    match s.translate x.c (s.dom x.c x.k.dslot) x.fr.walked va.toNat 0 with
    | .miss => WaitsForWalks t x
    | .fault cause _ => Trapped t x cause x.pc va
    | .zeros _ => Trapped t x cIllop x.pc 4 ∧ (t.warp x.c x.w).nrm.getLsbD 32 = true
    | .ok pa _ _ =>
      if s.inReduce pa = true then Trapped t x cTranslation x.pc va
      else if s.isLost pa = true then Trapped t x cMachineCheck x.pc va
      else ∃ r, (s.wayOf pa = none → r = s.physRead pa 128) ∧ good r

/-- TLOAD and TSTORE at their issue. -/
def TensorIssue (x : Ctx) (s t : State) (f : FmtE) (store : Bool) : Prop :=
  WithRecord x s t f.a fun r =>
    let ti := tNo f.b
    let tile := x.k.getT ti
    let fv := x.k.fOf tile.fmt.toNat
    let nf := NFmt.of (x.k.fOf (rFmt r))
    let split := f.e.getLsbD 0
    let xs := (List.range 7).map fun d => x.coord (sNo f.c + d)
    let rows := (List.range tile.rows.toNat).map (boxRow r xs nf.blk)
    let data := dataRuns r (x.coord (sNo f.c)) (eBits (rFmt r) (x.k.fOf (rFmt r))) rows
    let scales := if split then scaleRuns r (x.coord (sNo f.c)) nf.blk rows else []
    let j := (x.boundX ti).getD 0
    let n := xsOf tile nf.blk
    let sp := if f.e.getLsbD 1 then 3 else 0
    Checks x t
      (CopyOut x s t f.d (if store then 1 else 0)
        (x.globalRange s sp store (boundOf data) ++ x.globalRange s sp store (boundOf scales)
          ++ (if store = true ∧ data = [] then [] else [x.range s 1 tile.base.toNat (permEnd tile fv (rPerm r)) (!store)])
          ++ if split then [x.xRange j n (!store)] else [])
        (CostIs s x (fun _ => if store then 1 else 0) (LinesOf (data ++ scales))
          (RowsOf (if store then runBytesAt x s tile data else rowBytesAt x s tile tile.rows.toNat)) 24)
        fun e => e.rcd = r ∧ e.tb = tile ∧ e.fb = fv ∧ e.flag = split ∧ e.sp = sp
          ∧ e.svals = x.uni f.a :: (List.range (rRank r)).map (fun d => x.k.getS (sNo f.c + d))
          ∧ e.xs = (if split = true ∧ store = true then (List.range n).map (fun i => (j + i, (x.k.getX (j + i)).bytes)) else [])
          ∧ e.xw = if split = true ∧ store = false then (List.range n).map (j + ·) else [])
      (tensorChecks x s f store r)

/-- TGATHER and TSCATTER at their issue. -/
def GatherIssue (x : Ctx) (s t : State) (f : FmtE) (store : Bool) : Prop :=
  WithRecord x s t f.a fun r =>
    let tile := x.k.getT (tNo f.b)
    let c := sNo f.c
    let fv := x.k.fOf tile.fmt.toNat
    let off := fld (x.k.getS c).toNat 0 32
    let n := tile.rows.toNat
    let first := (s.wg x.c x.k.wg).first
    let rows := (indexList (s.spRd x.c (first + off) (4 * n)) n).map fun (k : Int) =>
      if 0 ≤ k ∧ k < (rDim r 1 : Int) then some ((rBase r : Int) + k * (rStride r 1 : Int), (0 : Int)) else none
    let data := dataRuns r (x.coord (c + 1)) (eBits (rFmt r) (x.k.fOf (rFmt r))) rows
    let sp := if f.e.getLsbD 1 then 3 else 0
    Checks x t
      (CopyOut x s t f.d (if store then 3 else 2)
        (x.globalRange s sp store (boundOf data)
          ++ [x.range s 1 off (off + 4 * n) false, x.range s 1 tile.base.toNat (permEnd tile fv (rPerm r)) (!store)])
        (CostIs s x (fun _ => if store then 1 else 0) (LinesOf data)
          (RowsOf ((first + off, first + off + 4 * n)
            :: if store then runBytesAt x s tile data else rowBytesAt x s tile n)) 24)
        fun e => e.rcd = r ∧ e.tb = tile ∧ e.fb = fv ∧ e.sp = sp ∧ e.svals = [x.uni f.a, x.k.getS c, x.k.getS (c + 1)])
      (gatherChecks x s f r)

/-- The runs behind a box (R275): a tile row is a tensor row where all its coordinates but the first are in bounds, and of its
columns those that are. -/
def BoxesMapToRuns : Prop :=
  ∀ (r : Nat) (xs : List Int) (blk eb : Nat) (rows : List (Option (Int × Int))) (row : Nat),
    (let i (d : Nat) : Nat := row / ((List.range (d - 1)).map fun e => rBox r (e + 1)).prod % rBox r d
     let inside : Prop := ∀ d, 1 ≤ d → d < rRank r → 0 ≤ xs.getD d 0 + (i d : Int) ∧ xs.getD d 0 + (i d : Int) < (rDim r d : Int)
     (inside → ∃ q, boxRow r xs blk row = some ((rBase r : Int)
        + ((List.range (rRank r - 1)).map fun d => (xs.getD (d + 1) 0 + (i (d + 1) : Int)) * (rStride r (d + 1) : Int)).sum, q))
      ∧ (¬inside → boxRow r xs blk row = none))
    ∧ ∀ x0 : Int, ∃ lo hi, lo ≤ hi
        ∧ (∀ col < rBox r 0, (lo ≤ col ∧ col < hi) ↔ (0 ≤ x0 + (col : Int) ∧ x0 + (col : Int) < (rDim r 0 : Int)))
        ∧ ∀ g : Run, g ∈ dataRuns r x0 eb rows ↔ lo < hi ∧ ∃ a q, rows[g.row]? = some (some (a, q)) ∧ g.at_ = lo * eb / 8
            ∧ g.addr = a + (x0 + (lo : Int)) * (eb : Int) / 8 ∧ g.n = (hi - lo) * eb / 8

/-- TLOAD, TSTORE, TGATHER, TSCATTER, TCOPY, TFILL, XQNT, TSTAT at their issue. -/
def copyRule : Instr → Option Rule
  | .tload _ f => some fun x s t => TensorIssue x s t f false
  | .tstore _ f => some fun x s t => TensorIssue x s t f true
  | .tgather _ f => some fun x s t => GatherIssue x s t f false
  | .tscatter _ f => some fun x s t => GatherIssue x s t f true
  | .tcopy _ f => some fun x s t =>
      let a := (x.uni f.a).toNat
      let b := (x.uni f.b).toNat
      let n := (x.uni f.c).toNat
      let size := (s.wg x.c x.k.wg).scratch
      let first := (s.wg x.c x.k.wg).first
      let src := f.e.toNat % 8
      let dst := f.e.toNat / 8 % 8
      let line (sp a l : Nat) : Prop := sp ≠ 1 ∧ n ≠ 0 ∧ a / 128 ≤ l ∧ l ≤ (a + n - 1) / 128
      Checks x t
        (CopyOut x s t f.d 4 (if n = 0 then [] else [x.range s src a (a + n) false, x.range s dst b (b + n) true])
          (fun k => ∃ need : Nat → Nat, (∀ l, (line src a l → need l = 0) ∧ (¬line src a l → need l = 1))
            ∧ CostIs s x need (fun l => line src a l ∨ line dst b l)
              (RowsOf ((if src = 1 then [(first + a, first + a + n)] else []) ++ if dst = 1 then [(first + b, first + b + n)] else []))
              24 k)
          fun e => e.svals = [x.uni f.a, x.uni f.b, x.uni f.c] ∧ e.sp = src ∧ e.sp2 = dst)
        [(a % 16 ≠ 0 ∨ b % 16 ≠ 0 ∨ n % 16 ≠ 0, cIllop, 0x0B), (src = 1 ∧ size < a + n, cDomain, a),
          (dst = 1 ∧ size < b + n, cDomain, b)]
  | .tfill _ f => some fun x s t =>
      let tile := x.k.getT (tNo f.b)
      let fv := x.k.fOf tile.fmt.toNat
      Checks x t
        (CopyOut x s t f.d 5 [x.range s 1 tile.base.toNat (permEnd tile fv 0) true]
          (CostIs s x (fun _ => 0) (fun _ => False) (RowsOf (rowBytesAt x s tile tile.rows.toNat)) 8)
          fun e => e.svals = [x.uni f.a] ∧ e.tb = tile ∧ e.fb = fv)
        [notValid tile, notPlaced x s tile]
  | .xqnt _ f => some fun x s t =>
      let ta := x.k.getT (tNo f.a)
      let tb := x.k.getT (tNo f.b)
      let fa := x.k.fOf ta.fmt.toNat
      let fb := x.k.fOf tb.fmt.toNat
      let blk := (NFmt.of fb).blk
      let n := xsOf tb blk
      let c := xNo f.c
      Checks x t
        (CopyOut x s t f.d 6 [x.range s 1 ta.lo ta.hi false, x.range s 1 tb.lo tb.hi true, x.xRange c n true]
          (fun k => k.lat = 24 ∧ k.f = 0 ∧ ∀ as bs : List Nat, as.Nodup → bs.Nodup →
            (∀ r, r ∈ as ↔ RowsOf (rowBytesAt x s ta ta.rows.toNat) r) → (∀ r, r ∈ bs ↔ RowsOf (rowBytesAt x s tb ta.rows.toNat) r) →
              k.t = max (as.length + bs.length) ((scalesOf tb blk + 31) / 32))
          fun e => e.ta = ta ∧ e.fa = fa ∧ e.tb = tb ∧ e.fb = fb ∧ e.tbi = tNo f.b ∧ e.rnd = rndOf (f.e.toNat % 8)
            ∧ e.xw = (List.range n).map (c + ·))
        [notValid ta, notValid tb,
          ((ta.fmt.toNat ≠ 9 ∧ ta.fmt.toNat ≠ 10 ∧ ta.fmt.toNat ≠ 11) ∨ tb.fmt.toNat < 16, cIllop, 3),
          (ta.rows ≠ tb.rows ∨ ta.cols ≠ tb.cols, cIllop, 2), (tb.cols.toNat % blk ≠ 0, cIllop, 5),
          (8192 < scalesOf tb blk ∨ 7 < c + n - 1, cIllop, 6), notPlaced x s ta, notPlaced x s tb]
  | .tstat _ f => some fun x s t =>
      let r := (s.core x.c).ticket? x.k.wg (x.uni f.a)
      let v := match r with
        | none => 3
        | some q => if q.state = 2 then 2 + 2 ^ 8 * q.cause else q.state
      GoesOn t x (x.pc + 8) ∧ MemSame s t ∧ (∀ n, f.d = .s n → Owes t x (.s n) (BitVec.ofNat 64 v))
        ∧ ∀ q ∈ (t.core x.c).tickets, q ∈ (s.core x.c).tickets ∧ (q.state = 1 → r ≠ some q)
  | _ => none

/-- A copy has ended: its operation and its ranges are gone, its record says how. -/
def CopyEnded (u t : State) (c : Nat) (o : EOp) (fail : Option CopyFail) : Prop :=
  (∀ e ∈ (t.core c).ops, e.id ≠ o.id) ∧ (∀ r ∈ (t.core c).rlocks, r.op ≠ o.id)
    ∧ (∀ r ∈ (t.core c).tickets, r.order = o.id → r.state ≠ 0)
    ∧ (∀ r ∈ (u.core c).tickets, r.order ≠ o.id → r ∈ (t.core c).tickets)
    ∧ ∀ r ∈ (u.core c).tickets, r.order = o.id → r.state = 0 →
        match fail with
        | none => { r with state := 1 } ∈ (t.core c).tickets
        | some f => { r with state := 2, cause := f.cause, addr := BitVec.ofNat 64 f.addr, pa := BitVec.ofNat 64 f.pa,
                             detail := BitVec.ofNat 64 f.detail } ∈ (t.core c).tickets

/-! What the parts of a copy do together (R276, R279 to R283, R322). -/

/-- The byte of a tile's row, permuted or not, in the core's scratchpad (R276). -/
def TileByte (s u : State) (c : Nat) (o : EOp) (tile : TReg) (perm row i : Nat) (b : Byte) : Prop :=
  (u.core c).scratch.get ((s.wg c o.wg).first + permOff perm row (tile.base.toNat + row * tile.pitch.toNat + i)) = b

/-- A byte of memory as a copy reads it for its domain: zero on a page that is not present and managed; of a peer it is free. -/
def MemByte (s : State) (c : Nat) (o : EOp) (va : Nat) (b : Byte) : Prop :=
  match s.translateFor c (s.dom c o.dslot) va 0 with
  | .zeros _ => b = 0
  | .ok pa _ _ => s.wayOf pa = none → b = if s.region pa = 2 then s.hostMem.get (pa - 2 ^ 44) else s.mem.get pa
  | _ => False

/-- A translation holds for the whole line of its address, as it does when pages are what caches hold. -/
def LinesWhole (s : State) (c : Nat) (d : Dom) (need : Nat) : Prop :=
  ∀ a k, a / 128 = (a + k) / 128 →
    match s.translateFor c d a need with
    | .ok pa t n => pa % 128 = a % 128 ∧ s.translateFor c d (a + k) need = .ok (pa + k) t n
    | r => s.translateFor c d (a + k) need = r

/-- The rows of a tile lie apart, on segments of the permutation. -/
def RowsApart (t : TReg) (fv : U32) (perm : Nat) : Prop :=
  t.rowBytes fv ≤ t.pitch.toNat ∧ t.pitch.toNat % permSeg perm = 0 ∧ t.base.toNat % permSeg perm = 0

/-- A load by runs: each row of the tile takes the bytes of its run, and the fill element where it has none. -/
def LoadsRuns (s : State) (c : Nat) (o : EOp) (eb n : Nat) (runs : List Run) : Prop :=
  let j := runParts (tensorTile (s.wg c o.wg).first c o eb n true runs) { s }
  j.fail = none → LinesWhole s c (s.dom c o.dslot) 0 → RowsApart o.tb o.fb (rPerm o.rcd) → eb = eBits o.tb.fmt.toNat o.fb →
    j.s.mem = s.mem ∧ j.s.hostMem = s.hostMem ∧
    ∀ row < n, ∀ i < o.tb.rowBytes o.fb, ∃ b, TileByte s j.s c o o.tb (rPerm o.rcd) row i b ∧
      let fill : Prop := b = (packRow eb (List.replicate o.tb.cols.toNat (rFill o.rcd % 2 ^ eb))).getD i 0
      match runs.find? (·.row == row) with
      | none => fill
      | some r =>
        if r.at_ ≤ i ∧ i < r.at_ + r.n then ∃ va, r.vaAt (i - r.at_) = some va ∧ MemByte s c o va b else fill

/-- A byte of a place of the package's memory or the host's. -/
def PhysByte (s u : State) (pa : Nat) : Byte := if s.region pa = 2 then u.hostMem.get (pa - 2 ^ 44) else u.mem.get pa

/-- A store by runs, their rows ascending: each byte that a run names, and no other, takes the tile's; where two meet the later one's
stands (R280, R281). -/
def StoresRuns (s : State) (c : Nat) (o : EOp) (eb n : Nat) (runs : List Run) : Prop :=
  let j := runParts (tensorTile (s.wg c o.wg).first c o eb n false runs) { s }
  let goes (r : Run) (q pa : Nat) : Prop :=
    q < r.n ∧ ∃ va t n, r.vaAt q = some va ∧ s.translateFor c (s.dom c o.dslot) va 1 = .ok pa t n ∧ s.wayOf pa = none
  j.fail = none → LinesWhole s c (s.dom c o.dslot) 1 → RowsApart o.tb o.fb (rPerm o.rcd) → s.migs = [] →
    (∀ r ∈ runs, r.at_ + r.n ≤ o.tb.rowBytes o.fb) → (runs.map (·.row)).Pairwise (· < ·) →
      (∀ d, (j.s.core d).scratch = (s.core d).scratch)
        ∧ (∀ r ∈ runs, ∀ q pa, goes r q pa → s.region pa ≤ 2 →
            (∀ r' ∈ runs, ∀ q', goes r' q' pa → r'.row < r.row ∨ (r'.row = r.row ∧ q' ≤ q)) →
            TileByte s s c o o.tb (rPerm o.rcd) r.row (r.at_ + q) (PhysByte s j.s pa))
        ∧ ∀ pa, s.region pa ≤ 2 → (∀ r ∈ runs, ∀ q, ¬goes r q pa) → PhysByte s j.s pa = PhysByte s s pa

/-- What XQNT writes: each row of codes, block by block at its own scale, and the scale codes (R83, R322). -/
def Quantises (s : State) (c : Nat) (o : EOp) : Prop :=
  let f := NFmt.of o.fb
  let cols := o.ta.cols.toNat
  let first := (s.wg c o.wg).first
  let j := runParts (s.xqntParts c o) { s }
  let vals (row : Nat) : List Exact :=
    (unpackRow (eBits o.ta.fmt.toNat o.fa) cols
      ((s.core c).scratch.read (first + o.ta.base.toNat + row * o.ta.pitch.toNat) (o.ta.rowBytes o.fa))).map (elemVal o.ta.fmt.toNat o.fa)
  let block (row q : Nat) : List Exact := ((vals row).drop (f.blk * q)).take f.blk
  j.fail = none → o.rnd ≠ .sr → cols % f.blk = 0 → 0 < cols → isOutFmt o.ta.fmt.toNat = true → RowsApart o.tb o.fb 0 →
    16 ≤ o.tb.fmt.toNat → o.tb.cols = o.ta.cols →
      (∀ row < o.ta.rows.toNat,
        (j.s.core c).scratch.read (first + o.tb.base.toNat + row * o.tb.pitch.toNat) (o.tb.rowBytes o.fb)
          = packRow f.sw ((List.range cols).map fun col =>
              blockCode f (blockExp f (block row (col / f.blk))) o.rnd 0 ((vals row).getD col .nan)))
      ∧ (o.xw.Nodup → o.ta.rows.toNat * (cols / f.blk) ≤ 1024 * o.xw.length → ∀ i < o.ta.rows.toNat * (cols / f.blk),
          ((j.s.warp c o.slot).getX (o.xw.getD (i / 1024) 0)).bytes.get (i % 1024)
            = BitVec.ofNat 8 (blockScale f (block (i / (cols / f.blk)) (i % (cols / f.blk)))))

/-- What the parts of a copy do together from a state: the runs of a TLOAD or TSTORE are those of its box, of a TGATHER or TSCATTER
those of its list; a TFILL fills; a TCOPY within the scratchpad reads as if chunk by chunk; XQNT quantises. -/
def WholeWork (s : State) (c : Nat) (o : EOp) : Prop :=
  let j := s.copyWork c o
  let first := (s.wg c o.wg).first
  (∀ (eb n : Nat) (runs : List Run), LoadsRuns s c o eb n runs ∧ StoresRuns s c o eb n runs)
    ∧ (o.kind = 6 → Quantises s c o)
    ∧ (o.kind = 5 → let eb := eBits o.tb.fmt.toNat o.fb
      elemBytes eb o.tb.cols.toNat ≤ o.tb.pitch.toNat → ∀ r < o.tb.rows.toNat,
        (j.s.core c).scratch.read (first + o.tb.base.toNat + r * o.tb.pitch.toNat) (elemBytes eb o.tb.cols.toNat)
          = (packRow eb (List.replicate o.tb.cols.toNat ((o.svals.getD 0 0).toNat % 2 ^ eb))).take (elemBytes eb o.tb.cols.toNat))
    ∧ (o.kind = 4 → o.sp = 1 → o.sp2 = 1 → (s.core c).badScratch = [] →
        let a := (o.svals.getD 0 0).toNat
        let b := (o.svals.getD 1 0).toNat
        let n := (o.svals.getD 2 0).toNat / 16 * 16
        a + n ≤ b ∨ b + n ≤ a → ∀ i < n, (j.s.core c).scratch.get (first + b + i) = (s.core c).scratch.get (first + a + i))

/-- The state in which a part is done: its requests may have paid, and it has the row port. -/
def Ported (s u : State) (c : Nat) : Prop :=
  ∃ b n, u = { s with buckets := b } ∨ u = ({ s with buckets := b } : State).modCore c fun k => { k with rowFree := n }

/-- A copy's next step stands in the agenda: a part after the issue of its cycle, the end before it (R206). -/
def CopyDue (s t : State) (c : Nat) (e : EOp) (again : Instr) : Prop :=
  if e.part < (s.copyParts c e).length then DueLate t e.occ again else Due t e.occ again

/-- A part of a copy is done: memory and scratchpads hold its work; the copy comes back for its next part, within its promise
where R396 bounds it, or fails at its first bad element. -/
def PartDone (s t : State) (c : Nat) (o : EOp) (p : CopyPart) (again : Instr) : Prop :=
  ∃ u, Ported s u c ∧
    let j := u.partNow o p
    t.mem = j.s.mem ∧ t.hostMem = j.s.hostMem ∧ (∀ d, (t.core d).scratch = (j.s.core d).scratch)
      ∧ ∀ x ∈ (j.s.core c).ops, x.id = o.id → ∃ e ∈ (t.core c).ops, e.id = o.id ∧ e.kind = o.kind ∧ e.started = true
        ∧ match j.fail with
          | some f => e.part = o.part ∧ e.fail = some f ∧ Due t s.clock (.copyFault c o.id)
          | none => e.part = o.part + 1 ∧ e.fail = none ∧ e.port = false ∧ s.clock ≤ e.occ ∧ CopyDue s t c e again
              ∧ (t.onTime c e = true →
                  e.occ ≤ max (s.clock + portCycles ((s.copyParts c o).take o.part) [p]) o.promise)

/-- A copy's step: put off at H4, where a level has risen or other traffic is met, for a walk, for its lines, for the row port or
for a peer's acknowledgement; else its next part, or its end (R205, R263, R269, R279 to R286, R322, R351, R356, R425, R450). -/
def CopyFinished (c op : Nat) (again : Instr) : StepRule := fun s t =>
  match (s.core c).op? op with
  | none => t = s
  | some o =>
    let later (n : Nat) (port : Bool) : Prop := MemSame s t
      ∧ ∃ e ∈ (t.core c).ops, e.id = op ∧ e.part = o.part ∧ e.started = true ∧ e.occ = n ∧ e.port = port ∧ CopyDue s t c e again
    if o.started = false ∨ o.occ ≠ s.clock ∨ o.fail ≠ none then t = s
    else if 4 ≤ s.level (stackOf c) then later s.nextSample o.port
    else if o.cached = true ∧ s.onTime c o = false then ∃ n, s.clock ≤ n ∧ later n o.port
    else
      match (s.copyParts c o)[o.part]? with
      | none =>
        if s.peerOut c o = true then later (s.clock + 1) o.port
        else CopyEnded s t c o none ∧ MemSame s t
          ∧ ∀ n ∈ o.xw, ((t.warp c o.slot).getX n).bnd = true ∧ ((t.warp c o.slot).getX n).tag = o.gen
              ∧ ((t.warp c o.slot).getX n).tix = BitVec.ofNat 4 o.tbi
      | some p =>
        let j := s.partNow o p
        let turn : Prop :=
          if portCycles ((s.copyParts c o).take o.part) [p] ≠ 0 ∧ (s.core c).rowBusy s.clock = true then later (s.clock + 1) true
          else PartDone s t c o p again
        if j.miss.isSome then later (s.clock + 1) o.port
        else if o.port = true then turn
        else if o.cached = true then
          match s.partHeld (stackOf c) o.did j.reqs with
          | some n => later n false
          | none => if (s.payAll o.did j.reqs.reverse).isSome then turn else later (s.clock + 1) false
        else if ∀ q ∈ j.reqs, ∃ f, s.tokenOf o.id q = some f ∧ f.performed = true then turn
        else later (s.clock + 1) false
          ∧ ((∀ f ∈ s.fly, f.1 < s.nextId) → ∀ q ∈ j.reqs, (t.tokenOf o.id q).isSome)

/-- The copy engine's steps. -/
def copyStepRule : Instr → Option StepRule
  | .copyStart c op => some fun s t =>
      match (s.core c).op? op with
      | none => t = s
      | some o =>
        if o.started = true ∨ o.isCopy = false then t = s
        else if s.beforeFirst c o = true then MemSame s t ∧ t.cores = s.cores ∧ Due t (s.clock + 1) (.copyStart c op)
        else if o.again = true then
          MemSame s t ∧ Due t s.clock (.copyStart c op)
            ∧ ∃ e ∈ (t.core c).ops, e.id = op ∧ e.again = false ∧ e.issued = s.clock - 1 ∧ e.started = false
        else if (s.core c).opFree o = false then t = s
        else MemSame s t
          ∧ if s.clock < o.issued + 8 then Due t (o.issued + 8) (.copyStart c op)
            else if 4 ≤ s.level (stackOf c) then Due t s.nextSample (.copyStart c op)
            else ∃ e ∈ (t.core c).ops, e.id = op ∧ e.started = true ∧ e.start = s.clock ∧ s.clock < e.occ ∧ e.kind = o.kind
              ∧ e.part = o.part ∧ CopyDue s t c e (if o.kind = 6 then .xqntComplete c op else .copyComplete c op)
              ∧ (o.cached = true → s.onTime c o = true → e.cached = true ∧ e.occ ≤ max (s.clock + 1) o.promise)
  | .copyComplete c op => some fun s t =>
      CopyFinished c op (.copyComplete c op) s t ∧ ∀ o, (s.core c).op? op = some o → o.part = 0 → WholeWork s c o
  | .xqntComplete c op => some fun s t =>
      CopyFinished c op (.xqntComplete c op) s t ∧ ∀ o, (s.core c).op? op = some o → o.part = 0 → WholeWork s c o
  | .copyFault c op => some fun s t =>
      match (s.core c).op? op with
      | none => t = s
      | some o =>
        match o.fail with
        | none => t = s
        | some f => CopyEnded s t c o (some f) ∧ MemSame s t
  | _ => none

/-! The matrix arrays (R85 to R88, R287 to R298, R338 to R346, R358). -/

/-- The array is granted to the issuing slot (R287, R409). -/
abbrev ArrayGranted (x : Ctx) (s : State) : Prop := x.k.dslot ≠ 0 ∧ s.inPart (s.dsPart x.c x.k.dslot) x.c = true

/-- The issuing core is in no group, or leads it (R290). -/
abbrev NoFollower (x : Ctx) (s : State) : Prop := (s.quad x.c).issued.mode = 0 ∨ (s.quad x.c).issued.leader = x.c

/-- No bank of some cores, of those named, carries a stamp of another domain (R292 to R294). -/
def OwnBanks (x : Ctx) (s : State) (cores : List Nat) (named : Nat → Bool) : Prop :=
  ∀ c ∈ cores, ∀ b < 4, named b = true → ∀ d, FMap.get? (s.quad c).issued.stamps b = some d → d = s.dsDid x.c x.k.dslot

/-- The operation is the last of its core's queue, to start in the next cycle or later; the fragment goes on, its destination interlocked. -/
def MatrixQueued (x : Ctx) (s t : State) (kind : Nat) (good : EOp → Prop) : Prop :=
  GoesOn t x (x.pc + 8) ∧ MemSame s t ∧ SameButGenerations (t.warp x.c x.w) x.k ∧ Due t (x.clock + 1) .matrixOpStart
    ∧ ∃ e, (t.core x.c).ops = (s.core x.c).ops ++ [e] ∧ e.id = s.nextId ∧ e.kind = kind ∧ e.uid = x.k.uid ∧ e.issued = x.clock
        ∧ e.started = false ∧ e.again = false ∧ e.batch = 0 ∧ e.did = s.dsDid x.c x.k.dslot
        ∧ (∀ r ∈ x.k.destRegs e.d 1, (t.warp x.c x.w).locked r = true) ∧ good e

/-- An operand of the array: valid, in its place, of an accepted format; scales only with a narrow one (R272, R288). -/
def operandChecks (x : Ctx) (s : State) (ti : Nat) (b : Opd) : List (Prop × Nat × Nat) :=
  let t := x.k.getT ti
  let c := t.fmt.toNat
  [notValid t, notPlaced x s t, (c ≠ 9 ∧ c ≠ 10 ∧ c < 16, cIllop, 3), (b.isX = true ∧ c < 16, cIllop, 0x0D)]

/-- The scales of an operand: how many they are, the graft check, their format (R272, R277, R288). -/
def scaleChecks (x : Ctx) (ti : Nat) (b : Opd) : List (Prop × Nat × Nat) :=
  let t := x.k.getT ti
  let fv := x.k.fOf t.fmt.toNat
  let n := xsOf t (NFmt.of fv).blk
  if b.isX = true then
    [(8192 < scalesOf t (NFmt.of fv).blk ∨ 7 < xNo b + n - 1, cIllop, 6), (x.boundX ti = none, cStaleGraft, ti + 16 * 15)]
      ++ staleAt x ti true (xNo b) n ++ [wrongScales x fv (xNo b) n]
  else []

/-- The scale registers that an operation captures with an operand. -/
def ScalesHeld (x : Ctx) (ti : Nat) (b : Opd) (o : EOp) : Prop :=
  let t := x.k.getT ti
  let n := xsOf t (NFmt.of (x.k.fOf t.fmt.toNat)).blk
  o.xs = if b.isX = true then (List.range n).map (fun i => (xNo b + i, (x.k.getX (xNo b + i)).bytes)) else []

/-- A matrix instruction on a follower core raises FUSE (R290). -/
def onFollower (x : Ctx) (s : State) : Prop × Nat × Nat := (¬NoFollower x s, cFuse, 0)

/-- A first row: S[c][7:0], or 0 (R292). -/
def firstRow (x : Ctx) (c : Opd) : Nat := if c.isZero = true then 0 else (x.uni c).toNat % 256

/-- A tile of F32, BF16 or F16. -/
abbrev WideFormat (t : TReg) : Prop := t.fmt.toNat = 9 ∨ t.fmt.toNat = 10 ∨ t.fmt.toNat = 11

/-- MFUSE to a mode: only the group's leader forms it, over cores that host workgroups of the issuer's cluster group; in a group, or
with none to dissolve, d is 1 and nothing changes (R290). -/
def fuseRule (mode : Nat) (d : Opd) : Rule := fun x s t =>
  let q := (s.quad x.c).issued
  let leads : Prop := if mode = 1 then x.c % 2 = 0 else if mode = 2 then x.c % 4 < 2 else x.c % 4 = 0
  Checks x t
    (MatrixQueued x s t 16 fun e => e.bank = mode ∧ e.mode = q.mode ∧ e.d = d
      ∧ e.stat = if mode = 0 then (if q.mode = 0 then 1 else 0) else if q.mode = 0 then 0 else 1)
    [onFollower x s, (mode ≠ 0 ∧ ¬leads, cFuse, 0), (mode ≠ 0 ∧ ∃ c ∈ membersOf mode x.c, s.groupOn x c = none, cFuse, 0)]

/-- MWLD, MMA, MREAD, MZERO, MHAD, MRELEASE, MFUSE, MBATCH, MWAIT at their issue, their checks in the order of R290 to R295 and of log
30; that slot 0 is granted nothing is log 29. -/
def matrixRule : Instr → Option Rule
  | .mwld _ f => some fun x s t =>
      let e := f.e.toNat
      let ti := tNo f.a
      let d := x.k.getT ti
      let mode := (s.quad x.c).issued.mode
      let own := classOf (eBits d.fmt.toNat (x.k.fOf d.fmt.toNat))
      let cls := if fld e 7 2 = 0 then own else fld e 7 2 - 1
      Checks x t
        (MatrixQueued x s t 10 fun o => o.ta = d ∧ o.fa = x.k.fOf d.fmt.toNat ∧ o.member = fld e 5 2 ∧ o.cls = cls ∧ o.k = shapeK cls e
          ∧ o.n = shapeN e ∧ o.mode = mode ∧ ScalesHeld x ti f.b o)
        ([onFollower x s, ((membersOf mode x.c).length ≤ fld e 5 2, cFuse, 0)] ++ operandChecks x s ti f.b
          ++ [(own < cls, cIllop, 7), (d.rows.toNat ≠ shapeN e ∨ d.cols.toNat ≠ shapeK cls e, cIllop, 2)] ++ scaleChecks x ti f.b)
  | .mma _ f => some fun x s t =>
      let e := f.e.toNat
      let ti := tNo f.a
      let d := x.k.getT ti
      let q := (s.quad x.c).issued
      let rows := d.rows.toNat
      let m := if e % 2 = 1 then 16 else rows
      let k := shapeK q.cls e
      let n := shapeN e
      let did := s.dsDid x.c x.k.dslot
      let latches (bad : QIssued → Prop) : Prop := ∃ c ∈ membersOf q.mode x.c, bad (s.quad c).issued
      Checks x t
        (MatrixQueued x s t 11 fun o => o.ta = d ∧ o.fa = x.k.fOf d.fmt.toNat ∧ o.bank = fld e 5 2 ∧ o.cls = q.cls ∧ o.mode = q.mode
          ∧ o.k = k ∧ o.n = n ∧ o.m = m ∧ o.row0 = firstRow x f.c ∧ ScalesHeld x ti f.b o)
        ([(¬ArrayGranted x s, cDomain, 0), onFollower x s,
            (q.mode ≠ 0 ∧ ¬((fld e 3 2 = 3 ↔ fusedK q.mode = true) ∧ (fld e 1 2 = 3 ↔ fusedN q.mode = true)), cFuse, 0)]
          ++ operandChecks x s ti f.b
          ++ [(¬(if e % 2 = 1 then 1 ≤ rows ∧ rows ≤ 16 else 16 ≤ rows ∧ rows ≤ 256), cIllop, 2), (latches (·.valid = false), cIllop, 8),
            (latches (·.did ≠ did) ∨ ¬OwnBanks x s (receiversOf q.mode x.c) (· == fld e 5 2), cDomain, 0),
            (latches (fun l => l.cls ≠ min q.cls (classOf (eBits d.fmt.toNat (x.k.fOf d.fmt.toNat)))
                ∨ l.k ≠ (if fusedK q.mode = true then k / 2 else k) ∨ l.n ≠ if fusedN q.mode = true then n / 2 else n)
              ∨ d.cols.toNat ≠ k, cIllop, 7),
            (256 < firstRow x f.c + m, cIllop, 9)]
          ++ scaleChecks x ti f.b)
  | .mread _ f => some fun x s t =>
      let e := f.e.toNat
      let d := x.k.getT (tNo f.a)
      let mode := (s.quad x.c).issued.mode
      Checks x t
        (MatrixQueued x s t 12 fun o => o.ta = d ∧ o.bank = fld e 5 2 ∧ o.mode = mode ∧ o.m = d.rows.toNat ∧ o.n = d.cols.toNat
          ∧ o.flag = e.testBit 7 ∧ o.row0 = firstRow x f.c)
        [onFollower x s, notValid d, notPlaced x s d, ((if fusedN mode = true then 256 else 128) < d.cols.toNat, cIllop, 2),
          (256 < firstRow x f.c + d.rows.toNat, cIllop, 9), (¬WideFormat d, cIllop, 3),
          (¬OwnBanks x s (receiversOf mode x.c) (· == fld e 5 2), cDomain, 0)]
  | .mzero _ f => some fun x s t =>
      let mode := (s.quad x.c).issued.mode
      Checks x t (MatrixQueued x s t 13 fun o => o.bank = f.e.toNat % 16 ∧ o.mode = mode)
        [(¬ArrayGranted x s, cDomain, 0), onFollower x s, (¬OwnBanks x s (membersOf mode x.c) f.e.toNat.testBit, cDomain, 0)]
  | .mhad _ f => some fun x s t =>
      let a := x.k.getT (tNo f.a)
      let b := x.k.getT (tNo f.b)
      let n := 16 * 2 ^ (f.e.toNat % 4)
      Checks x t (MatrixQueued x s t 14 fun o => o.ta = a ∧ o.tb = b ∧ o.m = a.rows.toNat ∧ o.n = n)
        [onFollower x s, notValid a, notValid b, notPlaced x s a, notPlaced x s b, (¬WideFormat a ∨ ¬WideFormat b, cIllop, 3),
          (a.rows ≠ b.rows ∨ a.cols ≠ b.cols, cIllop, 2), (a.cols.toNat % n ≠ 0, cIllop, 0x0A)]
  | .mrelease _ f => some fun x s t =>
      Checks x t (MatrixQueued x s t 15 fun o => o.mode = (s.quad x.c).issued.mode ∧ o.flag = f.e.getLsbD 0) [onFollower x s]
  | .mfuseNone _ d => some (fuseRule 0 d)
  | .mfuseNpair _ d => some (fuseRule 1 d)
  | .mfuseKpair _ d => some (fuseRule 2 d)
  | .mfuseQuad _ d => some (fuseRule 3 d)
  | .mbatch _ f => some fun x s t =>
      let n := x.k.batch + 1
      GoesOn t x (x.pc + 8) ∧ MemSame s t ∧ (t.warp x.c x.w).batch = n
        ∧ (∀ e ∈ (t.core x.c).ops, e.uid = x.k.uid → e.isCopy = false → e.batch ≠ 0)
        ∧ (∀ e ∈ (s.core x.c).ops, e.uid = x.k.uid → e.isCopy = false → e.batch = 0 → { e with batch := n } ∈ (t.core x.c).ops)
        ∧ ∀ m, f.d = .s m → OwesReg t x (.s m.toNat) (BitVec.allOnes 32) 2 fun p => p.uni = BitVec.ofNat 64 n
  | .mwait _ f => some fun x s t =>
      let a := (x.uni f.a).toNat
      let n := min a x.k.batch
      if ∃ e ∈ (s.core x.c).ops, e.uid = x.k.uid ∧ e.isCopy = false ∧ e.batch ≠ 0 ∧ e.batch ≤ n then
        (t.frag x.c x.w x.g).st = .parked (.mwait n (decide (x.k.batch < a)) f.d) ∧ (t.frag x.c x.w x.g).pc = x.pc
          ∧ SameRegs (t.warp x.c x.w) x.k
      else
        GoesOn t x (x.pc + 8) ∧ (x.k.handler = none → MemSame s t) ∧ ∀ m, f.d = .s m →
          (t.warp x.c x.w).getS m.toNat = if ∃ b ∈ x.k.lostBatches, b ≠ 0 ∧ b ≤ n then 2 else if x.k.batch < a then 1 else 0
  | _ => none

/-- Occupancy end and retirement of an operation that starts at a cycle with a factor (R296). -/
def matrixTimes (o : EOp) (s f : Nat) : Nat × Nat :=
  let g := if o.cls = 0 then 1 else if o.cls = 1 then 2 else 8
  let both (n : Nat) : Nat × Nat := (s + f * n, s + f * n)
  if o.kind = 10 then both (o.k / g + 4)
  else if o.kind = 11 then (s + f * o.m, s + f * (o.m + o.k / g + o.n + 12))
  else if o.kind = 12 then both ((o.m * o.n * 4 + 1023) / 1024 + 8)
  else if o.kind = 13 then both 8
  else if o.kind = 14 then both (o.m * ((o.ta.rowBytes o.fa + 1023) / 1024) + 16)
  else both 4

/-- An operation is the next of its core's queue, and nothing of R285, R290, R296, R345 and R386 keeps it: its cycle has come and is
eligible, what it must wait for is over, its tile holds no error. Operations have ids of their own and groups lie in one cluster. -/
def MayStart (s : State) (c : Nat) (k : Core) (o : EOp) : Prop :=
  (s.cores.map (·.1)).Nodup ∧ (c, k) ∈ s.cores
    ∧ (∀ p ∈ s.cores, p.1 ≠ c → ∀ e ∈ p.2.ops, e.isCopy = false → e.id ≠ o.id)
    ∧ (∀ p ∈ s.cores, ∀ e ∈ p.2.ops, e.isCopy = false → ∀ q ∈ e.quads p.1, q / 4 = p.1 / 4)
    ∧ k.ops.find? (fun o => !o.isCopy && !o.started) = some o ∧ o.again = false ∧ s.opEarliest c o ≤ s.clock
    ∧ k.opFree o = true ∧ s.opBehind c o = false
    ∧ (o.kind = 16 → o.stat = 0 → o.bank ≠ 0 → s.membersIdle c o = true) ∧ s.level (stackOf c) < 4
    ∧ s.eligibleAt (stackOf c) s.clock = true ∧ s.opBad c o = false

/-- The operation has started in this cycle, with its times by R296; an MMA takes its members' latches, and its result comes no
earlier than an earlier one's of its bank (R89, R343, log 54). -/
def StartedNow (s t : State) (c : Nat) (o : EOp) : Prop :=
  let f := levelF (s.level (stackOf c))
  ∃ e ∈ (t.core c).ops, e.id = o.id ∧ e.kind = o.kind ∧ e.started = true ∧ e.start = s.clock ∧ e.lev = f
    ∧ e.occ = (matrixTimes o s.clock f).1 ∧ (matrixTimes o s.clock f).2 ≤ e.retire
    ∧ (o.kind = 11 → (∀ m ∈ receiversOf o.mode c, FMap.getD (s.quad m).results o.bank 0 ≤ e.retire)
        ∧ e.lat = (membersOf o.mode c).map fun m => (s.quad m).latch)
    ∧ ((o.kind = 11 → ∀ m ∈ receiversOf o.mode c, FMap.getD (s.quad m).results o.bank 0 ≤ (matrixTimes o s.clock f).2) →
        e.retire = (matrixTimes o s.clock f).2)
    ∧ Due t e.retire (.matrixOpRetire c o.id)

/-- The weights of a column along all of K: a member holds 128 columns, and where K is fused its half (R88, R290). -/
def columnWeights (o : EOp) (j : Nat) : List Exact :=
  let wide := if fusedN o.mode = true then 2 else 1
  let side := if fusedN o.mode = true then j / 128 else 0
  let half (h : Nat) : List Exact := (o.lat.getD (h * wide + side) {}).col (j - 128 * side)
  if fusedK o.mode = true then half 0 ++ half 1 else half 0

/-- The core and the cell of a bank that hold column j of a row (R290). -/
def holderOf (o : EOp) (c j : Nat) : Nat := (receiversOf o.mode c).getD (j / 128) c
def cellOf (o : EOp) (i j : Nat) : Nat := o.bank * 32768 + (o.row0 + i) * 128 + j % 128

/-- The operation has retired: it has left the queue, and its effect stands: a latch, an MMA's sums, zeros, a release, a group
(R87, R88, R290 to R294). -/
def RetiredNow (s t : State) (c : Nat) (o : EOp) : Prop :=
  (∀ e ∈ (t.core c).ops, e.id ≠ o.id)
    ∧ (o.kind = 10 → let q := t.quad ((membersOf o.mode c).getD o.member c)
        q.latch.valid = true ∧ q.latch.did = o.did ∧ q.latch.cls = o.cls ∧ q.latch.k = o.k ∧ q.latch.n = o.n ∧ q.latch.fval = o.fa
          ∧ q.latch.hasScale = !o.xs.isEmpty
          ∧ ∀ r < o.n, ∀ p, o.snap.find? (fun p => p.1 == r) = some p → q.latch.rows.getD r [] = p.2)
    ∧ (o.kind = 11 → o.n ≤ 128 * (receiversOf o.mode c).length → (∀ l ∈ o.lat, l.valid = true) → ∀ i < o.m, ∀ j < o.n,
        FMap.getD (t.quad (holderOf o c j)).banks (cellOf o i j) 0 = f32.round .rne 0 (Exact.add false
          (f32.decode (FMap.getD (s.quad (holderOf o c j)).banks (cellOf o i j) 0))
          (f32.decode (if i < o.ta.rows.toNat then
              chainP (groupG o.cls) (o.k + 1) ((o.activation i).zip (columnWeights o j)) 0 else 0))))
    ∧ (o.kind = 12 → o.flag = true → o.row0 + o.m ≤ 256 → o.n ≤ 128 * (receiversOf o.mode c).length → ∀ i < o.m, ∀ j < o.n,
        FMap.getD (t.quad (holderOf o c j)).banks (cellOf o i j) 0 = 0)
    ∧ (o.kind = 13 → ∀ m ∈ membersOf o.mode c, ∀ e ∈ (t.quad m).banks, o.bank.testBit (e.1 / 32768) = false ∨ 4 ≤ e.1 / 32768)
    ∧ (o.kind = 15 → ∀ m ∈ membersOf o.mode c, (t.quad m).latch = {} ∧ (o.flag = true → (t.quad m).banks = [] ∧ (t.quad m).stamps = []))
    ∧ (o.kind = 16 → o.stat = 0 → o.bank = 0 → ∀ m ∈ membersOf o.mode c, (t.quad m).mode = 0)
    ∧ (o.kind = 16 → o.stat = 0 → o.bank ≠ 0 → (s.quad c).group = (s.wg c o.wg).group →
        ∀ m ∈ membersOf o.bank c, (t.quad m).mode = o.bank ∧ (t.quad m).leader = c ∧ (t.quad m).latch = {})

/-- The rows of the tile whose words are read in this cycle: an MWLD's or MMA's stream, an MHAD's next step (R236, R291). -/
def rowsMet (s : State) (o : EOp) : List Nat :=
  if o.kind = 10 ∨ o.kind = 11 then (List.range o.rowsRead).filter fun r => o.rowCycle r == s.clock
  else if o.kind = 14 then (o.steps.drop o.part).headD []
  else []

/-- The steps of the matrix queues. -/
def matrixStepRule : Instr → Option StepRule
  | .matrixOpStart => some fun s t =>
      ((∀ p ∈ s.cores, ∀ o ∈ p.2.ops, o.isCopy = true ∨ o.started = true) → t = s)
        ∧ ∀ c k o, MayStart s c k o → StartedNow s t c o
  | .matrixOpRetire c op => some fun s t =>
      match (s.core c).op? op with
      | none => t = s
      | some o =>
        let base := (s.wg c o.wg).rowBase * 1024
        if o.started = false ∨ o.isCopy = true then t = s
        else if s.clock < o.retire then
          t.mem = s.mem ∧
            if ∃ r ∈ rowsMet s o, s.rowBad c o r = true then
              (∀ e ∈ (t.core c).ops, e.id ≠ op) ∧ (o.kind = 14 → (t.core c).scratch = (s.core c).scratch)
                ∧ ((s.warp c o.slot).uid = o.uid → ∃ f, (t.warp c o.slot).pendingFail = some (none, f) ∧ f.cause = cMachineCheck
                    ∧ f.pc = o.pc)
            else
              (∃ e ∈ (t.core c).ops, e.id = op ∧ ((o.kind = 10 ∨ o.kind = 11) → ∀ r ∈ rowsMet s o,
                (r, (s.core c).scratch.read (base + o.ta.base.toNat + r * o.ta.pitch.toNat) (o.ta.rowBytes o.fa)) ∈ e.snap))
              ∧ (o.kind = 12 → let eb := eBits o.ta.fmt.toNat 0
                elemBytes eb o.n ≤ o.ta.pitch.toNat → ∀ i ∈ (o.steps.drop o.part).headD [],
                  (t.core c).scratch.read (base + o.ta.base.toNat + i * o.ta.pitch.toNat) (elemBytes eb o.n)
                    = packRow eb ((List.range o.n).map fun j => (codeFmt o.ta.fmt.toNat).round .rne 0
                        (f32.decode (FMap.getD (s.quad (holderOf o c j)).banks (cellOf o i j) 0))))
              ∧ (o.kind = 14 → let ea := eBits o.ta.fmt.toNat 0
                let eb := eBits o.tb.fmt.toNat 0
                let cols := o.ta.cols.toNat
                elemBytes eb cols ≤ o.tb.pitch.toNat → 0 < o.n → o.n ∣ cols →
                (o.ta.base.toNat + o.m * o.ta.pitch.toNat ≤ o.tb.base.toNat ∨ o.tb.base.toNat + o.m * o.tb.pitch.toNat ≤ o.ta.base.toNat) →
                o.ta.rowBytes o.fa ≤ o.ta.pitch.toNat → ∀ i ∈ (o.steps.drop o.part).headD [],
                  (t.core c).scratch.read (base + o.tb.base.toNat + i * o.tb.pitch.toNat) (elemBytes eb cols)
                    = packRow eb ((List.range cols).map fun j => (codeFmt o.tb.fmt.toNat).round .rne 0
                        (hadamardRow o.n (j % o.n) ((List.range o.n).map fun k => elemVal o.ta.fmt.toNat 0
                          ((unpackRow ea cols ((s.core c).scratch.read (base + o.ta.base.toNat + i * o.ta.pitch.toNat)
                            (o.ta.rowBytes o.fa))).getD (j / o.n * o.n + k) 0)))))
        else RetiredNow s t c o
  | _ => none

/-! Scale registers, formats, tile descriptors (R305 to R320). -/

/-- The byte of a scale register that a landing result holds. -/
def Pend.byte (p : Pend) (j : Nat) : Byte := BitVec.ofNat 8 ((p.lanes.get (j / 4)).toNat / 2 ^ (8 * (j % 4)))

/-- A scale register takes what lands: bytes, format and block, binding, by the parts its mask names (R307, R316 to R319). -/
def XLands (a b : XReg) (p : Pend) : Prop :=
  (∀ j < 1024, b.bytes.get j = if p.mask.getLsbD 0 = true then Pend.byte p j else a.bytes.get j)
    ∧ b.sfmt = (if p.mask.getLsbD 1 = true then p.uni.getLsbD 20 else a.sfmt)
    ∧ b.blk = (if p.mask.getLsbD 1 = true then p.uni.getLsbD 21 else a.blk)
    ∧ b.tix = (if p.mask.getLsbD 2 = true then p.uni.setWidth 4 else a.tix)
    ∧ b.bnd = (if p.mask.getLsbD 2 = true then p.uni.getLsbD 4 else a.bnd)
    ∧ b.tag = (if p.mask.getLsbD 2 = true then p.uni.extractLsb' 8 12 else a.tag)

/-- Arithmetic on the bytes of a scale register (R319). -/
def ScaleOp (f : FmtA) (power : Bool) (op : Exact → Exact → Exact) : Rule := fun x s t =>
  let a := x.k.getX (xNo f.a)
  let other := x.k.getX (xNo f.b)
  if (x.k.getX (xNo f.d)).sfmt ≠ a.sfmt ∨ (f.b.isX = true ∧ other.sfmt ≠ a.sfmt) then Trapped t x cIllop x.pc 0x0E
  else
    let v := x.cnt f.b x.low % 256
    GoesOn t x (x.pc + 8) ∧ MemSame s t ∧ OwesReg t x (.x (xNo f.d)) 1 8 fun p => ∀ j < 1024,
      Pend.byte p j = BitVec.ofNat 8 (scaleResult a.sfmt (op (scaleVal a.sfmt (a.bytes.get j).toNat)
        (if f.b.isX then scaleVal a.sfmt (other.bytes.get j).toNat
         else if power then .fin false 1 (sextN 8 v) false else scaleVal a.sfmt v)))

/-- The control word of a binding that lands. -/
def Binds (p : Pend) (tix : Nat) (bnd : Bool) (tag : BitVec 12) : Prop :=
  p.uni.toNat % 2 ^ 4 = tix ∧ p.uni.getLsbD 4 = bnd ∧ p.uni.toNat / 2 ^ 8 % 2 ^ 12 = tag.toNat

/-- XMOV, XADD, XSUB, XMAX, XMIN, XCVT, XBIND, XUNBIND, XTAG, FMTSET, FMTGET, TDSET, TDGET. -/
def scaleRule : Instr → Option Rule
  | .xmov _ f => some fun x s t =>
      let slice := f.flags.toNat % 8
      let word (a i : Nat) : U32 := BitVec.ofNat 32 (ofBytes ((x.k.getX a).bytes.read (4 * i) 4))
      GoesOn t x (x.pc + 8) ∧ MemSame s t ∧ match f.d, f.a with
        | .v n, .x a => OwesReg t x (x.k.physV n.toNat) x.act 8 fun p => ∀ l < 32, p.lanes.get l = word a.toNat (32 * slice + l)
        | .x d, .v n => OwesReg t x (.x d.toNat) 1 8 fun p => ∀ i < 256, p.lanes.get i =
            if i / 32 = slice ∧ x.act.getLsbD (i % 32) = true then (x.k.getV (x.k.physV n.toNat)).get (i % 32) else word d.toNat i
        | .x d, .x a => OwesReg t x (.x d.toNat) 3 8 fun p => (∀ i < 256, p.lanes.get i = word a.toNat i)
            ∧ p.uni.getLsbD 20 = (x.k.getX a.toNat).sfmt ∧ p.uni.getLsbD 21 = (x.k.getX a.toNat).blk
        | .x d, a => OwesReg t x (.x d.toNat) 1 8 fun p => ∀ j < 1024, Pend.byte p j = BitVec.ofNat 8 (x.cnt a x.low)
        | _, _ => True
  | .xadd _ f => some (ScaleOp f true Exact.mul)
  | .xsub _ f => some (ScaleOp f true Exact.div)
  | .xmax _ f => some (ScaleOp f false (scalePick true))
  | .xmin _ f => some (ScaleOp f false (scalePick false))
  | .xcvt _ f => some fun x s t =>
      let a := x.k.getX (xNo f.a)
      let dst := f.flags.getLsbD 0
      GoesOn t x (x.pc + 8) ∧ MemSame s t ∧ OwesReg t x (.x (xNo f.d)) 3 8 fun p =>
        p.uni.getLsbD 20 = dst ∧ p.uni.getLsbD 21 = a.blk
          ∧ ∀ j < 1024, Pend.byte p j = BitVec.ofNat 8 (scaleConv a.sfmt dst (a.bytes.get j).toNat)
  | .xbind _ f => some fun x s t =>
      let n := tNo f.a
      let tile := x.k.getT n
      let nf := NFmt.of (x.k.getF (tile.fmt.toNat - 16))
      if tile.valid = false then Trapped t x cIllop x.pc 1
      else if tile.fmt.toNat < 16 then Trapped t x cIllop x.pc 0x0D
      else GoesOn t x (x.pc + 8) ∧ MemSame s t ∧ OwesReg t x (.x (xNo f.d)) 6 2 fun p =>
        Binds p n true tile.gen ∧ p.uni.getLsbD 20 = nf.e4m3 ∧ p.uni.getLsbD 21 = nf.blk32
  | .xunbind _ f => some fun x s t =>
      GoesOn t x (x.pc + 8) ∧ MemSame s t ∧ OwesReg t x (.x (xNo f.d)) 4 2 fun p =>
        Binds p (x.k.getX (xNo f.d)).tix.toNat false 0
  | .xtag _ f => some fun x s t =>
      let r := x.k.getX (xNo f.d)
      let tile := x.k.getT r.tix.toNat
      if r.bnd = false then Trapped t x cIllop x.pc 0x12
      else if tile.valid = false then Trapped t x cIllop x.pc 1
      else GoesOn t x (x.pc + 8) ∧ MemSame s t ∧ OwesReg t x (.x (xNo f.d)) 4 2 fun p => Binds p r.tix.toNat true tile.gen
  | .fmtset _ f => some fun x s t =>
      let v : U64 := if f.a.isZero then fReset.setWidth 64 else x.uni f.a
      if 2 ^ 32 ≤ v.toNat ∨ fLegal (v.setWidth 32) = false then Trapped t x cIllop x.pc 0x15
      else GoesOn t x (x.pc + 8) ∧ MemSame s t ∧ OwesReg t x (.f (fNo f.d)) (BitVec.allOnes 32) 2 fun p => p.uni = v
  | .fmtget _ f => some fun x s t => GoesOn t x (x.pc + 8) ∧ MemSame s t ∧ Owes t x f.d (x.uni f.a)
  | .tdset _ f => some fun x s t =>
      let lo := x.k.getS (sNo f.a)
      let hi := x.k.getS (sNo f.a + 1)
      let tile := TReg.ofWords lo.toNat hi.toNat 0
      if lo.getLsbD 63 = true ∧ tdBad lo.toNat hi.toNat tile (x.k.fOf tile.fmt.toNat) = true then Trapped t x cIllop x.pc 0x10
      else if lo.getLsbD 63 = true
          ∧ (s.wg x.c x.k.wg).scratch < lo.toNat % 2 ^ 22 + lo.toNat / 2 ^ 24 % 2 ^ 13 * (hi.toNat % 2 ^ 22) then
        Trapped t x cDomain x.pc (BitVec.ofNat 64 (lo.toNat % 2 ^ 22))
      else GoesOn t x (x.pc + 8) ∧ MemSame s t ∧ OwesReg t x (.t (tNo f.d)) (BitVec.allOnes 32) 2 fun p =>
        p.uni = lo ∧ p.lanes.get 0 = hi.setWidth 32 ∧ p.lanes.get 1 = hi.extractLsb' 32 32
  | .tdget _ f => some fun x s t =>
      let tile := x.k.getT (tNo f.a)
      GoesOn t x (x.pc + 8) ∧ MemSame s t
        ∧ OwesReg t x (.s (sNo f.d)) (BitVec.allOnes 32) 2 (fun p => p.uni = BitVec.ofNat 64 (tile.base.toNat
            + tile.rows.toNat * 2 ^ 24 + tile.cols.toNat * 2 ^ 40 + tile.fmt.toNat * 2 ^ 56 + b2n tile.valid * 2 ^ 63))
        ∧ OwesReg t x (.s (sNo f.d + 1)) (BitVec.allOnes 32) 2
            (fun p => p.uni = BitVec.ofNat 64 (tile.pitch.toNat + tile.gen.toNat * 2 ^ 32))
  | _ => none

/-! Commands of the trowels (R237, R299 to R304, R390, R393 to R395). -/

/-- A command's record is out with its status, and its destination interlocked (R299). -/
def CommandOut (x : Ctx) (s t : State) (st : Nat) (d : Opd) (pa : Option Nat) : Prop :=
  GoesOn t x (x.pc + 8) ∧ MemSame s t ∧ SameRegs (t.warp x.c x.w) x.k
    ∧ (∀ r ∈ x.k.destRegs d 1, (t.warp x.c x.w).locked r = true)
    ∧ ∃ op, FMap.get? t.loads s.nextId = some op ∧ op.kind = 6 ∧ op.regs = x.k.destRegs d 1 ∧ op.mask = BitVec.ofNat 32 st
        ∧ op.acq = .st ∧ op.lands = 0 ∧ Due t x.clock (.nmRecordRead s.nextId)
        ∧ match pa with
          | none => op.accs = [] ∧ op.nrm = BitVec.ofNat 64 (2 ^ 32)
          | some a => op.accs.map (·.pa) = (List.range 8).map (a + 16 * ·) ∧ op.nrm = 0

/-- NMEXP and NMRED: the record's address, the record, the completion record's address; status 1 with 32 commands
outstanding, 2 for a record that R300 or R303 does not allow, else the command is accepted (R299, R390, R393). -/
def CommandChecked (x : Ctx) (s t : State) (kind : Nat) (d a : Opd) : Prop :=
  let va := x.uni a
  let dom := s.dom x.c x.k.dslot
  if va.toNat % 64 ≠ 0 then Trapped t x cMisalign x.pc va
  else
    match s.translate x.c dom x.fr.walked va.toNat 0 with
    | .miss => WaitsForWalks t x
    | .fault cause _ => Trapped t x cause x.pc va
    | .zeros _ => CommandOut x s t 2 d none ∧ t.cmds = s.cmds
    | .ok pa _ _ =>
      if s.inReduce pa = true then Trapped t x cTranslation x.pc va
      else if s.isLost pa then Trapped t x cMachineCheck x.pc va
      else
        let r := (s.wordsAt pa 64).1
        let busy := decide (32 ≤ (s.core x.c).nmOut)
        let bad := if kind = 1 then nmexpBad r else nmredBad r
        let st := if busy then 1 else if bad then 2 else 0
        let done := nmDone kind r
        if done % 16 ≠ 0 then Trapped t x cMisalign x.pc (BitVec.ofNat 64 done)
        else
          match s.translate x.c dom x.fr.walked done 1 with
          | .miss => WaitsForWalks t x
          | .fault cause _ => Trapped t x cause x.pc (BitVec.ofNat 64 done)
          | .zeros _ => Trapped t x cNonresStore x.pc (BitVec.ofNat 64 done)
          | .ok _ _ _ =>
            CommandOut x s t st d (some (lineOf pa))
              ∧ if st ≠ 0 then t.cmds = s.cmds ∧ (t.core x.c).nmOut = (s.core x.c).nmOut
                else (t.core x.c).nmOut = (s.core x.c).nmOut + 1
                  ∧ ∃ g n, FMap.get? t.cmds (s.nextId + 1) = some g ∧ g.core = x.c ∧ g.dslot = x.k.dslot ∧ g.kind = kind
                      ∧ g.did = dom.did ∧ g.part = dom.part ∧ g.root = dom.root ∧ g.stage = 0 ∧ g.put = none ∧ g.half = false
                      ∧ g.rcd = r ∧ g.next = 0 ∧ g.total = nmTotal kind r ∧ g.err = 0
                      ∧ 1 ≤ n ∧ Due t (x.clock + n) (.trowelItem (s.nextId + 1) 0)

/-- NMEXP, NMRED (R299 to R303). -/
def commandRule : Instr → Option Rule
  | .nmexp _ f => some fun x s t => CommandChecked x s t 1 f.d f.a
  | .nmred _ f => some fun x s t => CommandChecked x s t 2 f.d f.a
  | _ => none

/-- An item of a command is over, and the command goes on, by the next item or its completion record. -/
def ItemOver (s : State) (g h : Cmd) (item : Nat) (t : State) : Prop :=
  h.rcd = g.rcd ∧ h.kind = g.kind ∧ (item < h.next ∨ item ∈ h.ahead)
    ∧ (h.next < h.total → ∃ n i, Due t (s.clock + n) (.trowelItem g.id i))
    ∧ (h.total ≤ h.next → h.partials = [] → ∃ n, 1 ≤ n ∧ Due t (s.clock + n) (.trowelCompletionWrite g.id))

/-- The first failure of a command: the lowest failing address among the item's and those of the work left is what the
command reports; a later one counts where it is lower still; no later item is performed (R302, R304, R395). -/
def ItemFails (u : State) (f g h : Cmd) (item : Nat) (e : Nat × Nat) : Prop :=
  h.total = min g.total item
    ∧ (g.err = 0 →
        let bag := g.next / max 1 (fld g.rcd 16 16)
        let low := if g.kind = 1 then u.nmexpLow f g.next else u.nmBagsLow f bag (fld g.rcd 32 32 - bag)
        some (h.err, h.faultva) = lowerFail (some e) low ∧ h.faultva ≤ e.2)
    ∧ (g.err ≠ 0 ∧ e.2 < g.faultva → h.err = e.1 ∧ h.faultva = e.2)
    ∧ (g.err ≠ 0 ∧ g.faultva ≤ e.2 → h.err = g.err ∧ h.faultva = g.faultva)

/-- A step of a command is put off: memory is as in a state, the command as one says, and the step comes again. -/
def PutOff (u : State) (h : Cmd) (again : Instr) (t : State) : Prop :=
  t.mem = u.mem ∧ FMap.get? t.cmds h.id = some h ∧ ∃ n, u.clock ≤ n ∧ Due t n again

/-- Every line that an owner asked for is at hand. -/
def AtHand (u : State) (owner : Nat) (l : List EngReq) : Bool :=
  l.all fun q => ((u.tokenOf owner q).map (·.performed)).getD false

/-- The slice at an address takes bytes into its line; under a migration's hold they wait in its queue (R269, R395). -/
def SliceTakes (u t : State) (a : Nat) (b : List Byte) : Prop :=
  match u.holder a with
  | none => Placed u t a b
  | some _ => t.mem = u.mem ∧ ∃ f, FMap.get? t.fly u.nextId = some f ∧ f.kind = 14 ∧ f.pa = a ∧ f.size = b.length
      ∧ f.bytes = (List.range b.length).zip b

/-- All terms of an output element are read, with the terms' entries and values in a list: what its home will add is on its way, in
ascending entry order or as each unit's sum in an order that is free (R303, R393). -/
def ElementSent (u : State) (f g : Cmd) (k : Nat) (l : List (Nat × Option (Nat × Nat))) (t : State) : Prop :=
  t.mem = u.mem ∧ ∃ h, FMap.get? t.cmds f.id = some h ∧ ItemOver u g h k t ∧
    match u.nmLook f (nmOut 2 f.rcd k) 1 4 with
    | .error e => ItemFails u f g h k (e, canonOr (nmOut 2 f.rcd k))
    | .ok _ =>
      ∃ ts : List (Nat × Option (Nat × Nat)), ts.Perm l ∧ ts.Pairwise (fun a b => a.1 ≤ b.1) ∧
        let terms := ts.filterMap (·.2)
        let unitSum (k : Nat) : Nat := f32Sum 0 ((terms.filter fun t => t.1 == k).map (·.2))
        h.total = g.total ∧ h.err = g.err ∧ h.skipped = f.skipped
          ∧ (∃ n, 60 ≤ n ∧ Due t (u.clock + n) (.trowelPartialArrival f.id k))
          ∧ ∃ p, FMap.get? h.partials k = some p
              ∧ (g.rcd.testBit 13 = true → p = terms.map (·.2))
              ∧ (g.rcd.testBit 13 = false → p.Perm ((terms.map (·.1)).eraseDups.map unitSum))

/-- An NMEXP element's program has run on what its reads brought, and the slice takes its result (R301, R302). -/
def ElementWritten (u : State) (g : Cmd) (item : Nat) (out : Nat) (ins : List EngReq) (t : State) : Prop :=
  let ty := fld g.rcd 8 5
  let size := nmBytes ty
  let uses (op : Nat) : Bool := (nmOps g.rcd).contains op
  let v (q : Option EngReq) : Nat := (q.map fun q => nmWiden ty (ofBytes (u.tokenData g.id q size))).getD 0
  let e : NmIn :=
    { flt := nmFloat ty, signed := ty == 3, in0 := if uses 1 then v ins[0]? else 0,
      in1 := v (if uses 1 then ins[1]? else ins[0]?), old := nmWiden ty (u.rdN out size), imm0 := fld g.rcd 320 32,
      imm1 := fld g.rcd 352 32, idx := item }
  let z := nmRun e (nmOps g.rcd)
  SliceTakes u t out (toBytes size (if nmFloat ty then (codeFmt ty).round .rne 0 (f32.decode z) else z))
    ∧ ∃ h, FMap.get? t.cmds g.id = some h ∧ h.total = g.total ∧ h.err = g.err ∧ ItemOver u g h item t

/-- A word of a command's completion record is on its way, or its page's walk is made first, or it is skipped (R304, R395). -/
def WordOut (s : State) (g : Cmd) (va : Nat) (b : List Byte) (skipped : Prop) (t : State) : Prop :=
  let later : Prop := t.mem = s.mem ∧ t.hostMem = s.hostMem ∧ Due t (s.clock + 1) (.trowelCompletionWrite g.id)
  WordGoes s g.core (s.cmdDom g) va b false t (later ∧ t.cmds = s.cmds)
    (later ∧ FMap.get? t.cmds g.id = some { g with put := some s.nextId }) skipped

/-- The steps of commands. -/
def commandStepRule : Instr → Option StepRule
  | .nmRecordRead id => some fun s t =>
      match FMap.get? s.loads id with
      | none => t = s
      | some op => op.id = id →
        if op.left = 0 then WordLands s op op.mask.toNat t
        else if op.lands ≠ 0 then t = s
        else
          MemSame s t ∧ match op.accs with
            | [] => Due t (s.clock + 32) (.nmRecordRead id) ∧ FMap.get? t.loads id = some { op with left := 0 }
            | a :: _ => ∃ f, FMap.get? t.fly s.nextId = some f ∧ f.pa = a.pa ∧ f.size = 128 ∧ f.op = id ∧ f.performed = false
                ∧ f.kind = if op.kind = 5 ∧ (s.wayOf a.pa).isSome then 10 else if s.region a.pa = 2 then 6 else 0
  | .trowelItem cmd item => some fun s t =>
      match FMap.get? s.cmds cmd with
      | none => t = s
      | some g => g.id = cmd →
        let again : Instr := .trowelItem cmd item
        let fails (u : State) (f : Cmd) (e : Nat × Nat) : Prop :=
          t.mem = u.mem ∧ ∃ h, FMap.get? t.cmds cmd = some h ∧ ItemFails u f g h item e ∧ ItemOver s g h item t
        if g.total ≤ item ∨ item < g.next ∨ item ∈ g.ahead then t = s
        else if ∃ h ∈ s.cmds, h.2.core = g.core ∧ h.1 < g.id ∧ h.2.next < h.2.total then PutOff s g again t
        else if g.kind = 1 then
          let size := nmBytes (fld g.rcd 8 5)
          let at_ (lo : Nat) : Int := ((fld g.rcd lo 57 + item * size : Nat) : Int)
          let uses (op : Nat) : Bool := (nmOps g.rcd).contains op
          match s.nmPlaces g (s.nmUnit g (at_ 64)) ([(at_ 64, 1, size)] ++ (if uses 1 then [(at_ 128, 0, size)] else [])
            ++ (if uses 2 then [(at_ 192, 0, size)] else []) ++ (if uses 3 then [(at_ 64, 0, size)] else [])) with
          | .fail e va => fails s g (e, va)
          | .walk _ _ _ | .wait _ => PutOff s g again t
          | .ok [] => t = s
          | .ok (out :: ins) =>
            let reads := ins.take (b2n (uses 1) + b2n (uses 2))
            if g.stage = 0 then
              match s.unitHeld out.pa with
              | some n => PutOff s g again t ∧ Due t n again
              | none => PutOff s { g with stage := 1 } again t ∧ Due t (s.unitFree out.pa) again
                  ∧ t.unitFree out.pa = s.unitFree out.pa + 1
            else if g.stage = 1 then
              if AtHand s cmd reads = true then
                PutOff s { g with stage := 2 } again t ∧ Due t (s.clock + s.tokenBack cmd + fld g.rcd 16 5 + 8) again
              else PutOff s g again t
            else if AtHand s cmd [out] = true ∧ s.cmdBehind g out.pa = false then ElementWritten s g item out.pa ins t
            else PutOff s g again t
        else
          match s.nmBag g (item / max 1 (fld g.rcd 16 16)) with
          | (.wait n, h, u) => t.mem = u.mem ∧ FMap.get? t.cmds cmd = some h ∧ Due t n again
          | (.walk _ _ _, h, u) => t.mem = u.mem ∧ FMap.get? t.cmds cmd = some h ∧ Due t (u.clock + 1) again
          | (.fail e va, f, u) => fails u f (e, va)
          | (.ok (a, b), f, u) =>
            let had := FMap.getD f.terms item []
            let left := ((List.range (b - a)).map (a + ·)).filter fun e => !had.any fun t => t.1 == e
            if left = [] then ∃ free, ElementSent { u with free := free } f g item had t
            else
              ∃ e free, (∀ x, f.entry = some x → e = x) ∧ (f.entry = none → e ∈ left) ∧
                match ({ u with free := free } : State).nmTerm { f with entry := some e } (item % max 1 (fld g.rcd 16 16)) e with
                | (.wait n, h, v) => t.mem = v.mem ∧ FMap.get? t.cmds cmd = some h ∧ Due t n again
                | (.walk _ _ _, h, v) => t.mem = v.mem ∧ FMap.get? t.cmds cmd = some h ∧ Due t (v.clock + 1) again
                | (.fail x va, h, v) => fails v h (x, va)
                | (.ok y, h, v) =>
                  if left.length = 1 then ElementSent v h g item (had ++ [(e, y)]) t
                  else t.mem = v.mem ∧ ∃ h', FMap.get? t.cmds cmd = some h' ∧ FMap.get? h'.terms item = some (had ++ [(e, y)])
                    ∧ h'.next = g.next ∧ h'.total = g.total ∧ h'.err = g.err ∧ h'.skipped = h.skipped
                    ∧ ∃ n i, Due t (s.clock + n) (.trowelItem cmd i)
  | .trowelPartialArrival cmd part => some fun s t =>
      match FMap.get? s.cmds cmd with
      | none => t = s
      | some g => g.id = cmd →
        match FMap.get? g.partials part with
        | none => t = s
        | some l =>
          let a := nmOut 2 g.rcd part
          let acc := g.rcd.testBit 14
          let ended (h : Cmd) : Prop := FMap.get? t.cmds cmd = some h ∧ FMap.get? h.partials part = none
            ∧ (h.total ≤ h.next → h.partials = [] → ∃ n, 1 ≤ n ∧ Due t (s.clock + n) (.trowelCompletionWrite cmd))
          let later : Prop := t.mem = s.mem ∧ t.cmds = s.cmds ∧ Due t (s.clock + 1) (.trowelPartialArrival cmd part)
          match s.nmPlaces g (s.nmUnit g a) ((a, 1, 4) :: if acc then [(a, 0, 4)] else []) with
          | .fail e va => t.mem = s.mem ∧ ∃ h, ended h ∧ (g.err = 0 ∨ va < g.faultva → h.err = e ∧ h.faultva = va)
          | .walk _ _ _ | .wait _ | .ok [] => later
          | .ok (out :: _) =>
            if AtHand s (partialOwner cmd part) [out] = true ∧ s.cmdBehind g out.pa = false then
              SliceTakes s t out.pa (toBytes 4 (f32Sum (if acc then s.rdN out.pa 4 else 0) l))
                ∧ ∃ h, ended h ∧ h.err = g.err ∧ h.next = g.next ∧ h.total = g.total
            else later
  | .trowelCompletionWrite cmd => some fun s t =>
      match FMap.get? s.cmds cmd with
      | none => t = s
      | some g => g.id = cmd →
        let va := nmDone g.kind g.rcd
        let again : Prop := Due t (s.clock + 1) (.trowelCompletionWrite cmd)
        let half : Prop := t.mem = s.mem ∧ FMap.get? t.cmds cmd = some { g with half := true, put := none } ∧ again
        let ended : Prop := t.mem = s.mem ∧ FMap.get? t.cmds cmd = none
          ∧ (t.core g.core).nmOut = (s.core g.core).nmOut - 1
          ∧ ∀ q, FMap.get? s.grids g.grid = some q → q.id = g.grid → Due t s.clock (.gridRetire g.grid)
              ∧ FMap.get? t.grids g.grid = some { q with nmOut := q.nmOut - 1 }
        if g.next < g.total ∨ g.partials ≠ [] then t = s
        else if s.cmdShares g = true ∨ (g.put.map s.underWay).getD false = true then MemSame s t ∧ t.cmds = s.cmds ∧ again
        else if g.half = false then
          if g.put.isSome then half else WordOut s g (va + 8) (toBytes 8 g.faultva) half t
        else if g.put.isSome then ended
        else WordOut s g va (toBytes 8 (g.skipped % 2 ^ 32 + g.err * 2 ^ 40 + 2 ^ 63)) ended t
  | _ => none

/-! Gates, handlers' returns, system instructions (R202, R264, R268, R269, R323 to R336, R368 to R372, R409 to R420). -/

/-- In the code of another domain than the system's, a system instruction traps (R45). -/
def SystemOnly (x : Ctx) (s t : State) (ok : Prop) : Prop :=
  if s.dsDid x.c x.k.dslot ≠ 0 then Trapped t x cDomain x.pc 0 else ok

/-- A request is made: its destination is interlocked until the answer lands; registers and memory stay. -/
def Asked (x : Ctx) (s t : State) (d : Opd) : Prop :=
  GoesOn t x (x.pc + 8) ∧ MemSame s t ∧ SameRegs (t.warp x.c x.w) x.k
    ∧ (∀ r ∈ x.k.destRegs d 1, (t.warp x.c x.w).locked r = true)
    ∧ ∃ r, FMap.get? t.reqs s.nextId = some r ∧ r.core = x.c ∧ r.slot = x.w ∧ r.uid = x.k.uid ∧ r.d = d

/-- A value is on its way to d, and nothing else comes of the instruction. -/
def OnlyOwes (x : Ctx) (s t : State) (d : Opd) (lat v : Nat) : Prop :=
  GoesOn t x (x.pc + 8) ∧ MemSame s t ∧ SameRegs (t.warp x.c x.w) x.k ∧ t.sys = s.sys ∧ t.reqs = s.reqs
    ∧ ∀ n, d = .s n → OwesReg t x (.s n.toNat) (BitVec.allOnes 32) lat fun p => p.uni = BitVec.ofNat 64 v

/-- No translation cache of the package holds an entry that a test accepts. -/
def NoEntry (t : State) (p : Tlb → Bool) : Prop :=
  (∀ c, ∀ e ∈ (t.core c).tlb, p e = false) ∧ ∀ k, ∀ e ∈ (t.stack k).tlb, p e = false

/-- Cores are to stop, the asking one at the end of this cycle, another within its distance (R332, R333). -/
def StopsCores (x : Ctx) (s : State) (p : Preempt) (cores : List Nat) : Prop :=
  p.stops.map (·.1) = cores ∧ ∀ q ∈ p.stops,
    (q.1 = x.c → q.2 = x.clock)
      ∧ (q.1 ≠ x.c → x.clock < q.2
          ∧ q.2 ≤ x.clock + 25 + 2 * hopCost ((s.ringDist (stackOf x.c) (stackOf q.1)).getD (ringShort (stackOf x.c) (stackOf q.1))))

/-- TLBINV (R331): operands with reserved bits are refused; else the named entries go at once, and d waits for the
accesses in flight that used them. -/
def Invalidates (x : Ctx) (s t : State) (d a : Opd) (kind : Nat) : Prop :=
  SystemOnly x s t <|
    let lo := (x.uni a).toNat
    let hi := (x.k.getS (sNo a + 1)).toNat
    let bad : Prop := fld lo 0 16 ≠ 0 ∨ fld lo 57 7 ≠ 0 ∨ fld hi 42 6 ≠ 0 ∨ fld hi 54 10 ≠ 0 ∨ (kind = 2 ∧ 47 < fld hi 48 6)
    let did := fld hi 32 10
    let part := fld hi 48 6
    let page := fld lo 16 41
    let n := fld hi 0 32
    let names (e : Tlb) : Bool := e.kind != 4 && (if kind = 2 then e.part == part else e.did == did)
      && (kind != 0 || (decide (e.va < (page + n) * 65536) && decide (page * 65536 < e.va + e.size)))
    let used (p e _g va : Nat) : Bool := if kind = 2 then p == part else e == did
      && (kind != 0 || (decide (page ≤ va % 2 ^ 57 / 65536) && decide (va % 2 ^ 57 / 65536 < page + n)))
    (bad → OnlyOwes x s t d 1 1)
      ∧ (¬bad → Asked x s t d ∧ NoEntry t names
          ∧ ∃ v, FMap.get? t.invals (s.nextId + 1) = some v ∧ v.req = s.nextId
              ∧ (∀ id, id ∈ v.until_ ↔ id ∈ s.inFlight used) ∧ Due t (x.clock + 1) (.invalidationComplete (s.nextId + 1)))

/-- ERET with its request (R327, R371, R372): the trap frame is restored and the held fragments are free; a request that
fails enters the handler again, and one whose area's translations are not at hand waits for their walks (R263); a frame in a lost
line is a machine check (R387; the model's reading, log 39). -/
def Returns (x : Ctx) (s t : State) (next : Bool) (m : Moved) : Prop :=
  let k := s.warp x.c x.w
  if k.handler = none then Trapped t x cIllop x.pc 0x13
  else if 1 < (k.frags.filter fun p => !p.2.heldTrap).length then Trapped t x cIllop x.pc 0x14
  else if s.lostIn (s.trapFrame x.c x.w) 640 ≠ none then Trapped t x cMachineCheck x.pc 0
  else
    match m with
    | .walks _ _ => WaitsForWalks t x
    | .again u cause addr =>
      if cause = cMachineCheck then Trapped t x cMachineCheck x.pc addr
      else
        GoesOn t x (BitVec.ofNat 64 (u.dsHnd x.c (u.warp x.c x.w).dslot)) ∧ x.clock + 40 ≤ (t.frag x.c x.w x.g).stall
          ∧ (t.warp x.c x.w).trap.cause = cause ∧ (t.warp x.c x.w).trap.addr = addr ∧ (t.warp x.c x.w).reserve = []
          ∧ (t.warp x.c x.w).trap.pc = (u.warp x.c x.w).trap.pc ∧ t.mem = u.mem
    | .done u n =>
      (u.warp x.c x.w).serving = none → x.w ≠ 63 →
        let a := u.trapFrame x.c x.w
        let k' := t.warp x.c x.w
        let f := t.frag x.c x.w x.g
        k'.handler = none ∧ f.pc = (u.warp x.c x.w).trap.pc + (if next then 8 else 0) ∧ f.stall = x.clock + 40 + 2 * n
          ∧ f.exec = BitVec.ofNat 32 (u.rdN (a + 8) 4) ∧ f.memb = BitVec.ofNat 32 (u.rdN (a + 12) 4)
          ∧ k'.nrm = BitVec.ofNat 64 (u.rdN (a + 16) 8) &&& 0x3FFFFFFFF ∧ k'.chk = decide (u.rdN (a + 24) 1 % 2 = 1)
          ∧ (∀ i < 7, k'.getP (i + 1) = BitVec.ofNat 32 (u.rdN (a + 32 + 4 * i) 4))
          ∧ (∀ i < 64, k'.getS i = BitVec.ofNat 64 (u.rdN (a + 64 + 8 * i) 8))
          ∧ k'.v = (u.warp x.c x.w).v ∧ k'.b = (u.warp x.c x.w).b ∧ k'.frames = (u.warp x.c x.w).frames
          ∧ (∀ g, (t.frag x.c x.w g).heldTrap = true → g = x.g) ∧ t.mem = u.mem

/-- GCALL, GRET, ERET, SYSRD, SYSWR, TLBINV, CTXSAVE, CTXRST, DPREEMPT, MIGRATE, PAGEIN. -/
def systemRule : Instr → Option Rule
  | .gcall _ gate n => some fun x s t =>
      let k := s.warp x.c x.w
      let gt := gate.toNat
      let w (i : Nat) : Nat := (s.sysReg (0x500 + i) gt).toNat
      let bad (r : Nat) : Prop := Trapped t x cGate x.pc (gateAddr gt r)
      let nargs := fld (w 0) 1 5
      let k' := t.warp x.c x.w
      if k.frags.length ≠ 1 ∨ k.recon ≠ [] ∨ k.reconOut ≠ 0 then bad 1
      else if 4 ≤ k.gates then bad 2
      else if 32 ≤ k.frames.length then Trapped t x cWinOver x.pc 0
      else
        match s.growTo x.c x.w (k.b + n.toNat + 15) with
        | none => Trapped t x cWinOver x.pc 0
        | some a =>
          if (w 0).testBit 0 = false then bad 3
          else if (w 2).testBit (s.dsClass x.c k.dslot) = false then bad 4
          else
            match s.slotOf x.c (fld (w 0) 8 10) with
            | none => bad 5
            | some slot =>
              if s.lostIn (s.gateFrame x.c x.w k.gates) 2688 ≠ none then Trapped t x cMachineCheck x.pc 0
              else
              GoesOn t x (BitVec.ofNat 64 (fld (w 1) 0 57)) ∧ x.clock + 96 ≤ (t.frag x.c x.w x.g).stall
                ∧ Acquired t x.c k.dslot
                ∧ Placed s t (s.gateFrame x.c x.w k.gates) (s.gateBytes x.c x.w (x.pc.toNat + 8) n.toNat nargs gt)
                ∧ k'.frames = ⟨x.pc + 8, n.toNat, true, gt⟩ :: k.frames ∧ k'.gates = k.gates + 1 ∧ k'.b = k.b + n.toNat
                ∧ k'.alloc = a ∧ k'.dslot = slot ∧ (∀ i, k'.getS i = 0) ∧ (∀ i, i ≠ 0 → k'.getP i = 0) ∧ k'.nrm = 0
                ∧ k'.chk = false ∧ k'.spilled = 0 ∧ k'.spilledFrames = 0
                ∧ k'.spillPtr = BitVec.ofNat 64 (fld (w 3) 0 57)
                ∧ ∀ i l, (k'.getV (.v i)).get l
                    = if 16 ≤ i ∧ i < 16 + k.b + n.toNat + nargs then (k.getV (.v i)).get l else 0
  | .gret _ => some fun x s t =>
      let k := s.warp x.c x.w
      let no := ((k.frames.find? (·.gate)).map (·.gateNo)).getD 0
      let bad (r : Nat) : Prop := Trapped t x cGate x.pc (gateAddr no r)
      let a := s.gateFrame x.c x.w (k.gates - 1)
      let k' := t.warp x.c x.w
      if k.frags.length ≠ 1 ∨ k.recon ≠ [] ∨ k.reconOut ≠ 0 then bad 1
      else if k.spilledFrames ≠ 0 then bad 6
      else
        match k.frames with
        | [] => bad 6
        | fr :: rest =>
          if fr.gate = false then bad 6
          else if s.lostIn a 2688 ≠ none then Trapped t x cMachineCheck x.pc 0
          else
            GoesOn t x fr.pc ∧ x.clock + 96 ≤ (t.frag x.c x.w x.g).stall ∧ Acquired t x.c k.dslot ∧ t.mem = s.mem
              ∧ k'.frames = rest ∧ k'.gates = k.gates - 1 ∧ k'.b = k.b - fr.n
              ∧ (∀ i < 64, k'.getS i = BitVec.ofNat 64 (s.rdN (a + 128 + 8 * i) 8))
              ∧ (∀ i < 7, k'.getP (i + 1) = BitVec.ofNat 32 (s.rdN (a + 40 + 4 * i) 4))
              ∧ k'.nrm = BitVec.ofNat 64 (s.rdN (a + 24) 8) &&& 0x3FFFFFFFF ∧ k'.chk = decide (s.rdN (a + 32) 1 % 2 = 1)
              ∧ k'.spillPtr = BitVec.ofNat 64 (s.rdN (a + 16) 8)
              ∧ (∀ slot, s.slotOf x.c (s.rdN (a + 12) 4 % 1024) = some slot → k'.dslot = slot)
              ∧ ∀ i, ∀ l < 32, (k'.getV (.v i)).get l
                  = if i < 16 then BitVec.ofNat 32 (s.rdN (a + 640 + 128 * i + 4 * l) 4)
                    else if i < 16 + (k.b + s.rdN (a + 9) 1) then (k.getV (.v i)).get l else 0
  | .eret _ _ next => some fun x s t => Returns x s t next (.done s 0)
  | .eretSpill _ n next => some fun x s t => Returns x s t next (s.spillFrames x.c x.w x.g n.toNat)
  | .eretFill _ n next => some fun x s t => Returns x s t next (s.fillFrames x.c x.w x.g n.toNat)
  | .sysrd _ d idx no => some fun x s t =>
      let i := idx.toNat
      let n := (x.uni no).toNat % 2 ^ 32
      SystemOnly x s t (OnlyOwes x s t d (s.regLat x.c i n) (if s.sysThere i n then s.sysVal i n else 2 ^ 64 - 1))
  | .syswr _ d a idx no => some fun x s t =>
      let i := idx.toNat
      let n := (x.uni no).toNat % 2 ^ 32
      let step := writeStep i n (x.uni a) s.nextId
      SystemOnly x s t (Asked x s t d ∧ t.sys = s.sys
        ∧ if (i = 0x108 ∨ (0x120 ≤ i ∧ i ≤ 0x13F)) ∧ s.writeCheck i n = 0 then (2 * ((x.clock / 4096 + 1) * 4096 - 1) + 1, step) ∈ t.agenda
          else Due t (x.clock + s.regLat x.c i n) step)
  | .tlbinvRange _ d a => some fun x s t => Invalidates x s t d a 0
  | .tlbinvDid _ d a => some fun x s t => Invalidates x s t d a 1
  | .tlbinvPart _ d a => some fun x s t => Invalidates x s t d a 2
  | .dpreempt _ d a => some fun x s t => SystemOnly x s t <|
      let v := (x.uni a).toNat
      let did := fld v 0 10
      let core := fld v 16 8
      let all := v.testBit 31
      let cores := (if all then List.range 192 else [core]).filter fun c => !(s.fuseCore.contains c)
      if fld v 10 6 ≠ 0 ∨ fld v 24 7 ≠ 0 ∨ fld v 32 32 ≠ 0 ∨ did = 0 ∨ (all = false ∧ 192 ≤ core) then OnlyOwes x s t d 1 3
      else
        Asked x s t d ∧ (2 * x.clock + 1, Instr.contextSave (s.nextId + 1)) ∈ t.agenda
          ∧ ∃ p, FMap.get? t.preempts (s.nextId + 1) = some p ∧ p.kind = 0 ∧ p.did = did ∧ p.req = s.nextId ∧ p.todo = []
              ∧ StopsCores x s p cores
  | .ctxsave _ d a => some fun x s t => SystemOnly x s t <|
      let v := (x.uni a).toNat
      let core := fld v 0 8
      let slot := fld v 8 6
      if fld v 14 50 ≠ 0 ∨ 192 ≤ core then OnlyOwes x s t d 1 (2 ^ 63 + 3)
      else
        match s.warp? core slot with
        | none => OnlyOwes x s t d 1 (2 ^ 63 + 1)
        | some k =>
          if slot = 63 then OnlyOwes x s t d 1 (2 ^ 63 + 1)
          else
            Asked x s t d ∧ (2 * x.clock + 1, Instr.contextSave (s.nextId + 1)) ∈ t.agenda
              ∧ ∃ p, FMap.get? t.preempts (s.nextId + 1) = some p ∧ p.kind = 1 ∧ p.req = s.nextId
                  ∧ p.todo = s.groupOf core k.wg ∧ p.named = (core, k.wg)
                  ∧ StopsCores x s p ((s.groupOf core k.wg).map (·.1)).eraseDups
  | .ctxrst _ d a => some fun x s t => SystemOnly x s t <|
      let addr := (x.uni a).toNat
      let v := (x.k.getS (sNo a + 1)).toNat
      let core := fld v 0 8
      let stack := fld v 8 4
      let any := core == 0xFF
      let first := s.pathFigure (stackOf x.c) addr (s.l2Has addr)
      let lines := ((s.recChain 4 addr).map s.recLines).foldl (· + ·) 0
      if fld v 12 52 ≠ 0 ∨ (192 ≤ core ∧ any = false) ∨ (any = true ∧ 11 < stack) then OnlyOwes x s t d 2 4
      else if addr % 128 ≠ 0 then OnlyOwes x s t d 2 2
      else
        match s.restorePlan addr core stack any with
        | .error (st, early) => OnlyOwes x s t d (first + (if early then 0 else lines - 1) + 2) st
        | .ok _ =>
          Asked x s t d ∧ Due t (x.clock + first + lines) (.cwaitWorkgroupRestore (s.nextId + 1))
            ∧ ∃ r, FMap.get? t.restores (s.nextId + 1) = some r ∧ r.addr = addr ∧ r.core = core ∧ r.any = any
                ∧ r.stack = stack ∧ r.req = s.nextId
  | .migrate _ f => some fun x s t => SystemOnly x s t <|
      match s.migPlan (x.uni f.a).toNat (x.uni f.b).toNat (x.uni f.c).toNat (x.k.getS (sNo f.c + 1)).toNat with
      | none => OnlyOwes x s t f.d 1 3
      | some g =>
        if 4 ≤ (s.migs.filter fun m => m.2.src == g.src && decide (m.2.phase < 4)).length then OnlyOwes x s t f.d 1 2
        else Asked x s t f.d ∧ Due t (x.clock + 1) (.migrationCopy (s.nextId + 1))
          ∧ FMap.get? t.migs (s.nextId + 1) = some { g with id := s.nextId + 1, req := s.nextId }
  | .pagein _ f => some fun x s t =>
      let va := match f.d with
        | .s n => x.k.getS n.toNat
        | _ => 0
      let dom := s.dom x.c x.k.dslot
      let pages := ((lanesOf x.act).map fun l => x.glAddr f (offTerm f) l / 65536).eraseDups
      let tr (p : Nat) : Tr := s.translate x.c dom x.fr.walked (p * 65536) 0
      let are (st : PageSt) : List Nat := pages.filter fun p => PageSt.of (tr p) == st
      if va.toNat % 8 ≠ 0 then Trapped t x cMisalign x.pc va
      else
        match s.translate x.c dom x.fr.walked va.toNat 1 with
        | .miss => WaitsForWalks t x
        | .fault cause _ => Trapped t x cause x.pc va
        | .zeros _ => Trapped t x cNonresStore x.pc va
        | .ok _ _ _ =>
          if pages.any (fun p => tr p == .miss) then WaitsForWalks t x
          else GoesOn t x (x.pc + 8) ∧ MemSame s t ∧ SameRegs (t.warp x.c x.w) x.k
            ∧ ∃ g, FMap.get? t.pageins s.nextId = some g ∧ g.core = x.c ∧ g.dslot = x.k.dslot ∧ g.addr = va.toNat
                ∧ g.did = dom.did ∧ g.part = dom.part ∧ g.root = dom.root ∧ g.fn = s.fnOf dom.did ∧ g.resident = (are .here).length
                ∧ g.refused = (are .refused).length ∧ g.pages.map (·.page) = are .ask
                ∧ (∀ q ∈ g.pages, q.state = 0
                    ∨ (q.state = 1 ∧ ∃ n a, 1 ≤ n ∧ Due t (x.clock + n) (.priResponse s.nextId q.page a)))
                ∧ (g.pages = [] → Due t x.clock (.pageinCompletion s.nextId))
  | _ => none

/-- A register write by its rule (R330): 2 for an instance that is not there, 3 for a register that is not written, 1 where
the register's own rule refuses; else the writable bits are held, and no other register changes. -/
def RegWritten (s t : State) (idx no : Nat) (value : U64) (req : Nat) (refuse more : Prop) : Prop :=
  let c := s.writeCheck idx no
  (c ≠ 0 → Answered s req c t ∧ t.sys = s.sys)
    ∧ (c = 0 → refuse → Answered s req 1 t ∧ t.sys = s.sys)
    ∧ (c = 0 → ¬refuse → Answered s req 0 t ∧ t.sysReg idx no = maskTo idx value
        ∧ (∀ k, k ≠ sysKey idx no → FMap.get? t.sys k = FMap.get? s.sys k) ∧ more)

/-- The steps of system registers as their writes take effect (R251, R259 to R262, R323, R330, R352, R353, R409 to R420,
R422, R436, R437, R443, R448). -/
def registerRule : Instr → Option StepRule
  | .registerWrite (.sys idx no) v req => some fun s t =>
      RegWritten s t idx no v req (0x270 ≤ idx ∧ idx ≤ 0x273 ∧ s.partActive no = true) True
  | .registerWrite (.bar fn off) v req => some fun s t =>
      let page := BitVec.ofNat 64 ((2 ^ 41 - 1) * 2 ^ 16)
      let i := (off - 0x1200) / 8
      let j := (off - 0x1400) / 8
      Answered s req 0 t ∧ t.sys = s.sys
        ∧ (off = 0x1000 → (t.func fn).invva = fld v.toNat 16 41)
        ∧ (fn = 512 →
            (off = 0x1028 → t.winBase2 = v &&& BitVec.ofNat 64 ((2 ^ 34 - 1) * 2 ^ 30))
            ∧ (off = 0x1030 → t.winCtl = v.getLsbD 0)
            ∧ (off = 0x1100 → t.peerLocal = v &&& 0xFFFFFFFF)
            ∧ (0x1200 ≤ off → off < 0x1300 → off % 8 = 0 →
                FMap.get? t.routes i = some (v &&& if i % 2 = 0 then 0xFFFF1F1F else page))
            ∧ (0x1400 ≤ off → off < 0x1600 → off % 8 = 0 →
                FMap.get? t.inb j = some (v &&& if j % 4 = 0 then 0xFFFF03FF007F else if j % 4 = 2 then 0xFFFFFFFF else page))
            ∧ (off = 0x2000 → t.mailCmd = v ∧ (v = 1 → Due t s.clock .load) ∧ (v = 2 → Due t s.clock .attest)
                ∧ (v = 3 → Due t s.clock .reset))
            ∧ (0x2010 ≤ off → off < 0x3000 → off % 8 = 0 → t.mailWord (off - 0x2010) = v.toNat))
  | .sysfault k v req => some fun s t =>
      let c := s.writeCheck 0x31 k
      Answered s req c t ∧ t.sys = s.sys
        ∧ (t.stack k).sysfault = if c = 0 then (s.stack k).sysfault &&& (0xFFFF - v.toNat % 2 ^ 16) else (s.stack k).sysfault
  | .dsroot no v req => some fun s t => RegWritten s t 0x302 no v req (fld v.toNat 0 21 ≠ 0) True
  | .dshnd no v req => some fun s t => RegWritten s t 0x304 no v req False (Due t s.clock .systemHandlerEntry)
  | .l2cap no v req => some fun s t => RegWritten s t 0x601 no v req False True
  | .gateEntryWrite gate w v req => some fun s t =>
      let word (i : Nat) : Nat := if w = i then (maskTo (0x500 + w) v).toNat else (s.sysReg (0x500 + i) gate).toNat
      RegWritten s t (0x500 + w) gate v req
        (16 < fld (word 0) 1 5 ∨ fld (word 1) 0 3 ≠ 0 ∨ fld (word 3) 0 7 ≠ 0) True
  | .fctl k v req => some fun s t =>
      RegWritten s t 0x108 k v req ((v.toNat.testBit 0 = true ∧ (fld v.toNat 8 6 = 0 ∨ 32 < fld v.toNat 8 6))
        ∨ fld v.toNat 1 7 ≠ 0 ∨ fld v.toNat 14 18 ≠ 0) True
  | .ftrace k i v req => some fun s t => RegWritten s t (0x120 + i) k v req False True
  | .dscfg no v req => some fun s t =>
      let c := no / 8
      let slot := no % 8
      let w := (maskTo 0x300 v).toNat
      RegWritten s t 0x300 no v req
        (s.slotHeld c slot = true ∨ (w.testBit 63 = true
          ∧ (s.partActive (fld w 12 6) = false ∨ s.inPart (fld w 12 6) c = false
            ∨ (∃ k < 8, k ≠ slot ∧ s.dsValid c k = true ∧ s.dsDid c k = fld w 0 10)
            ∨ s.slotsBad c slot (s.dslim c slot) = true)))
        ((w.testBit 63 = true → s.dsValid c slot = false → ∃ ways, FMap.get? (t.core c).l1ways slot = some ways
              ∧ ways.length ≤ fld (s.dslim c slot) 44 5 ∧ ∀ n ∈ ways, n < 16
                ∧ ∀ k, k ≠ slot → n ∉ FMap.getD (s.core c).l1ways k [])
          ∧ (w.testBit 63 = false → s.dsValid c slot = true → FMap.get? (t.core c).l1ways slot = none
              ∧ ∀ l ∈ (t.core c).l1, l.slot ≠ slot))
  | .dslim no v req => some fun s t =>
      let c := no / 8
      let slot := no % 8
      RegWritten s t 0x301 no v req
        (s.slotHeld c slot = true ∨ (s.dsValid c slot = true ∧ s.slotsBad c slot (maskTo 0x301 v).toNat = true))
        (s.dsValid c slot = true → (∀ l ∈ (t.core c).l1, l.slot ≠ slot)
          ∧ ∃ ways, FMap.get? (t.core c).l1ways slot = some ways ∧ ways.length ≤ fld (maskTo 0x301 v).toNat 44 5)
  | .dsctx no v req => some fun s t =>
      let c := no / 8
      let slot := no % 8
      let w := maskTo 0x305 v
      RegWritten s t 0x305 no v req
        (fld w.toNat 0 7 ≠ 0 ∨ (w = 0 ∧ (s.slotHeld c slot = true ∨ s.liveRecs c slot ≠ [])))
        (slot = 0 → w ≠ 0 → (t.core c).parkHeld = [] ∧ ∀ r ∈ (s.core c).parkHeld, r.1 ∈ (t.core c).pendingRecs)
  | .vfcfg fn v req => some fun s t =>
      let w := (maskTo 0x400 v).toNat
      let p := fld w 16 6
      let others := (List.range 512).filter fun g =>
        g != fn && (s.sysReg 0x400 g).getLsbD 63 && fld (s.sysReg 0x400 g).toNat 16 6 == p
      let quota (g : Nat) : Nat := fld (s.sysReg 0x400 g).toNat 32 10
      RegWritten s t 0x400 fn v req
        (w.testBit 63 = true ∧ (s.partActive p = false
          ∨ fld (s.sysReg 0x274 p).toNat 0 10 < fld w 32 10 + (others.map quota).foldl (· + ·) 0
          ∨ (w.testBit 24 = false ∧ others ≠ [])
          ∨ (w.testBit 24 = true ∧ ((∃ g ∈ others, (s.sysReg 0x400 g).getLsbD 24 = false) ∨ s.sysReg 0x402 fn = 0))))
        (Due t s.clock .vfTurnEnd)
  | .pquota p v req => some fun s t =>
      let c := s.writeCheck 0x274 p
      let w := maskTo 0x274 v
      if s.begun req = true then Answered s req 0 t ∧ t.sys = s.sys
      else if c ≠ 0 then Answered s req c t ∧ t.sys = s.sys
      else if v.getLsbD 63 = true then
        if s.partRefuse p v.toNat = true then Answered s req 1 t ∧ t.sys = s.sys
        else Answered s req 0 t ∧ t.sysReg 0x274 p = w
          ∧ (s.partActive p = true → (t.part p).ways = (s.part p).ways)
          ∧ (s.partActive p = false → (t.part p).ways.length ≤ fld (s.sysReg 0x273 p).toNat 8 5
              ∧ ∀ n ∈ (t.part p).ways, n < 24 ∧ ∀ q ∈ s.otherParts p, n ∉ (s.part q).ways)
      else if s.partActive p = false then Answered s req 0 t ∧ t.sysReg 0x274 p = w
      else if s.partNamed p = true then Answered s req 1 t ∧ t.sys = s.sys
      else
        t.sysReg 0x274 p = w ∧ (t.part p).ways = [] ∧ (t.part p).reserve = []
          ∧ (∀ k, ∀ l ∈ (t.stack k).l2, l.way ∉ (s.part p).ways)
          ∧ ∃ n, 1 ≤ n ∧ Due t (s.clock + n) (.pquota p v req)
  | .stage2EntryWrite p w v req => some fun s t =>
      let idx := 0x200 + w
      let c := s.writeCheck idx p
      let word (i : Nat) : Nat := if w % 3 = i then (maskTo idx v).toNat else s.s2word p (w / 3) i
      let old := (s.part p).g2
      if c ≠ 0 then Answered s req c t ∧ t.sys = s.sys
      else if s.s2Bad (word 0) (word 1) (word 2) = true then Answered s req 1 t ∧ t.sys = s.sys
      else
        t.sysReg idx p = maskTo idx v ∧ (∀ k, k ≠ sysKey idx p → FMap.get? t.sys k = FMap.get? s.sys k)
          ∧ (t.part p).g2 = (old + 1) % 65536 ∧ t.reqs = s.reqs ∧ Due t s.clock (.stage2WriteComplete s.nextId)
          ∧ (old = 65535 → NoEntry t fun e => e.kind == 1 && e.part == p)
          ∧ ∃ r, FMap.get? t.s2writes s.nextId = some r ∧ r.req = req
              ∧ r.until_ = s.inFlight fun q _ g _ => q == p && g == old
  | .forcedown k w v req => some fun s t =>
      let idx := 0x804 + w
      let c := s.writeCheck idx k
      let value := maskTo idx v
      let u := s.setSys idx k value
      let out := (List.range 96).filter fun i => (s.stack k).linkDown.contains i || (u.sysReg (0x804 + i / 64) k).getLsbD (i % 64)
      if s.begun req = true then Answered s req 0 t ∧ t.sys = s.sys
      else if c ≠ 0 then Answered s req c t ∧ t.sys = s.sys
      else if netWhole out = false then Answered s req 1 t ∧ t.sys = s.sys
      else if s.sysReg idx k = value then Answered s req 0 t ∧ t.sys = s.sys
      else t.sysReg idx k = value ∧ (t.stack k).linkOut = out ∧ s.clock < (t.stack k).drainUntil ∧ s.clock < (t.stack k).pausedUntil
        ∧ (t.stack k).reroutes = (s.stack k).reroutes + 1 ∧ ∃ n, s.clock < n ∧ Due t n (.forcedown k w v req)
  | .stkreset k req => some fun s t =>
      let c := s.writeCheck 0x30 k
      if c ≠ 0 then Answered s req c t ∧ t.sys = s.sys
      else
        (t.stack k).ready = 0 ∧ (t.stack k).lost = [] ∧ (t.stack k).l2 = [] ∧ (t.stack k).tlb = [] ∧ (t.stack k).level = 0
          ∧ (t.stack k).linkDown = [] ∧ (t.stack k).refresh = [] ∧ t.sys = s.sys
         ∧ (t.stack k).reroutes = 0 ∧ (t.stack k).lastPause = 0 ∧ (t.stack k).lostMsgs = []
          ∧ ∀ u < 24, (s.unitMask k).testBit u = true →
              ∃ n, s.clock < n ∧ n ≤ s.clock + readyLimit ∧ Due t n (.unitReady k u)
  | _ => none

/-- The device's own steps of invalidation, migration, page requests and the system handler (R261, R264, R267 to R270,
R336, R374). -/
def systemStepRule : Instr → Option StepRule
  | .systemHandlerEntry => some fun s t =>
      ((∀ c, (s.core c).pendingRecs = []) → t = s)
        ∧ ∀ c rs rest k g, (s.cores.map (·.1)).Nodup → c ∈ s.cores.map (·.1) → (∀ d, d ≠ c → (s.core d).pendingRecs = []) →
          (s.core c).pendingRecs = rs :: rest → s.warp? c 63 = some k → k.handler = none → k.stopped = false →
          k.parked = false → s.dsHnd c 0 ≠ 0 → s.dsCtx c 0 ≠ 0 → k.enterAt = some g →
            let base := s.dsCtx c 0 + 64 * rs
            let w0 := s.rdN base 8
            let u := s.wrN base 8 (setFld w0 28 2 2)
            let f := t.frag c 63 g
            let k' := t.warp c 63
            f.pc = BitVec.ofNat 64 (s.dsHnd c 0) ∧ f.stall = s.clock + 40 ∧ f.st = .ready ∧ k'.handler = some g
              ∧ k'.serving = some rs ∧ k'.reserve = [] ∧ k'.trap.cause = fld w0 0 8 ∧ k'.trap.pc = (s.frag c 63 g).pc
              ∧ k'.trap.addr = BitVec.ofNat 64 base ∧ (t.core c).pendingRecs = rest.filter (· != rs)
              ∧ (∀ h, h ≠ g → (FMap.get? k.frags h).isSome → (t.frag c 63 h).heldTrap = true)
              ∧ ∀ a, a < s.trapFrame c 63 ∨ s.trapFrame c 63 + 1024 ≤ a → t.mem.get a = u.mem.get a
  | .stage2WriteComplete id => some fun s t =>
      match FMap.get? s.s2writes id with
      | none => t = s
      | some w =>
        if ∀ i ∈ w.until_, s.settled i = true then FMap.get? t.s2writes id = none ∧ Answered s w.req 0 t
        else Due t (s.clock + 1) (.stage2WriteComplete id) ∧ t.s2writes = s.s2writes ∧ t.mem = s.mem
  | .invalidationComplete id => some fun s t =>
      match FMap.get? s.invals id with
      | none => t = s
      | some v =>
        if ∀ i ∈ v.until_, (if v.kind = 3 then FMap.get? s.fly i = none else s.settled i = true) then
          FMap.get? t.invals id = none ∧ Answered s v.req 0 t
            ∧ t.atsDone = (if v.kind = 3 then s.atsDone ++ [v.tag] else s.atsDone)
            ∧ (∀ f, v.fn = some f → (t.func f).busy = false ∧ (t.func f).done = ((s.func f).done + 1) % 2 ^ 32)
            ∧ ∀ m, v.mig = some m → Due t s.clock (.migrationRelease m)
        else Due t (s.clock + 1) (.invalidationComplete id) ∧ t.invals = s.invals ∧ t.mem = s.mem
  | .atsInvalidationRequest page n tag => some fun s t =>
      let hit (pa : Nat) : Bool := decide (page ≤ (pa - 0x100000000000) / 65536)
        && decide ((pa - 0x100000000000) / 65536 < page + n)
      MemSame s t ∧ NoEntry t (fun e => e.kind == 4 && decide (page ≤ e.pa) && decide (e.pa < page + n))
        ∧ Due t s.clock (.invalidationComplete s.nextId)
        ∧ ∃ v, FMap.get? t.invals s.nextId = some v ∧ v.kind = 3 ∧ v.tag = tag ∧ v.fn = none ∧ v.mig = none
            ∧ v.until_ = (s.fly.filter fun f => (f.2.kind == 6 || f.2.kind == 7 || f.2.kind == 8)
                && (hit f.2.pa || f.2.accs.any fun a => hit a.pa)).map (·.1)
  | .priResponse id page answer => some fun s t =>
      match FMap.get? s.pageins id with
      | none => t = s
      | some g => (s.pageins.map (·.1)).Nodup → (g.pages.map (·.page)).Nodup →
          MemSame s t ∧ ∃ h, FMap.get? t.pageins id = some h ∧ h.addr = g.addr ∧ h.pages.map (·.page) = g.pages.map (·.page)
            ∧ (∀ q ∈ g.pages, q.page = page → q.state = 1 → { page, state := 2, answer : PageReq } ∈ h.pages)
            ∧ (∀ q ∈ g.pages, q.state = 2 → q ∈ h.pages)
            ∧ ((∀ q ∈ g.pages, q.state = 2 ∨ (q.page = page ∧ q.state = 1)) → Due t s.clock (.pageinCompletion id))
  | .pageinCompletion id => some fun s t =>
      match FMap.get? s.pageins id with
      | none => t = s
      | some g =>
        if ∃ q ∈ g.pages, q.state ≠ 2 then t = s
        else
          let u := if g.word.isSome then s else s.dropTlb fun e => g.pages.any fun q => tlbNames g.did (q.page % 2 ^ 41) 1 e
          let d := u.keptDom g.dslot g.did g.root g.part
          let here := (g.pages.filter fun q =>
            q.answer == 0 && PageSt.of (u.look (stackOf g.core) d (q.page * 65536) 0) == .here).length
          let w := g.word.getD (2 ^ 63 + (g.refused + (g.pages.length - here)) % 2 ^ 16 * 2 ^ 32
            + (g.resident + here) % 2 ^ 16 * 2 ^ 16 + g.pages.length % 2 ^ 16)
          let ended : Prop := t.mem = s.mem ∧ t.hostMem = s.hostMem ∧ FMap.get? t.pageins id = none
          WordGoes u g.core d g.addr (toBytes 8 w) false t
            (t.mem = s.mem ∧ FMap.get? t.pageins id = some { g with word := some w } ∧ Due t (s.clock + 1) (.pageinCompletion id))
            ended ended
  | .migrationCopy id => some fun s t =>
      match FMap.get? s.migs id with
      | none => t = s
      | some g => g.id = id →
        if 2 < g.phase then t = s
        else if 4 ≤ s.level g.src ∨ 4 ≤ s.level (homeOf g.newPa) then
          t.mem = s.mem ∧ t.migs = s.migs ∧ Due t ((s.clock / 4096 + 1) * 4096) (.migrationCopy id)
        else
          let line : Option Nat := if g.phase = 0 then (if g.nextLine < 512 then some g.nextLine else none) else g.todo.head?
          match line with
          | none => t.mem = s.mem ∧ Due t s.clock (if g.phase ≤ 1 then .migrationRecopyPass id else .migrationCommit id)
          | some l =>
            if s.isLost (g.oldPa + 128 * l) = true ∨ s.isLost (g.newPa + 128 * l) = true then
              t.mem = s.mem ∧ Due t s.clock (.migrationRelease id) ∧ ∃ h, FMap.get? t.migs id = some h ∧ h.phase = 3 ∧ h.nextLine = 513
            else
              Placed s t (g.newPa + 128 * l) (s.rd (g.oldPa + 128 * l) 128) ∧ Due t (s.clock + 4) (.migrationCopy id)
                ∧ ∃ h, FMap.get? t.migs id = some h ∧ h.phase = g.phase ∧ h.copied = g.copied + 1
                    ∧ h.nextLine = (if g.phase = 0 then g.nextLine + 1 else g.nextLine)
                    ∧ h.todo = (if g.phase = 0 then g.todo else g.todo.tail)
                    ∧ (g.newPa + 128 * l + 128 ≤ g.oldPa ∨ g.oldPa + 65536 ≤ g.newPa + 128 * l → l ∉ h.dirty)
  | .migrationRecopyPass id => some fun s t =>
      match FMap.get? s.migs id with
      | none => t = s
      | some g => g.id = id →
        if 1 < g.phase then t = s
        else t.mem = s.mem ∧
          if (g.phase = 0 ∧ g.dirty ≠ []) ∨ (g.phase = 1 ∧ 16 < g.dirty.length ∧ g.pass < 4) then
            Due t s.clock (.migrationCopy id)
              ∧ FMap.get? t.migs id = some { g with phase := 1, pass := g.pass + 1, todo := ascending g.dirty }
          else Due t s.clock (.migrationHold id) ∧ t.migs = s.migs
  | .migrationHold id => some fun s t =>
      match FMap.get? s.migs id with
      | none => t = s
      | some g => g.id = id →
        if 1 < g.phase then t = s
        else t.mem = s.mem ∧ Due t s.clock (.migrationCopy id)
          ∧ FMap.get? t.migs id = some { g with phase := 2, todo := ascending g.dirty }
  | .migrationCommit id => some fun s t =>
      match FMap.get? s.migs id with
      | none => t = s
      | some g => g.id = id →
        if g.phase ≠ 2 then t = s
        else g.dirty = [] →
          ∃ h, FMap.get? t.migs id = some h ∧ h.phase = 3
            ∧ if s.isLost g.entryPa = true then t.mem = s.mem ∧ h.nextLine = 513 ∧ Due t s.clock (.migrationRelease id)
              else if s.rdN g.entryPa 8 ≠ g.expected.toNat then
                t.mem = s.mem ∧ h.committed = g.committed ∧ Due t s.clock (.migrationRelease id)
              else
                Placed s t g.entryPa (toBytes 8 (setFld g.expected.toNat 12 45 (g.newOa / 4096))) ∧ h.committed = true
                  ∧ NoEntry t (tlbNames g.did g.vpage 1) ∧ (∀ c, ∀ l ∈ (t.core c).l1, l.pa / 65536 ≠ g.oldPa / 65536)
                  ∧ ∃ i v, FMap.get? t.invals i = some v ∧ v.mig = some id ∧ Due t (s.clock + 1) (.invalidationComplete i)
  | .migrationRelease id => some fun s t =>
      match FMap.get? s.migs id with
      | none => t = s
      | some g => g.id = id →
        if g.phase = 4 then
          if ∃ i ∈ g.held, ∃ f, FMap.get? s.fly i = some f ∧ f.performed = false then
            MemSame s t ∧ t.migs = s.migs ∧ Due t (s.clock + 1) (.migrationRelease id)
          else MemSame s t ∧ FMap.get? t.migs id = none
        else if g.phase ≠ 3 then t = s
        else
          FMap.get? t.migs id = some { g with phase := 4 } ∧ Due t (s.clock + 1) (.migrationRelease id)
            ∧ Answered s g.req ((if g.nextLine = 513 then 4 else if g.committed then 0 else 1) + g.pass * 2 ^ 8
                + g.copied % 2 ^ 16 * 2 ^ 16) t
            ∧ ((∀ p ∈ s.fly, p.2.id = p.1) → g.held.Nodup → ∀ i ∈ g.held, ∀ f, FMap.get? s.fly i = some f → f.phase ≠ 7 →
                ∃ y, FMap.get? t.fly i = some y ∧ y.phase = 0 ∧ y.pa = (if g.committed = true ∧ f.kind ≠ 18 then g.moved f.pa else f.pa)
                  ∧ s.clock ≤ y.arrives ∧ Due t y.arrives (.homeArrival i))
  | _ => none

/-! The host, the peers, the package (R251, R266, R337, R347 to R354, R386 to R388, R433, R435, R437 to R440, R443, R444, R447 to
R457). -/

/-- A packet leaves a port, in a frame to its destination's MAC with LOCAL's Ethertype (R448, R449). -/
def Emits (s t : State) (port : Nat) (p : Packet) : Prop :=
  t.outPackets = s.outPackets ++ [(port, { p with
    mac := 0x02CE00000000 + p.dst % 2 ^ 16, etype := fld s.peerLocal.toNat 16 16, len := p.data.length })]

/-- A packet that has no effect (R449): a reserved byte that is not 0; a payload not as long as its header says, not of whole words, or
longer than 256 bytes (the model's reading, log 19). -/
abbrev Unfit (p : Packet) : Prop := p.rsvd ≠ 0 ∨ p.len ≠ p.data.length ∨ p.len % 4 ≠ 0 ∨ 256 < p.len

/-- A request of a peer comes in (R449 to R451): it is discarded, answered again, dropped as out of order, refused, or on its
way to its home. -/
def Inbound (s t : State) (port : Nat) (p : Packet) (size code : Nat) (write hostOk : Bool) (accs : List LaneAcc)
    (bytes : List Byte) : Prop :=
  let l := s.link port p.src
  if Unfit p ∨ size = 0 ∨ 256 < size ∨ 256 < p.addr % 256 + size then t = s
  else
    match l.record.find? fun r => r.1 == p.seq with
    | some r => MemSame s t ∧ t.fly = s.fly ∧ t.links = s.links ∧ Emits s t port r.2
    | none =>
      if p.seq ≠ l.expect then t = s
      else
        MemSame s t ∧ (t.link port p.src).expect = (l.expect + 1) % 2 ^ 32
          ∧ match s.inbPlace p write hostOk with
            | .error e => ∃ q, q.kind = 7 ∧ q.op = e ∧ q.dst = p.src ∧ q.seq = p.seq ∧ q.tag = p.tag ∧ t.fly = s.fly
                ∧ Emits s t port q ∧ (p.seq, q) ∈ (t.link port p.src).record
            | .ok (o, did, part, _) =>
              (s.nextId, p) ∈ (t.link port p.src).inq ∧ t.outPackets = s.outPackets
                ∧ ∃ f, FMap.get? t.fly s.nextId = some f ∧ f.kind = 15 ∧ f.pa = o.pa ∧ f.shrd = o.shrd ∧ f.did = did ∧ f.part = part
                    ∧ f.size = size ∧ f.code = code ∧ f.accs = accs ∧ f.bytes.map (·.2) = bytes ∧ f.performed = false

/-- The bytes of a read or an atomic come back from a peer (R449, R450). -/
def BytesBack (s t : State) (port : Nat) (p : Packet) (kind : Nat) : Prop :=
  let l := s.link port p.src
  if Unfit p then t = s
  else
    match l.out.find? fun o => o.1 == p.seq && o.2.1.kind == kind with
    | none => t = s
    | some o =>
      MemSame s t ∧ (t.link port p.src).out = l.out.filter (fun q => q.1 != p.seq)
        ∧ match FMap.get? s.fly o.2.2.2 with
          | none => t.fly = s.fly
          | some f => f.id = o.2.2.2 → ∃ g, FMap.get? t.fly f.id = some g ∧ g.performed = true
              ∧ g.bytes.map (·.2) = p.data.take f.size ∧ g.op = f.op ∧ Due t s.clock (.lineRequestAnswer f.id)

/-- A link that was up goes down and trains for a time. -/
def Retrains (s t : State) (k bit : Nat) : Prop :=
  (t.stack k).ready.getLsbD bit = false
    ∧ ((s.stack k).ready.getLsbD bit = true → ∃ n, 1 ≤ n ∧ Due t (s.clock + n) (.unitReady k bit))

/-- A saturating counter of R453 after some events. -/
def Counted (s t : State) (idx k n : Nat) : Prop :=
  FMap.getD t.counters (idx * 2 ^ 20 + k) 0 = min (FMap.getD s.counters (idx * 2 ^ 20 + k) 0 + n) (2 ^ 64 - 1)

/-- The level a sample gives a stack, by entry, hold and two samples below hold (R348, R349, R353). -/
def SampledLevel (s t : State) (k : Nat) : Prop :=
  let a := s.stack k
  let b := t.stack k
  let forced := (s.sysReg 0x108 k).getLsbD 0
  let used := if forced then s.forcedReading k (s.clock / 4096) else a.sensors
  let d := dramMax used
  let trip : Prop := 1920 < sensor a.sensors 0 ∨ 1680 < dramMax a.sensors
  let up := entryLevel used (if a.sampled then sextN 16 a.dprev.toNat else d)
  let hold := holdLevel used
  b.reading = used ∧ b.real = a.sensors ∧ b.frc = forced ∧ b.dprev = BitVec.ofInt 16 d
    ∧ (trip → a.level ≤ 4 → b.level = 4)
    ∧ (¬trip → b.level = if a.level < up then up else if a.level ≤ hold ∨ a.low = false then a.level else hold)
    ∧ b.thFrom = s.clock ∧ (a.level ≤ 4 → Counted s t (0x710 + a.level) k (s.clock - a.thFrom))
    ∧ (¬trip → b.low = decide (¬a.level < up ∧ ¬a.level ≤ hold ∧ a.low = false))

/-- Steps of the host, the peers and the package. -/
def packageRule : Instr → Option StepRule
  | .rdreq port p => some fun s t => Inbound s t port { p with kind := 1 } (ofBytes (p.data.take 4)) 99 false true [] []
  | .write port p => some fun s t => Inbound s t port { p with kind := 3 } p.data.length 0 true true [] p.data
  | .mrwrite port p => some fun s t => Inbound s t port { p with kind := 9 } p.data.length 0 true true [] p.data
  | .atomic port p => some fun s t =>
      let cas := decide (p.op = 0x10)
      let n := if cas then p.data.length / 2 else p.data.length
      let good := (n = 4 ∨ n = 8) ∧ (cas = true ∨ p.op < 13) ∧ p.addr % n = 0
      Inbound s t port { p with kind := 4 } (if good then n else 0) (if cas then 16 else p.op) true
        (cas || p.op == 0 || p.op == 8)
        [{ lane := 0, pa := 0, va := 0, kind := 0, data := p.data.take n, new := p.data.drop n, pass := 0 }] []
  | .rdresp port p => some fun s t => BytesBack s t port p 1
  | .atomresp port p => some fun s t => BytesBack s t port p 4
  | .ack port p => some fun s t =>
      let l := s.link port p.src
      let done (o : Nat × Packet × Nat × Nat) : Bool :=
        (o.2.1.kind == 3 || o.2.1.kind == 8) && decide ((p.seq + 2 ^ 32 - o.1) % 2 ^ 32 < 2 ^ 31)
      if Unfit p then t = s
      else
        MemSame s t ∧ (t.link port p.src).out = l.out.filter (fun o => !done o)
          ∧ ∀ o ∈ l.out, done o = true → (∀ m ∈ t.links, ∀ q ∈ m.out, q.2.2.2 ≠ o.2.2.2) → FMap.get? t.fly o.2.2.2 = none
  | .nak port p => some fun s t =>
      let l := s.link port p.src
      if Unfit p then t = s
      else
        match l.out.find? fun o => o.1 == p.seq with
        | none => t = s
        | some o =>
          (t.link port p.src).out = l.out.filter (fun q => q.1 != p.seq)
            ∧ ∀ f, FMap.get? s.fly o.2.2.2 = some f →
                let doneWord := f.kind = 12 ∧ f.op = 0 ∧ f.uid = 0
                (doneWord → Counted s t 0x707 0 1 ∧ FMap.get? t.fly o.2.2.2 = none ∧ t.mem = s.mem)
                  ∧ (f.kind = 11 ∨ (f.op = 0 ∧ ¬doneWord) →
                      t.dropped = s.dropped ++ [(f.by_, f.va)] ∧ FMap.get? t.fly o.2.2.2 = none ∧ t.mem = s.mem)
                  ∧ (f.kind ≠ 11 → f.op ≠ 0 → ∀ op, FMap.get? s.loads f.op = some op → op.id = f.op → 2 ≤ op.left →
                      FMap.get? t.loads f.op
                        = some { op with failed := op.failed ++ f.accs.map (·.lane), left := op.left - 1 })
  | .transportPacketDiscard _ _ => some fun s t => t = s
  | .peerRetransmit port peer seq => some fun s t =>
      let l := s.link port peer
      match l.out.find? fun o => o.1 == seq with
      | none => t = s
      | some o =>
        if o.2.2.1 < 8 then
          MemSame s t ∧ Emits s t port o.2.1 ∧ Due t (s.clock + 65536) (.peerRetransmit port peer seq)
            ∧ (t.link port peer).out = l.out.map (fun q => if q.1 = seq then (q.1, q.2.1, q.2.2.1 + 1, q.2.2.2) else q)
        else (t.link port peer).down = true ∧ (t.link port peer).out = []
  | .bar2Access wr off size v => some fun s t =>
      let pa := s.winBase2.toNat + off
      if s.winCtl = false ∨ 2 ^ 30 < off + size ∨ 2 ≤ s.region pa then
        if wr then t = s else MemSame s t ∧ t.hostGot = s.hostGot ++ [(pa, List.replicate size 0xFF)]
      else
        MemSame s t ∧ ∃ f, FMap.get? t.fly s.nextId = some f ∧ f.kind = (if wr then 14 else 13) ∧ f.pa = pa ∧ f.size = size
          ∧ f.did = 0 ∧ f.performed = false ∧ (wr = true → f.bytes.map (·.2) = toBytes size v.toNat)
  | .invcnt fn n => some fun s t =>
      let u := s.func fn
      let did := fld (s.sysReg 0x400 fn).toNat 0 10
      MemSame s t ∧ if u.busy = true then t.func fn = { u with lost := true } ∧ t.invals = s.invals
        else if n = 0 then t.func fn = { u with done := (u.done + 1) % 2 ^ 32 } ∧ t.invals = s.invals
        else t.func fn = { u with busy := true } ∧ NoEntry t (tlbNames did u.invva n.toNat)
          ∧ Due t (s.clock + 1) (.invalidationComplete s.nextId)
          ∧ ∃ v, FMap.get? t.invals s.nextId = some v ∧ v.fn = some fn ∧ v.kind = 0
  | .invstatLostClear fn => some fun s t => MemSame s t ∧ t.func fn = { s.func fn with lost := false }
  | .linkFailure k link => some fun s t =>
      if 96 ≤ link ∨ link ∈ (s.stack k).linkDown then t = s
      else link ∈ (t.stack k).linkDown ∧ link ∈ (t.stack k).linkOut ∧ (t.stack k).reroutes = (s.stack k).reroutes + 1
        ∧ s.clock < (t.stack k).pausedUntil
  | .linkRetrain k kind => some fun s t =>
      MemSame s t ∧ (kind = 0 → Retrains s t k 4 ∧ Retrains s t ((k + 11) % 12) 5)
        ∧ (kind = 1 → Retrains s t k 5 ∧ Retrains s t ((k + 1) % 12) 4)
        ∧ (kind = 2 → Retrains s t k 6) ∧ (2 < kind → Retrains s t k 7)
  | .unitReady k u => some fun s t =>
      if 12 ≤ k ∨ 24 ≤ u ∨ (s.unitMask k).testBit u = false
          ∨ (13200000000 ≤ s.clock ∧ (s.stack k).seen.getLsbD u = false) then t = s
      else
        (t.stack k).ready = (s.stack k).ready ||| BitVec.ofNat 64 (2 ^ u) ∧ (t.stack k).seen.getLsbD u = true
          ∧ (u = 0 → ∀ id r, s.reqs = [(id, r)] → r.idx = 0x30 → r.no = k → r.status = 255 → Answered s id 0 t)
  | .readyTimeout => some fun s t =>
      MemSame s t ∧ ∀ k < 12, Counted s t 0x709 k
        ((List.range 24).filter fun u => (s.unitMask k).testBit u && !((s.stack k).seen.getLsbD u)).length
  | .load => some fun s t =>
      let image := s.hostMem.read (s.mailWord 0) (s.mailWord 8)
      let good := Config.shake256 (Config.imageKey image) = Config.vendorKeyDigest
        ∧ Config.mlDsaVerify (Config.imageKey image) (Config.imageSigned image) (Config.imageSignature image) = true
        ∧ Config.imageDigest image = Config.shake256 (Config.imageBody image)
      let new := s.minVersion ≤ Config.imageVersion image
      t = if ¬good then { s with mailStatus := 1 }
        else if ¬new then { s with mailStatus := 2 }
        else { s with mailStatus := 0, staged := some image, minVersion := Config.imageVersion image }
  | .attest => some fun s t =>
      let nonce := (s.mailBuf ++ List.replicate 32 0).take 32
      let fields := nonce ++ toBytes 8 (s.sysVal 0 0) ++ toBytes 8 (s.sysVal 1 0)
        ++ toBytes 64 (Config.shake256 (s.fuseMap.flatMap fun w => toBytes 8 w.toNat)).toNat
        ++ toBytes 64 (Config.imageDigest s.running).toNat ++ toBytes 8 (Config.imageVersion s.running)
      let report := (fields ++ Config.attestSign (Config.shake256 fields)).take 4080
      t.mailBuf.take report.length = report ∧ t.mailBuf.drop report.length = s.mailBuf.drop report.length
        ∧ t = { s with mailBuf := t.mailBuf }
  | .reset => some fun s t => if s.mailWord 0 < 12 then MemSame s t ∧ Due t s.clock (.stkreset (s.mailWord 0) 0) else t = s
  | .packageReset => some fun s t =>
      t.clock = 0 ∧ (∀ k, (t.stack k).ready = 0) ∧ t.cores = [] ∧ t.sys = [] ∧ t.mem = [] ∧ t.grids = [] ∧ t.hostMem = s.hostMem
        ∧ t.fuseCore = s.fuseCore ∧ t.fuseSlice = s.fuseSlice ∧ t.fuseChan = s.fuseChan ∧ t.minVersion = s.minVersion
        ∧ t.running = s.staged.getD s.running ∧ t.agenda = State.reset.agenda
        ∧ (∀ k < 12, Counted s t (0x710 + (s.stack k).level) k (s.clock - (s.stack k).thFrom))
        ∧ ∀ key, (∀ k < 12, key ≠ (0x710 + (s.stack k).level) * 2 ^ 20 + k) → FMap.getD t.counters key 0 = FMap.getD s.counters key 0
  | .counterWriteback => some fun s t =>
      MemSame s t ∧ t.counters = s.counters ∧ t.nvCounters = s.counters ∧ Due t (s.clock + 3300000000) .counterWriteback
  | .patrolScrub => some fun s t => t = s
  | .correctedError k kind => some fun s t =>
      if 12 ≤ k then t = s else MemSame s t ∧ Counted s t (if kind = 0 then 0x700 else 0x701) k 1
  | .uncorrectableError place => some fun s t =>
      let marks (c w : Nat) (r : Reg) : Prop :=
        match s.warp? c w with
        | none => t = s
        | some k => r ∈ (t.warp c w).bad ∧ (∀ q ∈ k.bad, q ∈ (t.warp c w).bad) ∧ Counted s t 0x702 (stackOf c) 1 ∧ MemSame s t
      match place with
      | .l1Line c pa => MemSame s t ∧ (∀ l ∈ (t.core c).l1, l.pa ≠ lineOf pa) ∧ Counted s t 0x702 (stackOf c) 1
      | .cleanL2 pa =>
        match s.l2Find pa with
        | none => t = s
        | some l => l.dirty = false → MemSame s t ∧ t.l2Find pa = none ∧ Counted s t 0x702 (homeOf pa) 1
      | .vreg c w i => marks c w (.v i)
      | .reserve c w i => marks c w (.rsv i)
      | .sreg c w i => marks c w (.s i)
      | .preg c w i => marks c w (.p i)
      | .scale c w i => marks c w (.x i)
      | .tile c w i => marks c w (.t i)
      | .scratch c word => word ∈ (t.core c).badScratch ∧ Counted s t 0x702 (stackOf c) 1
      | .latch c => if (s.quad c).latch.valid = false then t = s
          else (t.quad c).latch.valid = false ∧ Counted s t 0x702 (stackOf c) 1 ∧ t.mem = s.mem
      | .bank c b => if FMap.get? (s.quad c).stamps b = none then t = s
          else b ∈ (t.quad c).lost ∧ Counted s t 0x702 (stackOf c) 1 ∧ t.mem = s.mem
      | .line pa source =>
        let k := homeOf (lineOf pa)
        if 1 < s.region (lineOf pa) ∨ ∃ l ∈ (s.stack k).lost, l.1 = lineOf pa then t = s
        else if 64 ≤ (s.stack k).lost.length then (t.stack k).lost = (s.stack k).lost ∧ Counted s t 0x703 k 1
        else (∃ did, (t.stack k).lost = (s.stack k).lost ++ [(lineOf pa, did, source, [])]) ∧ Counted s t 0x702 k 1
      | .ctxRecord pa =>
        match s.ctxRecs.find? fun r => decide (r.addr ≤ pa) && decide (pa < r.addr + r.len) with
        | none => t = s
        | some r => Placed s t r.addr [3] ∧ Counted s t 0x702 (homeOf r.addr) 1
  | .clocheSample => some fun s t =>
      if s.clock % 4096 ≠ 0 then t = s
      else MemSame s t ∧ ∀ k < 12, SampledLevel s t k
        ∧ let l := (t.stack k).level
          let p := if l = 0 then 12800 else if l ≤ 2 then 6400 else 3200
          l < 4 → ∀ c < 64, ∀ n, s.clock ≤ n → n < s.clock + 4096 → (n + 200 * c) % p = 0 → Due t n (.refreshStart k c)
  | .refreshStart k c => some fun s t =>
      let l := s.level k
      let p := if l = 0 then 12800 else if l ≤ 2 then 6400 else 3200
      if 4 ≤ l ∨ (s.clock + 200 * c) % p ≠ 0 then t = s
      else MemSame s t ∧ FMap.get? (t.stack k).refresh c = some (s.clock + 128) ∧ Due t (s.clock + 128) (.refreshEnd k c)
  | .refreshEnd k c => some fun s t =>
      MemSame s t ∧ ∀ r, r ∈ (t.stack k).refresh ↔ r ∈ (s.stack k).refresh ∧ (r.1 = c → s.clock < r.2)
  | _ => none

/-! What control flow, the control instructions and those of scales, formats and tiles leave alone (R20, R139 to R152, R305 to
R320). -/

/-- RSHRINK, which gives registers back; the instructions that slide the window. -/
def Instr.shrinks : Instr → Bool
  | .rshrink _ _ => true
  | _ => false
def Instr.slides : Instr → Bool
  | .call _ _ | .callx _ _ | .ret _ _ => true
  | _ => false

/-- The frame of these instructions, whether they end as they say or in a trap: no register changes at the issue; the window,
its frames and CHKMODE change only by the instructions that are about them; of memory no byte changes but, by a trap, the
warp's trap frame or its park record, and by a split the next entry of the reconvergence stack's memory; no other warp, no
scratchpad, nothing of the host changes. -/
def ControlFrame (i : Instr) (s : State) (c w g : Nat) (t : State) : Prop :=
  let k := s.warp c w
  let k' := t.warp c w
  k'.s = k.s ∧ k'.p = k.p ∧ k'.nrm = k.nrm ∧ k'.x = k.x ∧ k'.t = k.t ∧ k'.f = k.f ∧ k'.gen = k.gen
    ∧ (∀ n < k'.alloc, k'.getV (.v n) = k.getV (.v n)) ∧ (Instr.shrinks i = false → k'.v = k.v)
    ∧ (k'.handler = k.handler → k'.reserve = k.reserve)
    ∧ (Instr.slides i = false → k'.b = k.b ∧ k'.frames = k.frames) ∧ k'.spilled = k.spilled ∧ k'.gates = k.gates
    ∧ ((∀ h f, i ≠ .wrspec h f) → k'.chk = k.chk)
    ∧ OnlySends s t c w ((Instr.writes i).flatMap fun p => k.regsOf g p.1 p.2)
    ∧ t.hostMem = s.hostMem ∧ (∀ d, (t.core d).scratch = (s.core d).scratch) ∧ (∀ d, d ≠ c → t.core d = s.core d)
    ∧ (∀ w', w' ≠ w → t.warp c w' = s.warp c w')
    ∧ ∀ a, (a < s.trapFrame c w ∨ s.trapFrame c w + 640 ≤ a) →
        (a < s.dsCtx c 0 + 64 * w ∨ s.dsCtx c 0 + 64 * w + 64 ≤ a) →
        (a < s.runRegion c w + 32 * k.reconOut ∨ s.runRegion c w + 32 * k.reconOut + 32 ≤ a) → t.mem.get a = s.mem.get a

/-! Words (R19, R22, R24 to R26, R31, R35, R36, R44, R46). -/

/-- Opcodes that R44 gives no instruction. -/
def opUnassigned (n : Nat) : Prop :=
  n = 0 ∨ (0x37 ≤ n ∧ n ≤ 0x3F) ∨ (0x6B ≤ n ∧ n ≤ 0x6E) ∨ (0x79 ≤ n ∧ n ≤ 0x7F) ∨ (0x87 ≤ n ∧ n ≤ 0x8F)
    ∨ (0x99 ≤ n ∧ n ≤ 0x9F) ∨ (0xA2 ≤ n ∧ n ≤ 0xAF) ∨ 0xCA ≤ n

/-- A head without guard, with a stall field. -/
def plainHead (st : BitVec 4) : Head := ⟨0, false, st⟩

/-- Words that the spec writes out with their fields (R30, R38, R59, R123, R128, R138, R157, R172, R286, R305, R330 and the programs), with the
instruction each stands for. -/
def sampleWords : List (U64 × Instr) :=
  [(0x00810281C1000180, .iadd (plainHead 2) ⟨.v 5, .v 3, .s 2, 0, .v 0, .s32, .rne, 0⟩),
   (0xC0420480D10A040B, .pairWord 4 ⟨.iadd, 4, .v 9, 0, 3⟩ ⟨.fmul, 5, .v 2, 0, 0x0B⟩),
   (0x3000044501220004, .ld (plainHead 0) ⟨.v 8, .s 10, .v 2, .b4, .sp, .none, 0, .relaxed, 4⟩),
   (0x29207FFFFD000004, .bra ⟨2, false, 0⟩ ⟨0xFFFFFA, 4⟩),
   (0x118005058600D580, .ffma (plainHead 0) ⟨.v 10, .v 11, .v 12, 0, .v 13, .f32, .rne, 0⟩),
   (0x0F806102FFFFFFD2, .icmpi (plainHead 0) ⟨.p 2, .v 5, 0x7FFFFFD2⟩),
   (0x200003830000B550, .cvt (plainHead 0) ⟨.v 7, .v 6, .v 0, 0, .v 0, .bf16, .sr, 0⟩ .f32),
   (0x3500000000014409, .fence (plainHead 0) ⟨.v 0, .v 0, .v 0, .b1, .gl, .pk, 0, .rel, 9⟩),
   (0x349002C7F8200000, .red ⟨1, false, 0⟩ ⟨.v 5, .s 15, .zero, .b4, .gl, .none, 0, .relaxed, 0⟩),
   (0x318042C378240004, .stu (plainHead 0) ⟨.s 5, .s 6, .zero, .b4, .rsp, .none, 0, .relaxed, 4⟩),
   (0x3980007844348000, .arrwait (plainHead 0) ⟨.v 0, .zero, .s 8, .b8, .rsp, .cl, 0, .relaxed, 0⟩),
   (0x40004A4269410001, .tload (plainHead 0) ⟨.s 20, .s 4, .t 2, .s 2, 1⟩),
   (0x48800069E4780000, .mma (plainHead 0) ⟨.v 0, .t 3, .x 0, .zero, 0⟩),
   (0x5C804A68E9E40005, .xqnt (plainHead 0) ⟨.s 20, .t 1, .t 3, .x 0, 5⟩),
   (0x5B00656A80000000, .xbind (plainHead 0) ⟨.x 2, .t 5, .v 0, 0, .v 0, .dflt, .rne, 0⟩),
   (0x4B80420000000002, .mfuseKpair (plainHead 0) (.s 4)),
   (0x2E80004480000000, .sleepuntil (plainHead 0) ⟨.v 0, .s 9, .v 0, 0, .v 0, .dflt, .rne, 0⟩),
   (0x6000000000128008, .gcall (plainHead 0) 37 8),
   (0x6400000000000080, .eret (plainHead 0) 0 true),
   (0x6180414301048085, .syswr (plainHead 0) (.s 2) (.s 6) 0x0209 (.s 5))]

/-! Steps (R186, R187, R337). -/

/-- Nothing is due before an issue. -/
def State.noneDue (s : State) : Prop := s.inboxDue = none ∧ s.agendaDue (2 * s.clock) = none

/-! Translation (R255 to R260). -/

/-- A stage-1 entry as R255 reads it at a level: invalid, not present, a table, a leaf. -/
def PteIs (level e : Nat) (r : Pte) : Prop :=
  let kind := e % 4
  let mt := e / 2 ^ 6 % 4
  let oa := e / 2 ^ 12 % 2 ^ 45 * 2 ^ 12
  let block := if level = 1 then 2 ^ 30 else if level = 2 then 2 ^ 21 else 2 ^ 16
  let leaf : Prop := (kind = 2 ∧ (level = 1 ∨ level = 2)) ∨ (kind = 1 ∧ level = 3)
  let invalid : Prop :=
    e / 2 ^ 63 % 2 = 1 ∨ kind = 0 ∨ (kind ≠ 3 ∧ e / 2 ^ 8 % 16 ≠ 0) ∨ (kind = 2 ∧ (level = 0 ∨ level = 3)) ∨ (kind = 3 ∧ level = 0)
      ∨ (leaf ∧ (mt = 3 ∨ oa % block ≠ 0))
  (invalid → r = .invalid) ∧ (¬invalid → kind = 3 → r = .absent) ∧ (¬invalid → kind = 1 → level < 3 → r = .table oa)
    ∧ (¬invalid → leaf → r = .leaf oa)

/-- A leaf in use (R257, R258, R260): need 0 a read, 1 a write, 2 a fetch. -/
def LeafDone (s : State) (d : Dom) (va need level e entPa : Nat) (entWr : Bool) (entIpa oa : Nat) (r : WalkOut × State) : Prop :=
  let denied : Prop := (need = 1 ∧ e.testBit 2 = false) ∨ (need = 2 ∧ e.testBit 3 = false)
  let marks : Prop := e.testBit 4 = false ∨ (need = 1 ∧ e.testBit 5 = false)
  let e' := e ||| 2 ^ 4 ||| (if need = 1 then 2 ^ 5 else 0)
  let ipa := oa + va % levelSize level
  (denied → r = (.translation, s))
    ∧ (¬denied → marks → entWr = false → r = (.domain entIpa, s))
    ∧ (¬denied → (marks → entWr = true) →
        (marks → s.wayOf entPa = none → s.region entPa = 2 → r.2.mem = s.mem ∧ ∀ a, r.2.hostMem.get a =
            if entPa ≤ a + 2 ^ 44 ∧ a + 2 ^ 44 < entPa + 8 then BitVec.ofNat 8 (e' / 2 ^ (8 * (a + 2 ^ 44 - entPa)))
            else s.hostMem.get a)
          ∧ (marks → s.wayOf entPa ≠ none → r.2.mem = s.mem ∧ r.2.hostMem = s.hostMem)
          ∧ (marks → s.region entPa ≠ 2 → s.holder entPa ≠ none → r.2.mem = s.mem)
          ∧ (marks → s.region entPa ≠ 2 → s.holder entPa = none → ∀ a, r.2.mem.get a = if entPa ≤ a ∧ a < entPa + 8 then BitVec.ofNat 8 (e' / 2 ^ (8 * (a - entPa))) else s.mem.get a)
          ∧ (¬marks → r.2 = s)
          ∧ (r.2.stage2 d ipa = none → r.1 = if d.part = none then .translation else .domain ipa)
          ∧ ∀ o, r.2.stage2 d ipa = some o →
              if (need = 0 ∧ o.rd = false) ∨ (need = 1 ∧ o.wr = false) ∨ (need = 2 ∧ o.ex = false) then r.1 = .domain ipa
              else ∃ t, r.1 = .ok t ∧ t.va ≤ va ∧ va < t.va + t.size ∧ t.pa + (va - t.va) = o.pa ∧ t.did = d.did
                ∧ (t.w = true → e.testBit 2 = true ∧ o.wr = true) ∧ (t.x = true → e.testBit 3 = true ∧ o.ex = true))

/-- What the conditions common to all words make of one, in their order: a trap that waits for the warp's next issue (R379,
R386), no lane acting (R20), a source with an error (R386), CHKMODE (R42), a handler's bars (R369), a gate's (R325), a workgroup without scale
registers (R307), an allocation that cannot grow (R146). Of a word that none of these meets it says nothing. -/
def TurnedAway (i : Instr) (s : State) (c w g : Nat) (t : State) : Prop :=
  let s1 := s.beginIssue i c w g
  let x := Ctx.of s1 c w g (Instr.head i) (flowRule i).isSome
  match x.k.pendingFail with
  | some p => Trapped t x p.2.cause p.2.pc p.2.addr ∧ (t.warp c w).pendingFail = none
      ∧ (t.warp c w).trapFrag = if (FMap.get? x.k.frags (p.1.getD g)).isSome then p.1.getD g else g
  | none =>
    if x.actsFor i = false then GoesOn t x (x.pc + 8) ∧ SameRegs (t.warp c w) x.k ∧ MemSame s t
    else if s1.badSource x i = true then Trapped t x cMachineCheck x.pc 0
    else if x.k.chk = true ∧ s1.tooEarly x i = true then Trapped t x cStallShort x.pc 0
    else if x.k.handler.isSome = true ∧ Instr.barred i = true then Trapped t x cIllop x.pc 0x16
    else if x.k.gates ≠ 0 ∧ (Instr.namesXTF i = true ∨ Instr.engine i = true) then Trapped t x cDomain x.pc 0
    else if Instr.namesX i = true ∧ (s1.wg c x.k.wg).scales = false then Trapped t x cIllop x.pc 0x11
    else s1.cover c w (Instr.vNames i) = none → Trapped t x cWinOver x.pc 0

/-! Normal execution (R287 to R304, R179, R332 to R335, R411, R428 to R430, R445): the conditions that the spec sets on the state and
the operands, and the effect that an instruction then has. -/

/-- The conditions of a word's normal execution, on what it sees and the state, and its effect. -/
abbrev Normal := (Ctx → State → Prop) × Rule

/-- Under its conditions an instruction that issues answers a next state, and its effect stands there. -/
def Completes (table : Instr → Option Normal) : Prop :=
  ∀ (i : Instr) (n : Normal) (s : State) (c w g : Nat), table i = some n → Instr.wf i = true →
    s.issues i (Instr.head i) false c w g = true → n.1 (s.seen i (Instr.head i) false c w g) (s.opened i c w g) →
    ∃ t, exec i s = .next t ∧ n.2 (s.seen i (Instr.head i) false c w g) (s.opened i c w g) t

/-- Under its conditions a step of the device answers a next state, and its effect stands there. -/
def StepCompletes (table : Instr → Option ((State → Prop) × StepRule)) : Prop :=
  ∀ (i : Instr) (n : (State → Prop) × StepRule) (s : State), table i = some n → n.1 s → ∃ t, exec i s = .next t ∧ n.2 s t

/-- A named tile is valid, and lies in the workgroup's share (R272). -/
abbrev TileLies (x : Ctx) (s : State) (t : TReg) (f : U32) : Prop := t.valid = true ∧ t.ending f ≤ (s.wg x.c x.k.wg).scratch

/-- An operand of the array: a tile of BF16, F16 or a narrow format; scale registers only with a narrow one, each bound to the tile,
tagged with its generation, and of its format's scale type and block (R272, R277, R288). -/
def ArrayOperand (x : Ctx) (s : State) (a b : Opd) : Prop :=
  let t := x.k.getT (tNo a)
  let f := x.k.fOf t.fmt.toNat
  TileLies x s t f ∧ (t.fmt.toNat = 9 ∨ t.fmt.toNat = 10 ∨ 16 ≤ t.fmt.toNat)
    ∧ ∀ j, b = .x j →
        let count := t.rows.toNat * t.cols.toNat / (NFmt.of f).blk
        let n := ceilDiv count 1024
        16 ≤ t.fmt.toNat ∧ 0 < n ∧ count ≤ 8192 ∧ j.toNat + n ≤ 8
          ∧ ∀ i < n, let y := x.k.getX (j.toNat + i)
              y.bnd = true ∧ y.tix.toNat = tNo a ∧ y.tag = t.gen ∧ y.sfmt = (NFmt.of f).e4m3 ∧ y.blk = (NFmt.of f).blk32

/-- Those banks carry the issuer's stamp. -/
def Stamped (x : Ctx) (s t : State) (cores : List Nat) (named : Nat → Bool) : Prop :=
  ∀ c ∈ cores, ∀ b < 4, named b = true → FMap.get? (t.quad c).issued.stamps b = some (s.dsDid x.c x.k.dslot)

/-- MFUSE: 0 dissolves, 1 to 3 form a group, on the core that leads it and with a workgroup of the issuer's cluster group on each
member; a quadrant that is in a group already, or in none to dissolve, changes nothing and gets 1 (R290). -/
def fuseNormal (mode : Nat) (d : Opd) : Normal :=
  (fun x s => NoFollower x s
      ∧ (mode = 1 → x.c % 4 = 0 ∨ x.c % 4 = 2) ∧ (mode = 2 → x.c % 4 = 0 ∨ x.c % 4 = 1) ∧ (mode = 3 → x.c % 4 = 0)
      ∧ (mode ≠ 0 → ∀ c ∈ membersOf mode x.c, (s.groupOn x c).isSome),
   fun x s t =>
      let q := (s.quad x.c).issued
      let st := if mode = 0 then (if q.mode = 0 then 1 else 0) else if q.mode = 0 then 0 else 1
      MatrixQueued x s t 16 (fun e => e.bank = mode ∧ e.mode = q.mode ∧ e.d = d ∧ e.stat = st)
        ∧ (∀ r ∈ x.k.destRegs d 1, (t.warp x.c x.w).locked r = true)
        ∧ (st = 1 → ∀ c, (t.quad c).issued = (s.quad c).issued)
        ∧ (st = 0 → mode = 0 → ∀ c ∈ membersOf q.mode x.c, (t.quad c).issued.mode = 0)
        ∧ (st = 0 → mode ≠ 0 → ∀ c ∈ membersOf mode x.c, (t.quad c).issued.mode = mode ∧ (t.quad c).issued.leader = x.c
            ∧ (t.quad c).issued.valid = false))

/-- The words of the matrix queue, with MBATCH and MWAIT. -/
def matrixNormal : Instr → Option Normal
  | .mwld _ f => some
      (fun x s =>
        let e := f.e.toNat
        let t := x.k.getT (tNo f.a)
        let own := classOf (eBits t.fmt.toNat (x.k.fOf t.fmt.toNat))
        let cls := if fld e 7 2 = 0 then own else fld e 7 2 - 1
        NoFollower x s ∧ fld e 5 2 < (membersOf (s.quad x.c).issued.mode x.c).length ∧ ArrayOperand x s f.a f.b ∧ cls ≤ own
          ∧ t.rows.toNat = shapeN e ∧ t.cols.toNat = shapeK cls e,
       fun x s t =>
        let e := f.e.toNat
        let m := fld e 5 2
        let mode := (s.quad x.c).issued.mode
        let d := x.k.getT (tNo f.a)
        let cls := if fld e 7 2 = 0 then classOf (eBits d.fmt.toNat (x.k.fOf d.fmt.toNat)) else fld e 7 2 - 1
        let q := (t.quad ((membersOf mode x.c).getD m x.c)).issued
        MatrixQueued x s t 10 (fun o => o.ta = d ∧ o.fa = x.k.fOf d.fmt.toNat ∧ o.member = m ∧ o.cls = cls ∧ o.k = shapeK cls e
            ∧ o.n = shapeN e ∧ o.mode = mode)
          ∧ q.valid = true ∧ q.did = s.dsDid x.c x.k.dslot ∧ q.cls = cls ∧ q.k = shapeK cls e ∧ q.n = shapeN e)
  | .mma _ f => some
      (fun x s =>
        let e := f.e.toNat
        let q := (s.quad x.c).issued
        let t := x.k.getT (tNo f.a)
        let k := shapeK q.cls e
        let n := shapeN e
        let rows := t.rows.toNat
        ArrayGranted x s ∧ NoFollower x s
          ∧ (q.mode ≠ 0 → (fld e 3 2 = 3 ↔ fusedK q.mode = true) ∧ (fld e 1 2 = 3 ↔ fusedN q.mode = true))
          ∧ ArrayOperand x s f.a f.b ∧ (if e % 2 = 1 then 1 ≤ rows ∧ rows ≤ 16 else 16 ≤ rows ∧ rows ≤ 256)
          ∧ q.cls ≤ classOf (eBits t.fmt.toNat (x.k.fOf t.fmt.toNat)) ∧ t.cols.toNat = k
          ∧ (∀ c ∈ membersOf q.mode x.c, let l := (s.quad c).issued
              l.valid = true ∧ l.did = s.dsDid x.c x.k.dslot ∧ l.cls = q.cls
                ∧ l.k = (if fusedK q.mode = true then k / 2 else k) ∧ l.n = if fusedN q.mode = true then n / 2 else n)
          ∧ OwnBanks x s (receiversOf q.mode x.c) (· == fld e 5 2)
          ∧ (if f.c.isZero = true then 0 else (x.uni f.c).toNat % 256) + (if e % 2 = 1 then 16 else rows) ≤ 256,
       fun x s t =>
        let e := f.e.toNat
        let q := (s.quad x.c).issued
        let d := x.k.getT (tNo f.a)
        MatrixQueued x s t 11 (fun o => o.ta = d ∧ o.bank = fld e 5 2 ∧ o.cls = q.cls ∧ o.mode = q.mode ∧ o.k = shapeK q.cls e
            ∧ o.n = shapeN e ∧ o.m = (if e % 2 = 1 then 16 else d.rows.toNat)
            ∧ o.row0 = if f.c.isZero = true then 0 else (x.uni f.c).toNat % 256)
          ∧ Stamped x s t (receiversOf q.mode x.c) (· == fld e 5 2))
  | .mread _ f => some
      (fun x s =>
        let e := f.e.toNat
        let q := (s.quad x.c).issued
        let t := x.k.getT (tNo f.a)
        NoFollower x s ∧ TileLies x s t (x.k.fOf t.fmt.toNat) ∧ t.cols.toNat ≤ (if fusedN q.mode = true then 256 else 128)
          ∧ (if f.c.isZero = true then 0 else (x.uni f.c).toNat % 256) + t.rows.toNat ≤ 256
          ∧ (t.fmt.toNat = 9 ∨ t.fmt.toNat = 10 ∨ t.fmt.toNat = 11) ∧ OwnBanks x s (receiversOf q.mode x.c) (· == fld e 5 2),
       fun x s t =>
        let e := f.e.toNat
        let q := (s.quad x.c).issued
        let d := x.k.getT (tNo f.a)
        MatrixQueued x s t 12 (fun o => o.ta = d ∧ o.bank = fld e 5 2 ∧ o.mode = q.mode ∧ o.m = d.rows.toNat ∧ o.n = d.cols.toNat
            ∧ o.flag = e.testBit 7 ∧ o.row0 = if f.c.isZero = true then 0 else (x.uni f.c).toNat % 256)
          ∧ Stamped x s t (receiversOf q.mode x.c) (· == fld e 5 2))
  | .mzero _ f => some
      (fun x s => ArrayGranted x s ∧ NoFollower x s ∧ OwnBanks x s (membersOf (s.quad x.c).issued.mode x.c) f.e.toNat.testBit,
       fun x s t =>
        let mode := (s.quad x.c).issued.mode
        MatrixQueued x s t 13 (fun o => o.bank = f.e.toNat % 16 ∧ o.mode = mode)
          ∧ Stamped x s t (membersOf mode x.c) f.e.toNat.testBit)
  | .mhad _ f => some
      (fun x s =>
        let a := x.k.getT (tNo f.a)
        let b := x.k.getT (tNo f.b)
        NoFollower x s ∧ TileLies x s a (x.k.fOf a.fmt.toNat) ∧ TileLies x s b (x.k.fOf b.fmt.toNat) ∧ (a.fmt.toNat = 9 ∨ a.fmt.toNat = 10 ∨ a.fmt.toNat = 11)
          ∧ (b.fmt.toNat = 9 ∨ b.fmt.toNat = 10 ∨ b.fmt.toNat = 11) ∧ a.rows = b.rows ∧ a.cols = b.cols
          ∧ a.cols.toNat % (16 * 2 ^ (f.e.toNat % 4)) = 0,
       fun x s t => MatrixQueued x s t 14 fun o => o.ta = x.k.getT (tNo f.a) ∧ o.tb = x.k.getT (tNo f.b)
          ∧ o.m = (x.k.getT (tNo f.a)).rows.toNat ∧ o.n = 16 * 2 ^ (f.e.toNat % 4))
  | .mrelease _ f => some
      (NoFollower,
       fun x s t =>
        let mode := (s.quad x.c).issued.mode
        MatrixQueued x s t 15 (fun o => o.mode = mode ∧ o.flag = f.e.getLsbD 0)
          ∧ ∀ c ∈ membersOf mode x.c, (t.quad c).issued.valid = false ∧ (f.e.getLsbD 0 = true → (t.quad c).issued.stamps = []))
  | .mfuseNone _ d => some (fuseNormal 0 d)
  | .mfuseNpair _ d => some (fuseNormal 1 d)
  | .mfuseKpair _ d => some (fuseNormal 2 d)
  | .mfuseQuad _ d => some (fuseNormal 3 d)
  | .mbatch _ f => some
      (fun _ _ => True,
       fun x s t =>
        let n := x.k.batch + 1
        GoesOn t x (x.pc + 8) ∧ MemSame s t ∧ (t.warp x.c x.w).batch = n
          ∧ (∀ e ∈ (t.core x.c).ops, e.uid = x.k.uid → e.isCopy = false → e.batch ≠ 0)
          ∧ (∀ e ∈ (s.core x.c).ops, e.uid = x.k.uid → e.isCopy = false → e.batch = 0 → { e with batch := n } ∈ (t.core x.c).ops)
          ∧ ∀ m, f.d = .s m → OwesReg t x (.s m.toNat) (BitVec.allOnes 32) 2 fun p => p.uni = BitVec.ofNat 64 n)
  | .mwait _ f => some
      (fun x s => ∀ e ∈ (s.core x.c).ops, e.uid = x.k.uid → e.isCopy = false → e.batch = 0 ∨ min (x.uni f.a).toNat x.k.batch < e.batch,
       fun x s t =>
        let a := (x.uni f.a).toNat
        GoesOn t x (x.pc + 8) ∧ (x.k.handler = none → MemSame s t) ∧ ∀ m, f.d = .s m →
          (t.warp x.c x.w).getS m.toNat
            = if ∃ b ∈ x.k.lostBatches, b ≠ 0 ∧ b ≤ min a x.k.batch then 2 else if x.k.batch < a then 1 else 0)
  | _ => none

/-- A copy's next part, or its end, is at hand: its walks are made, no home holds it, its lines and what it pays are there, the row port
is free, and its writes to peers are acknowledged (R205, R269, R351, R356, R425, R450). -/
def CopyMoves (s : State) (c op : Nat) : Prop :=
  ∃ o, (s.core c).op? op = some o ∧ o.started = true ∧ o.occ = s.clock ∧ o.fail = none ∧ s.level (stackOf c) < 4
    ∧ (o.cached = true → s.onTime c o = true)
    ∧ ((s.copyParts c o)[o.part]? = none → s.peerOut c o = false)
    ∧ ∀ p, (s.copyParts c o)[o.part]? = some p →
        let j := s.partNow o p
        j.miss = none
          ∧ (portCycles ((s.copyParts c o).take o.part) [p] = 0 ∨ (s.core c).rowBusy s.clock = false)
          ∧ (o.port = true
            ∨ if o.cached = true then s.partHeld (stackOf c) o.did j.reqs = none ∧ (s.payAll o.did j.reqs.reverse).isSome
              else ∀ q ∈ j.reqs, ∃ f, s.tokenOf o.id q = some f ∧ f.performed = true)

/-- The part is done; or the copy is complete, its tile bound to the scale registers that it wrote (R279, R286, R322). -/
def CopyMoved (c op : Nat) (again : Instr) : StepRule := fun s t =>
  ∀ o, (s.core c).op? op = some o →
    match (s.copyParts c o)[o.part]? with
    | some p => PartDone s t c o p again
    | none => CopyEnded s t c o none ∧ MemSame s t
        ∧ ∀ n ∈ o.xw, ((t.warp c o.slot).getX n).bnd = true ∧ ((t.warp c o.slot).getX n).tag = o.gen
            ∧ ((t.warp c o.slot).getX n).tix = BitVec.ofNat 4 o.tbi

/-- The steps of the copy engine and of the matrix queues. -/
def engineNormal : Instr → Option ((State → Prop) × StepRule)
  | .copyStart c op => some
      (fun s => ∃ o, (s.core c).op? op = some o ∧ o.isCopy = true ∧ o.started = false ∧ o.again = false
          ∧ s.beforeFirst c o = false ∧ (s.core c).opFree o = true ∧ o.issued + 8 ≤ s.clock ∧ s.level (stackOf c) < 4,
       fun s t => MemSame s t ∧ ∀ o, (s.core c).op? op = some o →
          ∃ e ∈ (t.core c).ops, e.id = op ∧ e.kind = o.kind ∧ e.started = true ∧ e.start = s.clock ∧ s.clock < e.occ
            ∧ Due t e.occ (if o.kind = 6 then .xqntComplete c op else .copyComplete c op)
            ∧ (o.cached = true → s.onTime c o = true → e.occ ≤ max (s.clock + 1) o.promise))
  | .copyComplete c op => some (fun s => CopyMoves s c op, CopyMoved c op (.copyComplete c op))
  | .xqntComplete c op => some (fun s => CopyMoves s c op, CopyMoved c op (.xqntComplete c op))
  | .copyFault c op => some
      (fun s => ∃ o f, (s.core c).op? op = some o ∧ o.fail = some f,
       fun s t => ∀ o f, (s.core c).op? op = some o → o.fail = some f → CopyEnded s t c o (some f) ∧ MemSame s t)
  | .matrixOpStart => some
      (fun s => ∃ c k o, MayStart s c k o, fun s t => ∀ c k o, MayStart s c k o → StartedNow s t c o)
  | .matrixOpRetire c op => some
      (fun s => ∃ o, (s.core c).op? op = some o ∧ o.started = true ∧ o.isCopy = false ∧ o.retire ≤ s.clock,
       fun s t => ∀ o, (s.core c).op? op = some o → RetiredNow s t c o)
  | _ => none

/-- NMEXP and NMRED in normal execution: a record and a completion record that are aligned, translated and read, room among the core's 32
commands, a record that R300 or R303 allows; the command is accepted with status 0 (R299, R390, R393). -/
def acceptNormal (kind : Nat) (d a : Opd) : Normal :=
  (fun x s => ∃ pa e n, (x.uni a).toNat % 64 = 0
      ∧ s.translate x.c (s.dom x.c x.k.dslot) x.fr.walked (x.uni a).toNat 0 = .ok pa e n ∧ s.inReduce pa = false ∧ s.isLost pa = false
      ∧ (s.core x.c).nmOut < 32 ∧ (if kind = 1 then nmexpBad (s.wordsAt pa 64).1 else nmredBad (s.wordsAt pa 64).1) = false
      ∧ nmDone kind (s.wordsAt pa 64).1 % 16 = 0
      ∧ ∃ qa f m, s.translate x.c (s.dom x.c x.k.dslot) x.fr.walked (nmDone kind (s.wordsAt pa 64).1) 1 = .ok qa f m,
   fun x s t => ∀ pa e n, s.translate x.c (s.dom x.c x.k.dslot) x.fr.walked (x.uni a).toNat 0 = .ok pa e n →
      CommandOut x s t 0 d (some (lineOf pa)) ∧ (t.core x.c).nmOut = (s.core x.c).nmOut + 1
        ∧ ∃ g lat, FMap.get? t.cmds (s.nextId + 1) = some g ∧ g.core = x.c ∧ g.dslot = x.k.dslot ∧ g.kind = kind
            ∧ g.rcd = (s.wordsAt pa 64).1 ∧ g.next = 0 ∧ g.total = nmTotal kind (s.wordsAt pa 64).1 ∧ g.err = 0
            ∧ 1 ≤ lat ∧ Due t (x.clock + lat) (.trowelItem (s.nextId + 1) 0))

def commandNormal : Instr → Option Normal
  | .nmexp _ f => some (acceptNormal 1 f.d f.a)
  | .nmred _ f => some (acceptNormal 2 f.d f.a)
  | _ => none

/-- The places of an NMEXP element: the output, its inputs, and the output again where the program reads it (R301). -/
def elementPlaces (s : State) (g : Cmd) (item : Nat) : NmGot (List EngReq) :=
  let size := nmBytes (fld g.rcd 8 5)
  let at_ (lo : Nat) : Int := ((fld g.rcd lo 57 + item * size : Nat) : Int)
  let uses (op : Nat) : Bool := (nmOps g.rcd).contains op
  s.nmPlaces g (s.nmUnit g (at_ 64)) ([(at_ 64, 1, size)] ++ (if uses 1 then [(at_ 128, 0, size)] else [])
    ++ (if uses 2 then [(at_ 192, 0, size)] else []) ++ (if uses 3 then [(at_ 64, 0, size)] else []))

/-- The places of an NMRED output element: written, and read where the command accumulates (R303). -/
def sumPlaces (s : State) (g : Cmd) (part : Nat) : NmGot (List EngReq) :=
  let a := nmOut 2 g.rcd part
  s.nmPlaces g (s.nmUnit g a) ((a, 1, 4) :: if g.rcd.testBit 14 then [(a, 0, 4)] else [])

/-- An item's last step is at hand: an element's unit is done with it and its output's line is there; or every term of a sum is read. -/
def ItemReady (s : State) (g : Cmd) (item : Nat) : Prop :=
  if g.kind = 1 then
    ∃ out ins, elementPlaces s g item = .ok (out :: ins) ∧ 2 ≤ g.stage ∧ AtHand s g.id [out] = true ∧ s.cmdBehind g out.pa = false
  else ∃ a b f u, s.nmBag g (item / max 1 (fld g.rcd 16 16)) = (.ok (a, b), f, u)
    ∧ ∀ e, a ≤ e → e < b → ∃ y ∈ FMap.getD f.terms item [], y.1 = e

/-- The steps of an accepted command: the status lands; an element is computed, or its last term read; a sum is added; the completion
record is written, whose second half ends the command (R299, R301 to R304, R393, R395). -/
def commandStepNormal : Instr → Option ((State → Prop) × StepRule)
  | .nmRecordRead id => some
      (fun s => ∃ op, FMap.get? s.loads id = some op ∧ op.id = id ∧ op.left = 0,
       fun s t => ∀ op, FMap.get? s.loads id = some op → WordLands s op op.mask.toNat t)
  | .trowelItem cmd item => some
      (fun s => ∃ g, FMap.get? s.cmds cmd = some g ∧ g.id = cmd ∧ item < g.total ∧ g.next ≤ item ∧ item ∉ g.ahead
          ∧ (∀ h ∈ s.cmds, h.2.core = g.core → h.1 < g.id → h.2.total ≤ h.2.next) ∧ ItemReady s g item,
       fun s t => ∀ g, FMap.get? s.cmds cmd = some g →
          (g.kind = 1 → ∀ out ins, elementPlaces s g item = .ok (out :: ins) → ElementWritten s g item out.pa ins t)
            ∧ (g.kind ≠ 1 → ∀ a b f u, s.nmBag g (item / max 1 (fld g.rcd 16 16)) = (.ok (a, b), f, u) →
                ∃ free, ElementSent { u with free := free } f g item (FMap.getD f.terms item []) t))
  | .trowelPartialArrival cmd part => some
      (fun s => ∃ g l out ins, FMap.get? s.cmds cmd = some g ∧ g.id = cmd ∧ FMap.get? g.partials part = some l
          ∧ sumPlaces s g part = .ok (out :: ins) ∧ AtHand s (partialOwner cmd part) [out] = true ∧ s.cmdBehind g out.pa = false,
       fun s t => ∀ g l out ins, FMap.get? s.cmds cmd = some g → FMap.get? g.partials part = some l →
          sumPlaces s g part = .ok (out :: ins) →
          SliceTakes s t out.pa (toBytes 4 (f32Sum (if g.rcd.testBit 14 = true then s.rdN out.pa 4 else 0) l))
            ∧ ∃ h, FMap.get? t.cmds cmd = some h ∧ FMap.get? h.partials part = none ∧ h.err = g.err
                ∧ (h.total ≤ h.next → h.partials = [] → ∃ n, 1 ≤ n ∧ Due t (s.clock + n) (.trowelCompletionWrite cmd)))
  | .trowelCompletionWrite cmd => some
      (fun s => ∃ g, FMap.get? s.cmds cmd = some g ∧ g.id = cmd ∧ g.total ≤ g.next ∧ g.partials = [] ∧ s.cmdShares g = false
          ∧ match g.put with
            | some n => s.underWay n = false
            | none => ∃ pa w n,
                s.translateFor g.core (s.cmdDom g) (if g.half = true then nmDone g.kind g.rcd else nmDone g.kind g.rcd + 8) 1 = .ok pa w n,
       fun s t => ∀ g, FMap.get? s.cmds cmd = some g →
          let half : Prop := t.mem = s.mem ∧ FMap.get? t.cmds cmd = some { g with half := true, put := none }
            ∧ Due t (s.clock + 1) (.trowelCompletionWrite cmd)
          let ended : Prop := t.mem = s.mem ∧ FMap.get? t.cmds cmd = none ∧ (t.core g.core).nmOut = (s.core g.core).nmOut - 1
          if g.half = false then
            if g.put.isSome then half else WordOut s g (nmDone g.kind g.rcd + 8) (toBytes 8 g.faultva) half t
          else if g.put.isSome then ended
          else WordOut s g (nmDone g.kind g.rcd) (toBytes 8 (g.skipped % 2 ^ 32 + g.err * 2 ^ 40 + 2 ^ 63)) ended t)
  | _ => none

/-- A job with one quiet workgroup left, a place for its record, and nothing of its core still to be told the system handler. -/
def SavesLast (s : State) (job : Nat) (p : Preempt) (c k a n : Nat) : Prop :=
  FMap.get? s.preempts job = some p ∧ p.id = job ∧ p.stops = [] ∧ p.todo = [(c, k)] ∧ p.kind = 1 ∧ p.named = (c, k)
    ∧ s.groupOf c k = [(c, k)] ∧ (FMap.get? (s.core c).wgs k).isSome ∧ s.quietWg c k = true ∧ (s.core c).pendingRecs = []
    ∧ s.savePlaces [(c, k)] [] = some [(c, k, a, n)]
    ∧ ∀ r, FMap.get? s.reqs p.req = some r → (s.warp r.core r.slot).handler = none

/-- Saves, restores, kicks, turns and resets of functions. -/
def contextNormal : Instr → Option ((State → Prop) × StepRule)
  | .contextSave job => some
      (fun s => (∃ p c k a n, SavesLast s job p c k a n)
          ∨ ∃ p, FMap.get? s.preempts job = some p ∧ p.id = job ∧ p.stops = [] ∧ p.todo = [] ∧ p.kind = 0,
       fun s t => FMap.get? t.preempts job = none
          ∧ (∀ p c k a n, SavesLast s job p c k a n →
              FMap.get? (t.core c).wgs k = none ∧ ∀ i b, (s.recordBytes c k 0)[i]? = some b → t.mem.get (a + i) = b)
          ∧ ∀ p, FMap.get? s.preempts job = some p → p.todo = [] → p.kind = 0 →
              Answered s p.req ((if p.found = false then 1 else if p.full then 2 else 0) + p.saved * 2 ^ 16) t)
  | .cwaitWorkgroupRestore id => some
      (fun s => ∃ r a c slot row, FMap.get? s.restores id = some r
          ∧ ({ s with restores := FMap.drop s.restores id } : State).restorePlan r.addr r.core r.stack r.any = .ok [(a, c, slot, row)],
       fun s t => FMap.get? t.restores id = none ∧ ∀ r a c slot row, FMap.get? s.restores id = some r →
          ({ s with restores := FMap.drop s.restores id } : State).restorePlan r.addr r.core r.stack r.any = .ok [(a, c, slot, row)] →
            (∀ q ∈ t.ctxRecs, q.addr ≠ a)
              ∧ ∃ g, FMap.get? (t.core c).wgs s.nextId = some g ∧ g.grid = s.rdN (a + 8) 4 ∧ g.lin = s.rdN (a + 12) 4
                  ∧ g.did = s.rdN (a + 4) 2 % 1024 ∧ g.slot = slot ∧ g.rowBase = row ∧ g.scratch = s.rdN (a + 28) 4
                  ∧ g.warps = s.rdN (a + 1) 1)
  | .kick fn off size v => some
      (fun s => fn ≤ 512 ∧ off < 4096 ∧ off % 64 = 0 ∧ size = 8 ∧ v.toNat % 128 = 0 ∧ v.toNat / 2 ^ 57 = 0 ∧ s.fnOpen fn = true
          ∧ FMap.get? (s.func fn).slots (off / 64) = none,
       fun s t => MemSame s t ∧ t.grids = s.grids ∧ FMap.get? (t.func fn).slots (off / 64) = some v
          ∧ (s.fnRuns fn = true → Due t s.clock (.kickTaken fn (off / 64)))
          ∧ (s.fnRuns fn = false → (t.func fn).pend.getLsbD (off / 64) = true ∧ Due t s.clock .vfTurnEnd))
  | .kickTaken fn slot => some
      (fun s => ∃ low va more rcd, (s.func fn).slots = (low, va) :: more ∧ s.fnRuns fn = true
          ∧ s.queueEntry (s.fnDid fn) 0 = some 0 ∧ recordBad rcd = false
          ∧ (s.domGet (s.fnDid fn) (s.fnPart fn) va.toNat 128).1 = .ok rcd,
       fun s t => ∀ low va more rcd, (s.func fn).slots = (low, va) :: more →
          (s.domGet (s.fnDid fn) (s.fnPart fn) va.toNat 128).1 = .ok rcd →
          (t.func fn).slots = more ∧ (more ≠ [] → Due t (s.clock + 1) (.kickTaken fn slot))
            ∧ ∃ g, FMap.get? t.grids s.nextLaunch = some g ∧ g.rcd = rcd ∧ g.did = s.fnDid fn ∧ g.part = s.fnPart fn
                ∧ g.fn = some fn ∧ g.depth = 0 ∧ g.next = 0)
  | .vfTurnEnd => some
      (fun s => (∀ f, (s.func f).saved = []) ∧ s.preempts = [],
       fun s t => ∀ p < 48,
          (s.sliced p = [] → (t.part p).running = none ∧ (t.part p).after = none)
            ∧ (s.sliced p ≠ [] → (s.part p).running = none → (s.part p).after = none →
                ∃ f ∈ s.sliced p, (t.part p).running = some f ∧ (t.part p).turnEnd = s.clock + (s.sysReg 0x402 f).toNat))
  | .functionLevelReset fn => some
      (fun _ => fn < 512,
       fun s t => t.sysReg 0x400 fn = s.sysReg 0x400 fn &&& 0x7FFFFFFFFFFFFFFF ∧ (t.func fn).slots = [] ∧ (t.func fn).saved = []
          ∧ (t.func fn).pend = 0 ∧ Due t s.clock .vfTurnEnd)
  | _ => none

end Sys2Proof.Machine

open Sys2Proof Sys2Proof.Machine

/-- IADD, ISUB, IMUL, IMULH, IMAD, IABS, INEG, ILEA, IDOT4, IADDI: exact, then wrapped or saturated (R98, R102, R103). -/
def Obligations.ArithmeticIsExactThenNarrowed : Prop := Follows arithRule false

/-- IDIV and IREM for every divisor and dividend (R60, R99). -/
def Obligations.DivisionTruncatesAndDivisorZeroIsAllOnes : Prop := Follows divideRule false

/-- IAND, IOR, IXOR, INOT, ISHL, ISHR, ISRA, IROT, IBFX, IBFI, IPOPC, ICLZ, IBREV, bit by bit (R104 to R107). -/
def Obligations.BitOperationsBitByBit : Prop := Follows bitsRule false

/-- ICMP, ICMPI, IMIN, IMAX, ISEL, IADDC (R95, R100, R101, R108, R109). The model's readings: the added cycle of IADDC's carry under a lane
pattern (log 32), and an untyped ISEL zero-extended into S (log 50). -/
def Obligations.ComparisonsChoicesAndCarry : Prop := Follows compareRule false

/-- MOVI, MOVHI, MOV (R111, R112). The model's reading: MOVHI to ZERO (log 50). -/
def Obligations.ConstantsAndMoves : Prop := Follows moveRule false

/-- FADD, FSUB, FMUL, FFMA, FRCP, FDIV, FSQRT, FRSQ, FEXP2, FLOG2, FSIN, FCOS, FTANH, FFRAC, FRND, FSCALE, FDOT2: the
exact result rounded once, and the generators (R70, R113, R119 to R122); the generator of an S destination is the lowest acting lane's by
the model's choice (log 50). -/
def Obligations.FloatsRoundOnce : Prop := Follows floatRule false

/-- FMIN, FMAX, FABS, FNEG, FCMP, FCLASS (R115 to R118). -/
def Obligations.FloatPatternsComparesAndClasses : Prop := Follows patternRule false

/-- Rounding a representable value gives its own pattern, in every mode and format, -0 and the infinities included (R66). -/
def Obligations.RoundingKeepsRepresentable : Prop :=
  ∀ fm ∈ [f16, bf16, f32, f64], ∀ (r : Rnd) (g : U32) (p : Nat), p < 2 ^ fm.width → (fm.decode p).isNan = false →
    fm.round r g (fm.decode p) = p

/-- CVT, QNT, DQNT, PACK, UNPK (R123 to R127). The model's choices: DQNT's block and the generator of an S destination, the zero-extension
of PACK and UNPK into S (log 50), and the generators over a block with a NaN (log 34). -/
def Obligations.ConversionsQuantisationAndPacking : Prop := Follows convertRule false

/-- LSHUF, LBCAST, LRED, LSCAN, LBALLOT, LVOTE, PLOG, PCNT (R129 to R136). The model's readings: an untyped LBCAST zero-extended into S
(log 50), and the canonical NaN of lanes of LRED and LSCAN that combine nothing (log 49). -/
def Obligations.LanesAndMasks : Prop := Follows laneRule false

/-- A pair word does what its slots' full equivalents do, both from the registers before the pair (R36 to R38, R137). -/
def Obligations.PairSlotsAreTheirFullEquivalents : Prop := Follows pairRule false

/-- Every instruction of the compute chapter, and a pair word, leaves everything but its destinations alone (R20, R93). -/
def Obligations.ComputeFrameHolds : Prop :=
  ∀ (i : Instr) (s : State) (c w g : Nat), Instr.computes i = true → Instr.wf i = true →
    s.issues i (Instr.head i) false c w g = true → ∃ t, exec i s = .next t ∧ ComputeFrame i s c w g t

/-- BRA, BRX, JOIN, CALL, CALLX, RET, EXIT (R21, R28, R141 to R144, R147, R148); reconvergence entries and frames in a lost line raise
MACHINE_CHECK by the model's reading (log 39). -/
def Obligations.FlowSplitsJoinsCallsAndExits : Prop := Follows flowRule true

/-- RDSPEC, by the table of R139, WRSPEC, RGROW, RSHRINK, YIELD, SLEEP, SLEEPUNTIL, TRAP, BKPT, NOP (R139, R140, R145, R149 to R152). The
model's choices: RGROW's status 2 before 1 (log 50), the cycles of RDSPEC (log 11). -/
def Obligations.ControlReadsGrowsSleepsAndTraps : Prop := Follows controlRule false

/-- A fixed-latency result lands in its register; a fragment passed over is promoted; a sleep and a promise end; a split
fuses; a word is fetched from the memory at the PC (R40 to R43, R143, R150, R151, R186, R188, R199, R397). The model's readings: a
fetch fault is raised when the fragment would issue the word, a missed promise when its trap can be taken (log 42), and the test of SLEEPUNTIL
comes again at the end of a cycle in which a copy ends (log 1). -/
def Obligations.CoreStepsLandWakeFuseAndFetch : Prop := Does coreStepRule

/-- A trap of a user cause, outside a handler, in a domain that has one, enters it (R366 to R368); in warp slot 63 with no context
area there is no frame to write, and that warp stops (R376). The model's readings: the slot 63 clause (log 36), and a frame in a
lost line, which this leaves out (log 39). -/
def Obligations.UserTrapEntersItsHandler : Prop :=
  ∀ (s : State) (c w g : Nat) (t : Trap), sysCause t.cause = false → (s.warp c w).handler = none →
    s.dsHnd c (s.warp c w).dslot ≠ 0 → (FMap.get? (s.warp c w).frags g).isSome →
    let u := s.takeTrap c w g t
    let noArea := w = 63 ∧ s.dsCtx c (s.warp c w).aslot = 0
    (¬noArea → s.lostIn (s.trapFrame c w) 640 = none → HandlerEntered s c w g t u)
      ∧ (noArea → (u.warp c w).stopped = true ∧ (u.warp c w).parked = true ∧ u.mem = s.mem)
      ∧ (noArea ∨ s.lostIn (s.trapFrame c w) 640 = none → (u.warp c w).trap
          = { cause := t.cause, pc := t.pc, addr := t.addr, lanes := t.lanes, done := t.done, pa := t.pa, detail := t.detail })

/-- A system cause, or a user cause inside a handler or with none, parks the warp and writes its park record (R370, R373). -/
def Obligations.SystemTrapParksTheWarp : Prop :=
  ∀ (s : State) (c w g : Nat) (t : Trap), w < 63 → t.cause ≠ cMachineCheck → t.cause < 256 → s.dsCtx c 0 ≠ 0 →
    sysCause t.cause = true ∨ (s.warp c w).handler.isSome = true ∨ s.dsHnd c (s.warp c w).dslot = 0 →
    let u := s.takeTrap c w g t
    let a := s.dsCtx c 0 + 64 * w
    (u.warp c w).parked = true ∧ (u.frag c w g).pc = t.pc
      ∧ (u.warp c w).trap
          = { cause := t.cause, pc := t.pc, addr := t.addr, lanes := t.lanes, done := t.done, pa := t.pa, detail := t.detail }
      ∧ u.rdN a 1 = t.cause ∧ u.rdN (a + 1) 1 = w ∧ u.rdN (a + 8) 8 = t.pc.toNat ∧ u.rdN (a + 16) 8 = t.addr.toNat
      ∧ u.rdN (a + 24) 4 = t.lanes.toNat ∧ u.rdN (a + 28) 4 = t.done.toNat ∧ u.rdN (a + 32) 8 = t.pa.toNat
      ∧ w ∈ (u.core c).pendingRecs ∧ (2 * s.clock, Instr.systemHandlerEntry) ∈ u.agenda
      ∧ ∀ b, b < a ∨ a + 64 ≤ b → u.rd b 1 = s.rd b 1

/-- LD, LDU, XLD: their checks, their accesses, their interlocks; nothing stored (R156 to R158, R321). -/
def Obligations.LoadsReadWhereTheirLanesPoint : Prop := Follows loadRule false

/-- ST, STU, XST: each byte goes to its lane's address, and to no other (R156, R159, R240, R245, R321). The model's readings: lanes
stay in DONELANES over a replay (log 16), and a full buffer stops an ST lane by lane, an XST as a whole (log 9). -/
def Obligations.StoresWriteWhereTheirLanesPoint : Prop := Follows storeRule false

/-- ATOM, ATOMCAS, RED: their two phases, operands and addresses (R166 to R169). -/
def Obligations.AtomicsGoOutWithTheirOperands : Prop := Follows atomicRule false

/-- FENCE, PREF, CCTL (R163, R165, R170). -/
def Obligations.FencesAndCacheControl : Prop := Follows orderRule false

/-- Accesses are performed at their homes, answers land, buffers drain, ports let requests in, in the order of R434, lines age, walks
end (R157, R158, R161, R233, R238, R245, R247, R257, R263, R266, R425, R434, R460). The model's readings: the order at a home and the drains
(log 9), walks (log 18), peers' words (log 22), a bucket's wait against R238 and a barrier on exited rows (log 50). -/
def Obligations.MemorySystemPerformsAndAnswers : Prop := Does memStepRule

/-- BARINIT, ARRIVE, WAITB, ARRWAIT, WSYNC, GSYNC at their issue (R172, R173, R176, R177). The model's choices: a barrier word in host
or peer memory, the address check before k = 0, WAITB on a not-present-managed page (log 50). -/
def Obligations.BarriersSetOutAndHold : Prop := Follows barrierRule false

/-- What a barrier word's ALU does, and how WSYNC and GSYNC end (R171, R173, R176, R177). -/
def Obligations.BarrierWordsAndReleases : Prop := Does barrierStepRule

/-- LAUNCH, CWAIT, FETCHWG at their issue (R178 to R180). The model's choices: the cycles in which d and the mailbox are written (log 11), and
what CWAIT parks, FETCHWG inside a gate (log 50). -/
def Obligations.LaunchWaitAndFetchWork : Prop := Follows workRule false

/-- A launch's record and status, mailboxes, dependences, placement, retirement, the parking of CWAIT (R178 to R180, R194,
R399 to R402). The model's choices: LAUNCHIDs ascending (log 10), a record or a word in a peer's memory (log 22). -/
def Obligations.GridsAreEnqueuedPlacedAndRetired : Prop := Does workStepRule

/-- Context saves and restores, kicks, turns, function-level reset (R179, R332, R378, R411, R428 to R430, R445). The model's readings: a
record that cannot be read counts as invalid, the first turn, restores of a turn (log 43), and those of log 40. -/
def Obligations.ContextsKicksAndTurns : Prop := Does contextStepRule

/-- TLOAD, TSTORE, TGATHER, TSCATTER, TCOPY, TFILL, XQNT, TSTAT: checks in the order of their entries, tickets, promises by the terms of R396,
and the runs of memory behind a box (R273 to R284, R322, R396). The model's readings: ticket ids and an empty transfer (log 27), a
gather's list (log 26), a record in a peer's memory (log 22). -/
def Obligations.CopiesAreCheckedAndRegistered : Prop := Follows copyRule false ∧ BoxesMapToRuns

/-- A copy starts where R285 lets it, does its work by parts, whose whole is the data that R279 to R283 and R322 move, and its record says how
it ended (R279 to R286, R322, R356, R396). The model's choices: the movement by parts (logs 25, 53), what counts as other traffic for
a promise (log 53). -/
def Obligations.CopiesStartWorkAndEnd : Prop := Does copyStepRule

/-- MWLD, MMA, MREAD, MZERO, MHAD, MRELEASE, MFUSE, MBATCH, MWAIT at their issue: the checks of R290 to R295, one by one, and the captured
operation (R287 to R297). The model's readings: slot 0 is granted nothing (log 29), the order where an entry gives none (log 30), MFUSE over
another group's member (log 57). -/
def Obligations.MatrixInstructionsAreCheckedAndQueued : Prop := Follows matrixRule false

/-- Matrix operations, fused ones too, take the cycles of R296, move their rows and leave the results of R87, R88 and R291 to R295. The
model's readings: an MMA's result after the earlier ones of its bank (R89, log 54), the steps of MREAD and MHAD, an error met by a
row, a group whose workgroup has gone (log 57). -/
def Obligations.MatrixOperationsStartAndRetire : Prop := Does matrixStepRule

/-- XMOV, XADD, XSUB, XMAX, XMIN, XCVT, XBIND, XUNBIND, XTAG, FMTSET, FMTGET, TDSET, TDGET (R305 to R320). -/
def Obligations.ScalesFormatsAndTiles : Prop := Follows scaleRule false

/-- What lands in a scale register (R307, R316 to R319). -/
def Obligations.ScaleRegistersTakeWhatLands : Prop :=
  ∀ (k : Warp) (p : Pend) (i : Nat), p.reg = .x i → XLands (k.getX i) ((k.land p.reg p.mask p.lanes p.uni).getX i) p

/-- NMEXP and NMRED at their issue (R299, R300, R303, R390, R393); a record in a peer's memory is free by the model's choice (log 22). -/
def Obligations.CommandsAreCheckedAndAccepted : Prop := Follows commandRule false

/-- A command's items, its bag sums, its completion record (R300 to R304, R393 to R395). The model's readings: faultva over the whole
command's work, the free order of items and arrivals, what an item waits for (log 24). -/
def Obligations.CommandsDoTheirItemsAndReport : Prop := Does commandStepRule

/-- GCALL, GRET, ERET with its spills and fills, SYSRD, SYSWR, TLBINV, CTXSAVE, CTXRST, DPREEMPT, MIGRATE, PAGEIN at their
issue (R164, R202, R323 to R336, R371, R372). The model's readings: a gate frame's bytes 72 to 87 (log 35), GRET's reasons and what waits
(log 36), PAGEIN's counts (log 37), lost frames (log 39), CTXRST's order and the refusals' cycle (log 40), MIGRATE's refusals (log 41). -/
def Obligations.GatesReturnsAndSystemInstructions : Prop := Follows systemRule false

/-- A spill takes the oldest frames of the code in force, never its newest, and slides the window down (R202, R371). -/
def Obligations.SpillsTakeTheOldestFrames : Prop :=
  ∀ (s u : State) (c w g n m : Nat), s.spillFrames c w g n = .done u m →
    let k := s.warp c w
    let k' := u.warp c w
    let own := k.frames.takeWhile fun f => !f.gate
    let take := min n (own.length - 1)
    let base := slides (k.frames.dropWhile fun f => !f.gate)
    m = slides (own.drop (own.length - take))
      ∧ k'.frames = own.take (own.length - take) ++ k.frames.dropWhile (fun f => !f.gate)
      ∧ k'.b = k.b - m ∧ k'.alloc = k.alloc - m ∧ k'.spilled = k.spilled + m ∧ k'.spilledFrames = k.spilledFrames + take
      ∧ ∀ i, k'.getV (.v i) = if i < 16 + base then k.getV (.v i) else k.getV (.v (i + m))

/-- Writes of system registers as they take effect: their checks, the value held, what follows (R330, R409 to R420, R436,
R437, R440, R443, R448). The model's readings: a gate word's checks, a misaligned DSROOT or DSCTX, PQUOTA's latency (log 36). -/
def Obligations.RegistersTakeTheirWritableBits : Prop := Does registerRule

/-- Stage-2 writes and invalidations end, pages migrate, page requests are answered, the system handler is entered (R261,
R264, R267 to R270, R336, R374). The model's readings: PAGEIN's counts (log 37), a migration's pace, held accesses, the device's writes in
the hold (log 41). -/
def Obligations.InvalidationsMigrationsAndTheSystemHandler : Prop := Does systemStepRule

/-- The host's and the peers' requests and answers, readiness, links, the mailbox, resets, errors, samples and refresh (R251,
R337, R347 to R354, R386, R387, R435, R437 to R439, R444, R447 to R457). The model's readings: the mailbox's schemes (log 15), packets
(log 19), BAR2, lost lines and the network's drain (log 39), readiness and resets (logs 44, 45), LOAD and ATTEST (log 46), errors'
marks (log 47). -/
def Obligations.HostPeersAndPackage : Prop := Does packageRule

/-- Control flow, control instructions, scales, formats and tiles leave every register alone at their issue, every other warp,
and every byte of memory but a trap's frame or record and the reconvergence stack's own memory (R20, R139 to R152, R197, R305). -/
def Obligations.ControlAndScaleFramesHold : Prop :=
  ∀ (i : Instr) (s : State) (c w g : Nat),
    ((flowRule i).isSome = true ∨ (controlRule i).isSome = true ∨ (scaleRule i).isSome = true) → Instr.wf i = true →
    s.issues i (Instr.head i) (flowRule i).isSome c w g = true →
    ∃ t, exec i s = .next t ∧ ControlFrame i s c w g t

/-- ZERO reads 0 and P0 all ones; LANEID, EXEC, CLOCK and THSTATE read what they name; what lands in P0 leaves every register
as it was (R20, R31). -/
def Obligations.ConstantOperandsReadAsTheyAre : Prop :=
  (∀ (x : Ctx) (ty : Ty) (l : Nat), x.pat ty .zero l = 0 ∧ x.uni .zero = 0 ∧ x.mask (.p 0) = BitVec.allOnes 32
      ∧ (l < 32 → x.cnt .laneid l = l) ∧ x.uni .exec = x.fr.exec.setWidth 64 ∧ x.uni .clock = BitVec.ofNat 64 x.clock
      ∧ x.uni .thstate = BitVec.ofNat 64 (x.th % 8))
    ∧ (∀ k : Warp, k.getP 0 = BitVec.allOnes 32)
    ∧ ∀ (k : Warp) (mask : U32) (lanes : Lanes) (uni : U64),
        SameRegs (k.land (.p 0) mask lanes uni) k ∧ (k.land (.p 0) mask lanes uni).frags = k.frags

/-- With nothing due before it, the step of a selected fragment whose word decodes is exec of that instruction, in the state with
the fragment selected, which has the same memory and still holds that word there (R18, R186, R187). -/
def Obligations.StepRunsTheDecodedInstruction : Prop :=
  ∀ (s : State) (c q w g : Nat) (word : U64) (i : Instr), s.noneDue → s.nextIssue = some (c, q, w, g) →
    (s.frag c w g).word = some word → decodeWord word = some i →
    step s = exec i (s.selectFrag c q w g) ∧ (s.selectFrag c q w g).issuer = some (c, w, g)
      ∧ (s.selectFrag c q w g).frag c w g = s.frag c w g ∧ (s.selectFrag c q w g).mem = s.mem
      ∧ (s.selectFrag c q w g).clock = s.clock ∧ (s.selectFrag c q w g).turn = 4 * c + q + 1

/-- A word that decode refuses raises ILLOP at its address and has no effect on any register (R46, R47); where the trap's
frame lies in a lost line the cause is left to R387. -/
def Obligations.RefusedWordRaisesIllop : Prop :=
  ∀ (s : State) (c q w g : Nat) (word : U64), s.noneDue → s.nextIssue = some (c, q, w, g) →
    (s.frag c w g).word = some word → decodeWord word = none →
    ∃ t, step s = .next t
      ∧ (s.lostIn (s.trapFrame c w) 640 = none → (t.warp c w).trap.cause = cIllop ∧ (t.warp c w).trap.pc = (s.frag c w g).pc
          ∧ (t.warp c w).trap.addr = 0) ∧ (t.warp c w).s = (s.warp c w).s ∧ (t.warp c w).p = (s.warp c w).p
      ∧ (t.warp c w).v = (s.warp c w).v ∧ (t.warp c w).nrm = (s.warp c w).nrm ∧ (t.warp c w).x = (s.warp c w).x
      ∧ (t.warp c w).t = (s.warp c w).t ∧ (t.warp c w).f = (s.warp c w).f ∧ (t.warp c w).b = (s.warp c w).b
      ∧ (t.warp c w).frames = (s.warp c w).frames

/-- The order of what happens in a cycle, and its passing (the model's own order, log 1; the sample every 4,096 cycles is R337's). -/
def Obligations.StepTakesWhatIsDue : Prop :=
  (∀ (s u : State) (i : Instr), s.inboxDue = some (.act i, u) → Instr.fromOutside i = true → step s = exec i u)
    ∧ (∀ (s u : State) (a : Nat) (b : List Byte), s.inboxDue = some (.hostStore a b, u) →
        step s = .next { u with hostMem := u.hostMem.write a b })
    ∧ (∀ (s u : State) (fn off n : Nat), s.inboxDue = some (.hostRead fn off n, u) →
        ∃ t, step s = .next t ∧ MemSame u t
          ∧ ((512 < fn ∨ (if fn = 512 then 0x10000 else 0x2000) < off + n) → t.hostGot = u.hostGot)
          ∧ (¬(512 < fn ∨ (if fn = 512 then 0x10000 else 0x2000) < off + n) →
              ∃ b, t.hostGot = u.hostGot ++ [(2 ^ 60 + 65536 * fn + off, b)] ∧ b.length = n
                ∧ ∀ k < n, b[k]? = some (BitVec.ofNat 8 (u.barRead fn ((off + k) / 8 * 8) / 2 ^ (8 * ((off + k) % 8))))))
    ∧ (∀ (s u : State) (i : Instr), s.inboxDue = none → s.agendaDue (2 * s.clock) = some (i, u) → step s = exec i u)
    ∧ (∀ (s u : State) (i : Instr), s.noneDue → s.nextIssue = none → s.agendaDue (2 * s.clock + 1) = some (i, u) →
        step s = exec i u.endIssue)
    ∧ ∀ s : State, s.noneDue → s.nextIssue = none → s.agendaDue (2 * s.clock + 1) = none →
        ∃ t, step s = .next t ∧ t.clock = s.clock + 1 ∧ t.turn = 0 ∧ t.issuer = none
          ∧ ((s.clock + 1) % 4096 = 0 → (2 * (s.clock + 1), Instr.clocheSample) ∈ t.agenda)

/-- Decoding the word of a well-formed instruction gives it back, every operand at every value its field admits (R19, R22 to
R28, R31, R35, R36, R44). -/
def Obligations.DecodeOfEncodeIsTheInstruction : Prop :=
  ∀ (i : Instr) (w : U64), Instr.wf i = true → encode i = some w → decodeWord w = some i

/-- A word that decode accepts is the word of the instruction it gives, and that instruction is well formed: no bit of a word
goes unread (R19, R23, R46). -/
def Obligations.AcceptedWordsAreTheirEncodings : Prop :=
  ∀ (w : U64) (i : Instr), decodeWord w = some i → Instr.wf i = true ∧ encode i = some w

/-- A full word with an opcode that no instruction has is refused (R46). -/
def Obligations.UnassignedOpcodesAreRefused : Prop :=
  ∀ w : U64, w.getLsbD 63 = false → opUnassigned (w.toNat / 2 ^ 55 % 2 ^ 8) → decodeWord w = none

/-- The words that the spec writes out decode to the instructions it says. -/
def Obligations.SpecWordsDecodeAsWritten : Prop := ∀ p ∈ sampleWords, decodeWord p.1 = some p.2

/-- An instruction is the eight bytes at its address, least significant first (R9, R18). -/
def Obligations.EightBytesAreAWord : Prop :=
  ∀ (w : U64) (rest : List Byte),
    decodeBytes ((List.range 8).map (fun k => w.extractLsb' (8 * k) 8) ++ rest) = (decodeWord w).map fun i => (i, rest)

/-- Right after package reset there is no warp and no grid, no unit or Trellis link is ready, no function has a kick, every register of the
host's pages and every system register from READY on reads its reset value (R323, R352, R410 to R413, R416, R428, R436, R437, R439, R443,
R448); that unwritten memory lists nothing is the model's choice (log 3). -/
def Obligations.ResetLeavesWhatTheSpecGives : Prop :=
  let s := State.reset
  s.clock = 0 ∧ s.grids = [] ∧ s.mem = []
    ∧ (∀ c w, s.warp? c w = none)
    ∧ (∀ c, (s.core c).tlb = [] ∧ (s.core c).l1 = [] ∧ (s.core c).tickets = [] ∧ (s.core c).ops = [] ∧ (s.core c).wgs = [])
    ∧ (∀ k, (s.stack k).ready = 0 ∧ (s.stack k).level = 0 ∧ (s.stack k).tlb = [] ∧ (s.stack k).l2 = [])
    ∧ (∀ idx no, 0x20 ≤ idx → idx ≠ 0x21 → s.sysVal idx no =
        if idx = 0x104 then 0x06900780
        else if idx = 0x300 ∧ no % 8 = 0 then 2 ^ 63
        else if idx = 0x301 ∧ no % 8 = 0 then 0x401
        else if idx = 0x800 then 2 ^ 64 - 1
        else if idx = 0x801 then 2 ^ 32 - 1
        else 0)
    ∧ (∀ fn, (s.func fn).slots = [] ∧ (s.func fn).pend = 0 ∧ (s.func fn).saved = [] ∧ ∀ off < 0x2000, s.barRead fn off = 0)
    ∧ s.winBase2 = 0 ∧ s.winCtl = false ∧ s.peerLocal = 0 ∧ s.routes = [] ∧ s.inb = []

/-- Memory right after reset is in canonical form: the model's own choice of a form (log 3). -/
def Obligations.ResetMemoryIsCanonical : Prop := State.reset.memWf = true

/-- Every step keeps memory, the host's memory and every scratchpad in canonical form: the model's own invariant (log 3). -/
def Obligations.StepsKeepMemoryCanonical : Prop :=
  ∀ s t : State, s.memWf = true → step s = .next t → t.memWf = true

/-- Each stage-1 entry reads as R255 says, at each level. -/
def Obligations.PageTableEntriesReadAsTheySay : Prop := ∀ level e, level < 4 → e < 2 ^ 64 → PteIs level e (pteOf level e)

/-- A leaf's permissions, its accessed and dirty bits and stage 2 of its output decide an access, in that order (R257, R258,
R260). -/
def Obligations.LeavesDecideAccesses : Prop :=
  ∀ (s : State) (d : Dom) (va need level e entPa : Nat) (entWr : Bool) (entIpa oa : Nat), 1 ≤ level → level < 4 → need < 3 →
    va < 2 ^ 57 → e < 2 ^ 64 → oa % levelSize level = 0 →
    LeafDone s d va need level e entPa entWr entIpa oa (s.useLeaf d va need level e entPa entWr entIpa oa)

/-- A word of the ISA at the selected fragment: held, nothing changes; else what the conditions common to all words make of it, the
word with no acting lane included (R20, R42, R97, R146, R307, R325, R369, R386). The order among them, and what a read is for CHKMODE,
are the model's (logs 30, 51). -/
def Obligations.CommonConditionsTurnWordsAway : Prop :=
  ∀ (i : Instr) (s : State) (c w g : Nat), (encode i).isSome = true → s.issuer = some (c, w, g) →
    ∃ t, exec i s = .next t ∧ (s.held i (Instr.head i) c w g = true → t = s)
      ∧ (s.held i (Instr.head i) c w g = false → TurnedAway i s c w g t)

/-- MWLD, MMA, MREAD, MZERO, MHAD, MRELEASE, each MFUSE, MBATCH and MWAIT in normal execution answer a next state: the operation is in the
queue with what the word and the tile say; latches, stamps and groups stand as issued; the batch is closed; the status lands (R288 to
R295, R297). -/
def Obligations.MatrixWordsComplete : Prop := Completes matrixNormal

/-- A copy starts, works and ends, XQNT too, or faults; a matrix operation, fused or not, starts and retires: under the conditions of each, the
step answers a next state in which that has happened (R279, R285, R286, R296, R322). The promise clauses rest on log 53, an MMA's
retirement on log 54, MFUSE's on log 57. -/
def Obligations.EngineStepsComplete : Prop := StepCompletes engineNormal

/-- NMEXP and NMRED in normal execution are accepted with status 0; the status lands, elements are computed and summed, and the
completion record ends the command (R299, R301 to R304, R393); what an item waits for is log 24. -/
def Obligations.CommandsComplete : Prop := Completes commandNormal ∧ StepCompletes commandStepNormal

/-- A workgroup's save ends, a record's workgroup stands again, a kick is latched and taken into a grid, a turn begins, a function is
reset: under the conditions of each, the step answers a next state in which that has happened (R332, R335, R411, R428 to R430, R445); the
readings of logs 40 and 43. -/
def Obligations.ContextStepsComplete : Prop := StepCompletes contextNormal
end

