-- ==== Sys2Proof/Laws/FMap.lean ====
section
/-! SUPPORT. Laws of finite maps and of memory: read after write, what a write leaves alone, the canonical form. -/

namespace Sys2Proof.Machine

/-! Finite maps. -/

@[simp] theorem FMap.get?_nil {β : Type} (k : Nat) : FMap.get? ([] : FMap β) k = none := rfl
@[simp] theorem FMap.getD_nil {β : Type} (k : Nat) (d : β) : FMap.getD ([] : FMap β) k d = d := rfl

@[simp] theorem FMap.get?_put_same {β : Type} (m : FMap β) (k : Nat) (v : β) :
    FMap.get? (FMap.put m k v) k = some v := by
  induction m with
  | nil => simp [FMap.put, FMap.get?]
  | cons c r ih =>
    obtain ⟨k', v'⟩ := c
    unfold FMap.put
    split
    · simp [FMap.get?]
    · split
      · simp [FMap.get?]
      · rename_i h1 h2
        simp [FMap.get?, h2, ih]

theorem FMap.get?_put_other {β : Type} (m : FMap β) {j k : Nat} (v : β) (h : j ≠ k) :
    FMap.get? (FMap.put m k v) j = FMap.get? m j := by
  induction m with
  | nil => simp [FMap.put, FMap.get?, h]
  | cons c r ih =>
    obtain ⟨k', v'⟩ := c
    unfold FMap.put
    split
    · simp [FMap.get?, h]
    · split
      · rename_i h1 h2
        subst h2
        simp [FMap.get?, h]
      · simp only [FMap.get?, ih]

theorem FMap.get?_put {β : Type} (m : FMap β) (j k : Nat) (v : β) :
    FMap.get? (FMap.put m k v) j = if j = k then some v else FMap.get? m j := by
  split
  · rename_i h; subst h; exact FMap.get?_put_same m j v
  · rename_i h; exact FMap.get?_put_other m v h

@[simp] theorem FMap.getD_put_same {β : Type} (m : FMap β) (k : Nat) (v d : β) :
    FMap.getD (FMap.put m k v) k d = v := by simp [FMap.getD]

theorem FMap.getD_put_other {β : Type} (m : FMap β) {j k : Nat} (v d : β) (h : j ≠ k) :
    FMap.getD (FMap.put m k v) j d = FMap.getD m j d := by simp [FMap.getD, FMap.get?_put_other m v h]

theorem FMap.getD_put {β : Type} (m : FMap β) (j k : Nat) (v d : β) :
    FMap.getD (FMap.put m k v) j d = if j = k then v else FMap.getD m j d := by
  split
  · rename_i h; subst h; exact FMap.getD_put_same m j v d
  · rename_i h; exact FMap.getD_put_other m v d h

@[simp] theorem FMap.get?_drop_same {β : Type} (m : FMap β) (k : Nat) : FMap.get? (FMap.drop m k) k = none := by
  induction m with
  | nil => rfl
  | cons c r ih =>
    obtain ⟨k', v'⟩ := c
    simp only [FMap.drop, List.filter_cons] at *
    split
    · rename_i h
      have hk : ¬ k = k' := fun e => by simp [e] at h
      simp [FMap.get?, hk, ih]
    · exact ih

theorem FMap.get?_drop_other {β : Type} (m : FMap β) {j k : Nat} (h : j ≠ k) :
    FMap.get? (FMap.drop m k) j = FMap.get? m j := by
  induction m with
  | nil => rfl
  | cons c r ih =>
    obtain ⟨k', v'⟩ := c
    simp only [FMap.drop, List.filter_cons] at *
    split
    · simp only [FMap.get?, ih]
    · rename_i hk
      have : k' = k := by simpa using hk
      subst this
      simp [FMap.get?, h, ih]

/-! Bytes of memory. -/

theorem Memory.get_set (m : Memory) (a b : Nat) (v : Byte) :
    (m.set a v).get b = if b = a then v else m.get b := by
  unfold Memory.set Memory.get
  split
  · rename_i hv
    subst hv
    by_cases h : b = a
    · subst h; simp [FMap.getD]
    · simp [FMap.getD, h, FMap.get?_drop_other m h]
  · exact FMap.getD_put m b a v _

@[simp] theorem Memory.get_set_same (m : Memory) (a : Nat) (v : Byte) : (m.set a v).get a = v := by
  simp [Memory.get_set]

theorem Memory.get_set_other (m : Memory) {a b : Nat} (v : Byte) (h : b ≠ a) : (m.set a v).get b = m.get b := by
  simp [Memory.get_set, h]

/-- What a write of consecutive bytes leaves in each address. -/
theorem Memory.get_write (l : List Byte) : ∀ (m : Memory) (a b : Nat),
    (m.write a l).get b = if a ≤ b ∧ b < a + l.length then l.getD (b - a) 0 else m.get b := by
  induction l with
  | nil => intro m a b; have h : ¬(a ≤ b ∧ b < a + 0) := by omega
           simp only [Memory.write, List.length_nil, if_neg h]
  | cons v r ih =>
    intro m a b
    simp only [Memory.write, ih, Memory.get_set, List.length_cons]
    by_cases h : b = a
    · subst h
      have h1 : ¬ (b + 1 ≤ b ∧ b < b + 1 + r.length) := by omega
      have h2 : b ≤ b ∧ b < b + (r.length + 1) := by omega
      rw [if_neg h1, if_pos rfl, if_pos h2]
      simp
    · by_cases h1 : a + 1 ≤ b ∧ b < a + 1 + r.length
      · have h2 : a ≤ b ∧ b < a + (r.length + 1) := by omega
        have h3 : b - a = (b - (a + 1)) + 1 := by omega
        rw [if_pos h1, if_pos h2, h3]
        simp
      · have h2 : ¬ (a ≤ b ∧ b < a + (r.length + 1)) := by omega
        rw [if_neg h1, if_neg h, if_neg h2]

/-- A write changes no byte outside the bytes it stores. -/
theorem Memory.get_write_outside (m : Memory) (a b : Nat) (l : List Byte) (h : b < a ∨ a + l.length ≤ b) :
    (m.write a l).get b = m.get b := by
  rw [Memory.get_write, if_neg (by omega)]

/-- n bytes read where n bytes were just written are those bytes. -/
theorem Memory.read_eq_map (m : Memory) (n : Nat) : ∀ a, m.read a n = (List.range n).map fun i => m.get (a + i) := by
  induction n with
  | zero => intro a; rfl
  | succ n ih =>
    intro a
    rw [Memory.read, ih, List.range_succ_eq_map]
    simp only [List.map_cons, List.map_map, Nat.add_zero, List.cons.injEq, true_and]
    apply List.map_congr_left
    intro i _
    simp [Nat.add_comm, Nat.add_left_comm]

theorem Memory.read_write_same (m : Memory) (a : Nat) (l : List Byte) : (m.write a l).read a l.length = l := by
  rw [Memory.read_eq_map]
  apply List.ext_getElem
  · simp
  · intro i h1 h2
    simp only [List.getElem_map, List.getElem_range, Memory.get_write]
    rw [if_pos (by omega)]
    simp [List.getD_eq_getElem?_getD, h2]

/-! The canonical form: addresses strictly rising, no blank byte. -/

/-- Every cell of a memory in form that starts past an address lies past it. -/
def Memory.past (m : Memory) (a : Nat) : Prop := ∀ c ∈ m, a < c.1

theorem Memory.wf_tail {c : Host.Cell} {m : Memory} (h : Memory.wf (c :: m) = true) : m.wf = true := by
  cases m with
  | nil => rfl
  | cons d r => simp only [Memory.wf, Bool.and_eq_true] at h; exact h.2

theorem Memory.wf_past : ∀ {m : Memory} {c : Host.Cell}, Memory.wf (c :: m) = true → m.past c.1
  | [], _, _ => by intro d hd; simp at hd
  | d :: r, c, h => by
    simp only [Memory.wf, Bool.and_eq_true, decide_eq_true_eq] at h
    intro e he
    rcases List.mem_cons.1 he with rfl | he
    · exact h.1.2
    · exact Nat.lt_trans h.1.2 (Memory.wf_past h.2 e he)

theorem Memory.wf_cons {c : Host.Cell} {m : Memory} (hc : c.2 ≠ Memory.blank) (hp : m.past c.1) (hm : m.wf = true) :
    Memory.wf (c :: m) = true := by
  cases m with
  | nil => simpa [Memory.wf] using hc
  | cons d r =>
    simp only [Memory.wf, Bool.and_eq_true, decide_eq_true_eq]
    exact ⟨⟨by simpa using hc, hp d (by simp)⟩, hm⟩

theorem Memory.wf_head {c : Host.Cell} {m : Memory} (h : Memory.wf (c :: m) = true) : c.2 ≠ Memory.blank := by
  cases m with
  | nil => simpa [Memory.wf] using h
  | cons d r =>
    simp only [Memory.wf, Bool.and_eq_true] at h
    simpa using h.1.1

theorem Memory.put_past (m : Memory) (a k : Nat) (v : Byte) (ha : a < k) (hm : m.past a) : Memory.past (FMap.put m k v) a := by
  induction m with
  | nil => intro c hc; simp [FMap.put] at hc; subst hc; exact ha
  | cons d r ih =>
    intro c hc
    unfold FMap.put at hc
    split at hc
    · rcases List.mem_cons.1 hc with rfl | hc
      · exact ha
      · exact hm c hc
    · split at hc
      · rcases List.mem_cons.1 hc with rfl | hc
        · exact ha
        · exact hm c (List.mem_cons_of_mem _ hc)
      · rcases List.mem_cons.1 hc with rfl | hc
        · exact hm _ (by simp)
        · exact ih (fun e he => hm e (List.mem_cons_of_mem _ he)) c hc

theorem Memory.put_wf (m : Memory) (k : Nat) (v : Byte) (hv : v ≠ Memory.blank) (hm : m.wf = true) :
    Memory.wf (FMap.put m k v) = true := by
  induction m with
  | nil => simpa [FMap.put, Memory.wf] using hv
  | cons d r ih =>
    obtain ⟨k', v'⟩ := d
    have hp := Memory.wf_past hm
    have ht := Memory.wf_tail hm
    have hh := Memory.wf_head hm
    unfold FMap.put
    split
    · rename_i hlt
      refine Memory.wf_cons hv ?_ hm
      intro e he
      rcases List.mem_cons.1 he with rfl | he
      · exact hlt
      · exact Nat.lt_trans hlt (hp e he)
    · split
      · rename_i h1 h2
        subst h2
        exact Memory.wf_cons hv hp ht
      · rename_i h1 h2
        exact Memory.wf_cons hh (Memory.put_past r k' k v (show k' < k by omega) hp) (ih ht)

theorem Memory.drop_past (m : Memory) (a k : Nat) (hm : m.past a) : Memory.past (FMap.drop m k) a :=
  fun c hc => hm c (List.mem_filter.1 hc).1

theorem Memory.drop_wf (m : Memory) (k : Nat) (hm : m.wf = true) : Memory.wf (FMap.drop m k) = true := by
  induction m with
  | nil => rfl
  | cons d r ih =>
    unfold FMap.drop
    rw [List.filter_cons]
    split
    · exact Memory.wf_cons (Memory.wf_head hm) (Memory.drop_past r _ k (Memory.wf_past hm)) (ih (Memory.wf_tail hm))
    · exact ih (Memory.wf_tail hm)

/-- Writing one byte keeps the canonical form. -/
theorem Memory.set_wf (m : Memory) (a : Nat) (v : Byte) (hm : m.wf = true) : (m.set a v).wf = true := by
  unfold Memory.set
  split
  · exact Memory.drop_wf m a hm
  · rename_i hv; exact Memory.put_wf m a v hv hm

/-- Writing bytes keeps the canonical form. -/
theorem Memory.write_wf (l : List Byte) : ∀ (m : Memory) (a : Nat), m.wf = true → (m.write a l).wf = true := by
  induction l with
  | nil => intro m a h; exact h
  | cons b r ih => intro m a h; exact ih _ _ (Memory.set_wf m a b h)

/-! Lanes. -/

@[simp] theorem Lanes.get_build (f : Nat → U32) (l : Nat) (h : l < 32) : (Lanes.build f).get l = f l := by
  simp [Lanes.build, Lanes.get, List.getD_eq_getElem?_getD, h]

theorem Lanes.get_merge (mask : U32) (new old : Lanes) (l : Nat) (h : l < 32) :
    (Lanes.merge mask new old).get l = if mask.getLsbD l then new.get l else old.get l := by
  simp [Lanes.merge, h]

end Sys2Proof.Machine
end

