-- ==== Sys2Proof/Laws/State.lean ====
section
/-! SUPPORT. What each named update of the state leaves alone, field by field, and what it puts where. -/

namespace Sys2Proof.Machine

/-! The fields beside those that setCore updates. -/

@[simp] theorem State.setCore_clock (s : State) (c : Nat) (k : Core) : (s.setCore c k).clock = s.clock := rfl
@[simp] theorem State.setCore_free (s : State) (c : Nat) (k : Core) : (s.setCore c k).free = s.free := rfl
@[simp] theorem State.setCore_nextId (s : State) (c : Nat) (k : Core) : (s.setCore c k).nextId = s.nextId := rfl
@[simp] theorem State.setCore_inbox (s : State) (c : Nat) (k : Core) : (s.setCore c k).inbox = s.inbox := rfl
@[simp] theorem State.setCore_agenda (s : State) (c : Nat) (k : Core) : (s.setCore c k).agenda = s.agenda := rfl
@[simp] theorem State.setCore_issuer (s : State) (c : Nat) (k : Core) : (s.setCore c k).issuer = s.issuer := rfl
@[simp] theorem State.setCore_turn (s : State) (c : Nat) (k : Core) : (s.setCore c k).turn = s.turn := rfl
@[simp] theorem State.setCore_mem (s : State) (c : Nat) (k : Core) : (s.setCore c k).mem = s.mem := rfl
@[simp] theorem State.setCore_hostMem (s : State) (c : Nat) (k : Core) : (s.setCore c k).hostMem = s.hostMem := rfl
@[simp] theorem State.setCore_sys (s : State) (c : Nat) (k : Core) : (s.setCore c k).sys = s.sys := rfl
@[simp] theorem State.setCore_fuseCore (s : State) (c : Nat) (k : Core) : (s.setCore c k).fuseCore = s.fuseCore := rfl
@[simp] theorem State.setCore_fuseSlice (s : State) (c : Nat) (k : Core) : (s.setCore c k).fuseSlice = s.fuseSlice := rfl
@[simp] theorem State.setCore_fuseChan (s : State) (c : Nat) (k : Core) : (s.setCore c k).fuseChan = s.fuseChan := rfl
@[simp] theorem State.setCore_stackMap (s : State) (c : Nat) (k : Core) : (s.setCore c k).stackMap = s.stackMap := rfl
@[simp] theorem State.setCore_grids (s : State) (c : Nat) (k : Core) : (s.setCore c k).grids = s.grids := rfl
@[simp] theorem State.setCore_retired (s : State) (c : Nat) (k : Core) : (s.setCore c k).retired = s.retired := rfl
@[simp] theorem State.setCore_nextLaunch (s : State) (c : Nat) (k : Core) : (s.setCore c k).nextLaunch = s.nextLaunch := rfl
@[simp] theorem State.setCore_parts (s : State) (c : Nat) (k : Core) : (s.setCore c k).parts = s.parts := rfl
@[simp] theorem State.setCore_funcs (s : State) (c : Nat) (k : Core) : (s.setCore c k).funcs = s.funcs := rfl
@[simp] theorem State.setCore_winBase2 (s : State) (c : Nat) (k : Core) : (s.setCore c k).winBase2 = s.winBase2 := rfl
@[simp] theorem State.setCore_winCtl (s : State) (c : Nat) (k : Core) : (s.setCore c k).winCtl = s.winCtl := rfl
@[simp] theorem State.setCore_peerLocal (s : State) (c : Nat) (k : Core) : (s.setCore c k).peerLocal = s.peerLocal := rfl
@[simp] theorem State.setCore_routes (s : State) (c : Nat) (k : Core) : (s.setCore c k).routes = s.routes := rfl
@[simp] theorem State.setCore_inb (s : State) (c : Nat) (k : Core) : (s.setCore c k).inb = s.inb := rfl
@[simp] theorem State.setCore_mailCmd (s : State) (c : Nat) (k : Core) : (s.setCore c k).mailCmd = s.mailCmd := rfl
@[simp] theorem State.setCore_mailStatus (s : State) (c : Nat) (k : Core) : (s.setCore c k).mailStatus = s.mailStatus := rfl
@[simp] theorem State.setCore_mailBuf (s : State) (c : Nat) (k : Core) : (s.setCore c k).mailBuf = s.mailBuf := rfl
@[simp] theorem State.setCore_staged (s : State) (c : Nat) (k : Core) : (s.setCore c k).staged = s.staged := rfl
@[simp] theorem State.setCore_running (s : State) (c : Nat) (k : Core) : (s.setCore c k).running = s.running := rfl
@[simp] theorem State.setCore_minVersion (s : State) (c : Nat) (k : Core) : (s.setCore c k).minVersion = s.minVersion := rfl
@[simp] theorem State.setCore_links (s : State) (c : Nat) (k : Core) : (s.setCore c k).links = s.links := rfl
@[simp] theorem State.setCore_outPackets (s : State) (c : Nat) (k : Core) : (s.setCore c k).outPackets = s.outPackets := rfl
@[simp] theorem State.setCore_dropped (s : State) (c : Nat) (k : Core) : (s.setCore c k).dropped = s.dropped := rfl
@[simp] theorem State.setCore_loads (s : State) (c : Nat) (k : Core) : (s.setCore c k).loads = s.loads := rfl
@[simp] theorem State.setCore_fly (s : State) (c : Nat) (k : Core) : (s.setCore c k).fly = s.fly := rfl
@[simp] theorem State.setCore_walks (s : State) (c : Nat) (k : Core) : (s.setCore c k).walks = s.walks := rfl
@[simp] theorem State.setCore_pageins (s : State) (c : Nat) (k : Core) : (s.setCore c k).pageins = s.pageins := rfl
@[simp] theorem State.setCore_invals (s : State) (c : Nat) (k : Core) : (s.setCore c k).invals = s.invals := rfl
@[simp] theorem State.setCore_s2writes (s : State) (c : Nat) (k : Core) : (s.setCore c k).s2writes = s.s2writes := rfl
@[simp] theorem State.setCore_reqs (s : State) (c : Nat) (k : Core) : (s.setCore c k).reqs = s.reqs := rfl
@[simp] theorem State.setCore_migs (s : State) (c : Nat) (k : Core) : (s.setCore c k).migs = s.migs := rfl
@[simp] theorem State.setCore_cmds (s : State) (c : Nat) (k : Core) : (s.setCore c k).cmds = s.cmds := rfl
@[simp] theorem State.setCore_preempts (s : State) (c : Nat) (k : Core) : (s.setCore c k).preempts = s.preempts := rfl
@[simp] theorem State.setCore_parkedWgs (s : State) (c : Nat) (k : Core) : (s.setCore c k).parkedWgs = s.parkedWgs := rfl
@[simp] theorem State.setCore_ctxRecs (s : State) (c : Nat) (k : Core) : (s.setCore c k).ctxRecs = s.ctxRecs := rfl
@[simp] theorem State.setCore_restores (s : State) (c : Nat) (k : Core) : (s.setCore c k).restores = s.restores := rfl
@[simp] theorem State.setCore_buckets (s : State) (c : Nat) (k : Core) : (s.setCore c k).buckets = s.buckets := rfl
@[simp] theorem State.setCore_portQ (s : State) (c : Nat) (k : Core) : (s.setCore c k).portQ = s.portQ := rfl
@[simp] theorem State.setCore_counters (s : State) (c : Nat) (k : Core) : (s.setCore c k).counters = s.counters := rfl
@[simp] theorem State.setCore_nvCounters (s : State) (c : Nat) (k : Core) : (s.setCore c k).nvCounters = s.nvCounters := rfl
@[simp] theorem State.setCore_atsDone (s : State) (c : Nat) (k : Core) : (s.setCore c k).atsDone = s.atsDone := rfl
@[simp] theorem State.setCore_hostGot (s : State) (c : Nat) (k : Core) : (s.setCore c k).hostGot = s.hostGot := rfl
@[simp] theorem State.setCore_lastPlaceAny (s : State) (c : Nat) (k : Core) : (s.setCore c k).lastPlaceAny = s.lastPlaceAny := rfl

/-! The fields beside those that modCore updates. -/

@[simp] theorem State.modCore_clock (s : State) (c : Nat) (f : Core → Core) : (s.modCore c f).clock = s.clock := rfl
@[simp] theorem State.modCore_free (s : State) (c : Nat) (f : Core → Core) : (s.modCore c f).free = s.free := rfl
@[simp] theorem State.modCore_nextId (s : State) (c : Nat) (f : Core → Core) : (s.modCore c f).nextId = s.nextId := rfl
@[simp] theorem State.modCore_inbox (s : State) (c : Nat) (f : Core → Core) : (s.modCore c f).inbox = s.inbox := rfl
@[simp] theorem State.modCore_agenda (s : State) (c : Nat) (f : Core → Core) : (s.modCore c f).agenda = s.agenda := rfl
@[simp] theorem State.modCore_issuer (s : State) (c : Nat) (f : Core → Core) : (s.modCore c f).issuer = s.issuer := rfl
@[simp] theorem State.modCore_turn (s : State) (c : Nat) (f : Core → Core) : (s.modCore c f).turn = s.turn := rfl
@[simp] theorem State.modCore_mem (s : State) (c : Nat) (f : Core → Core) : (s.modCore c f).mem = s.mem := rfl
@[simp] theorem State.modCore_hostMem (s : State) (c : Nat) (f : Core → Core) : (s.modCore c f).hostMem = s.hostMem := rfl
@[simp] theorem State.modCore_sys (s : State) (c : Nat) (f : Core → Core) : (s.modCore c f).sys = s.sys := rfl
@[simp] theorem State.modCore_fuseCore (s : State) (c : Nat) (f : Core → Core) : (s.modCore c f).fuseCore = s.fuseCore := rfl
@[simp] theorem State.modCore_fuseSlice (s : State) (c : Nat) (f : Core → Core) : (s.modCore c f).fuseSlice = s.fuseSlice := rfl
@[simp] theorem State.modCore_fuseChan (s : State) (c : Nat) (f : Core → Core) : (s.modCore c f).fuseChan = s.fuseChan := rfl
@[simp] theorem State.modCore_stackMap (s : State) (c : Nat) (f : Core → Core) : (s.modCore c f).stackMap = s.stackMap := rfl
@[simp] theorem State.modCore_grids (s : State) (c : Nat) (f : Core → Core) : (s.modCore c f).grids = s.grids := rfl
@[simp] theorem State.modCore_retired (s : State) (c : Nat) (f : Core → Core) : (s.modCore c f).retired = s.retired := rfl
@[simp] theorem State.modCore_nextLaunch (s : State) (c : Nat) (f : Core → Core) : (s.modCore c f).nextLaunch = s.nextLaunch := rfl
@[simp] theorem State.modCore_parts (s : State) (c : Nat) (f : Core → Core) : (s.modCore c f).parts = s.parts := rfl
@[simp] theorem State.modCore_funcs (s : State) (c : Nat) (f : Core → Core) : (s.modCore c f).funcs = s.funcs := rfl
@[simp] theorem State.modCore_winBase2 (s : State) (c : Nat) (f : Core → Core) : (s.modCore c f).winBase2 = s.winBase2 := rfl
@[simp] theorem State.modCore_winCtl (s : State) (c : Nat) (f : Core → Core) : (s.modCore c f).winCtl = s.winCtl := rfl
@[simp] theorem State.modCore_peerLocal (s : State) (c : Nat) (f : Core → Core) : (s.modCore c f).peerLocal = s.peerLocal := rfl
@[simp] theorem State.modCore_routes (s : State) (c : Nat) (f : Core → Core) : (s.modCore c f).routes = s.routes := rfl
@[simp] theorem State.modCore_inb (s : State) (c : Nat) (f : Core → Core) : (s.modCore c f).inb = s.inb := rfl
@[simp] theorem State.modCore_mailCmd (s : State) (c : Nat) (f : Core → Core) : (s.modCore c f).mailCmd = s.mailCmd := rfl
@[simp] theorem State.modCore_mailStatus (s : State) (c : Nat) (f : Core → Core) : (s.modCore c f).mailStatus = s.mailStatus := rfl
@[simp] theorem State.modCore_mailBuf (s : State) (c : Nat) (f : Core → Core) : (s.modCore c f).mailBuf = s.mailBuf := rfl
@[simp] theorem State.modCore_staged (s : State) (c : Nat) (f : Core → Core) : (s.modCore c f).staged = s.staged := rfl
@[simp] theorem State.modCore_running (s : State) (c : Nat) (f : Core → Core) : (s.modCore c f).running = s.running := rfl
@[simp] theorem State.modCore_minVersion (s : State) (c : Nat) (f : Core → Core) : (s.modCore c f).minVersion = s.minVersion := rfl
@[simp] theorem State.modCore_links (s : State) (c : Nat) (f : Core → Core) : (s.modCore c f).links = s.links := rfl
@[simp] theorem State.modCore_outPackets (s : State) (c : Nat) (f : Core → Core) : (s.modCore c f).outPackets = s.outPackets := rfl
@[simp] theorem State.modCore_dropped (s : State) (c : Nat) (f : Core → Core) : (s.modCore c f).dropped = s.dropped := rfl
@[simp] theorem State.modCore_loads (s : State) (c : Nat) (f : Core → Core) : (s.modCore c f).loads = s.loads := rfl
@[simp] theorem State.modCore_fly (s : State) (c : Nat) (f : Core → Core) : (s.modCore c f).fly = s.fly := rfl
@[simp] theorem State.modCore_walks (s : State) (c : Nat) (f : Core → Core) : (s.modCore c f).walks = s.walks := rfl
@[simp] theorem State.modCore_pageins (s : State) (c : Nat) (f : Core → Core) : (s.modCore c f).pageins = s.pageins := rfl
@[simp] theorem State.modCore_invals (s : State) (c : Nat) (f : Core → Core) : (s.modCore c f).invals = s.invals := rfl
@[simp] theorem State.modCore_s2writes (s : State) (c : Nat) (f : Core → Core) : (s.modCore c f).s2writes = s.s2writes := rfl
@[simp] theorem State.modCore_reqs (s : State) (c : Nat) (f : Core → Core) : (s.modCore c f).reqs = s.reqs := rfl
@[simp] theorem State.modCore_migs (s : State) (c : Nat) (f : Core → Core) : (s.modCore c f).migs = s.migs := rfl
@[simp] theorem State.modCore_cmds (s : State) (c : Nat) (f : Core → Core) : (s.modCore c f).cmds = s.cmds := rfl
@[simp] theorem State.modCore_preempts (s : State) (c : Nat) (f : Core → Core) : (s.modCore c f).preempts = s.preempts := rfl
@[simp] theorem State.modCore_parkedWgs (s : State) (c : Nat) (f : Core → Core) : (s.modCore c f).parkedWgs = s.parkedWgs := rfl
@[simp] theorem State.modCore_ctxRecs (s : State) (c : Nat) (f : Core → Core) : (s.modCore c f).ctxRecs = s.ctxRecs := rfl
@[simp] theorem State.modCore_restores (s : State) (c : Nat) (f : Core → Core) : (s.modCore c f).restores = s.restores := rfl
@[simp] theorem State.modCore_buckets (s : State) (c : Nat) (f : Core → Core) : (s.modCore c f).buckets = s.buckets := rfl
@[simp] theorem State.modCore_portQ (s : State) (c : Nat) (f : Core → Core) : (s.modCore c f).portQ = s.portQ := rfl
@[simp] theorem State.modCore_counters (s : State) (c : Nat) (f : Core → Core) : (s.modCore c f).counters = s.counters := rfl
@[simp] theorem State.modCore_nvCounters (s : State) (c : Nat) (f : Core → Core) : (s.modCore c f).nvCounters = s.nvCounters := rfl
@[simp] theorem State.modCore_atsDone (s : State) (c : Nat) (f : Core → Core) : (s.modCore c f).atsDone = s.atsDone := rfl
@[simp] theorem State.modCore_hostGot (s : State) (c : Nat) (f : Core → Core) : (s.modCore c f).hostGot = s.hostGot := rfl
@[simp] theorem State.modCore_lastPlaceAny (s : State) (c : Nat) (f : Core → Core) : (s.modCore c f).lastPlaceAny = s.lastPlaceAny := rfl

/-! The fields beside those that setWarp updates. -/

@[simp] theorem State.setWarp_clock (s : State) (c w : Nat) (k : Warp) : (s.setWarp c w k).clock = s.clock := rfl
@[simp] theorem State.setWarp_free (s : State) (c w : Nat) (k : Warp) : (s.setWarp c w k).free = s.free := rfl
@[simp] theorem State.setWarp_nextId (s : State) (c w : Nat) (k : Warp) : (s.setWarp c w k).nextId = s.nextId := rfl
@[simp] theorem State.setWarp_inbox (s : State) (c w : Nat) (k : Warp) : (s.setWarp c w k).inbox = s.inbox := rfl
@[simp] theorem State.setWarp_agenda (s : State) (c w : Nat) (k : Warp) : (s.setWarp c w k).agenda = s.agenda := rfl
@[simp] theorem State.setWarp_issuer (s : State) (c w : Nat) (k : Warp) : (s.setWarp c w k).issuer = s.issuer := rfl
@[simp] theorem State.setWarp_turn (s : State) (c w : Nat) (k : Warp) : (s.setWarp c w k).turn = s.turn := rfl
@[simp] theorem State.setWarp_mem (s : State) (c w : Nat) (k : Warp) : (s.setWarp c w k).mem = s.mem := rfl
@[simp] theorem State.setWarp_hostMem (s : State) (c w : Nat) (k : Warp) : (s.setWarp c w k).hostMem = s.hostMem := rfl
@[simp] theorem State.setWarp_sys (s : State) (c w : Nat) (k : Warp) : (s.setWarp c w k).sys = s.sys := rfl
@[simp] theorem State.setWarp_fuseCore (s : State) (c w : Nat) (k : Warp) : (s.setWarp c w k).fuseCore = s.fuseCore := rfl
@[simp] theorem State.setWarp_fuseSlice (s : State) (c w : Nat) (k : Warp) : (s.setWarp c w k).fuseSlice = s.fuseSlice := rfl
@[simp] theorem State.setWarp_fuseChan (s : State) (c w : Nat) (k : Warp) : (s.setWarp c w k).fuseChan = s.fuseChan := rfl
@[simp] theorem State.setWarp_stackMap (s : State) (c w : Nat) (k : Warp) : (s.setWarp c w k).stackMap = s.stackMap := rfl
@[simp] theorem State.setWarp_grids (s : State) (c w : Nat) (k : Warp) : (s.setWarp c w k).grids = s.grids := rfl
@[simp] theorem State.setWarp_retired (s : State) (c w : Nat) (k : Warp) : (s.setWarp c w k).retired = s.retired := rfl
@[simp] theorem State.setWarp_nextLaunch (s : State) (c w : Nat) (k : Warp) : (s.setWarp c w k).nextLaunch = s.nextLaunch := rfl
@[simp] theorem State.setWarp_parts (s : State) (c w : Nat) (k : Warp) : (s.setWarp c w k).parts = s.parts := rfl
@[simp] theorem State.setWarp_funcs (s : State) (c w : Nat) (k : Warp) : (s.setWarp c w k).funcs = s.funcs := rfl
@[simp] theorem State.setWarp_winBase2 (s : State) (c w : Nat) (k : Warp) : (s.setWarp c w k).winBase2 = s.winBase2 := rfl
@[simp] theorem State.setWarp_winCtl (s : State) (c w : Nat) (k : Warp) : (s.setWarp c w k).winCtl = s.winCtl := rfl
@[simp] theorem State.setWarp_peerLocal (s : State) (c w : Nat) (k : Warp) : (s.setWarp c w k).peerLocal = s.peerLocal := rfl
@[simp] theorem State.setWarp_routes (s : State) (c w : Nat) (k : Warp) : (s.setWarp c w k).routes = s.routes := rfl
@[simp] theorem State.setWarp_inb (s : State) (c w : Nat) (k : Warp) : (s.setWarp c w k).inb = s.inb := rfl
@[simp] theorem State.setWarp_mailCmd (s : State) (c w : Nat) (k : Warp) : (s.setWarp c w k).mailCmd = s.mailCmd := rfl
@[simp] theorem State.setWarp_mailStatus (s : State) (c w : Nat) (k : Warp) : (s.setWarp c w k).mailStatus = s.mailStatus := rfl
@[simp] theorem State.setWarp_mailBuf (s : State) (c w : Nat) (k : Warp) : (s.setWarp c w k).mailBuf = s.mailBuf := rfl
@[simp] theorem State.setWarp_staged (s : State) (c w : Nat) (k : Warp) : (s.setWarp c w k).staged = s.staged := rfl
@[simp] theorem State.setWarp_running (s : State) (c w : Nat) (k : Warp) : (s.setWarp c w k).running = s.running := rfl
@[simp] theorem State.setWarp_minVersion (s : State) (c w : Nat) (k : Warp) : (s.setWarp c w k).minVersion = s.minVersion := rfl
@[simp] theorem State.setWarp_links (s : State) (c w : Nat) (k : Warp) : (s.setWarp c w k).links = s.links := rfl
@[simp] theorem State.setWarp_outPackets (s : State) (c w : Nat) (k : Warp) : (s.setWarp c w k).outPackets = s.outPackets := rfl
@[simp] theorem State.setWarp_dropped (s : State) (c w : Nat) (k : Warp) : (s.setWarp c w k).dropped = s.dropped := rfl
@[simp] theorem State.setWarp_loads (s : State) (c w : Nat) (k : Warp) : (s.setWarp c w k).loads = s.loads := rfl
@[simp] theorem State.setWarp_fly (s : State) (c w : Nat) (k : Warp) : (s.setWarp c w k).fly = s.fly := rfl
@[simp] theorem State.setWarp_walks (s : State) (c w : Nat) (k : Warp) : (s.setWarp c w k).walks = s.walks := rfl
@[simp] theorem State.setWarp_pageins (s : State) (c w : Nat) (k : Warp) : (s.setWarp c w k).pageins = s.pageins := rfl
@[simp] theorem State.setWarp_invals (s : State) (c w : Nat) (k : Warp) : (s.setWarp c w k).invals = s.invals := rfl
@[simp] theorem State.setWarp_s2writes (s : State) (c w : Nat) (k : Warp) : (s.setWarp c w k).s2writes = s.s2writes := rfl
@[simp] theorem State.setWarp_reqs (s : State) (c w : Nat) (k : Warp) : (s.setWarp c w k).reqs = s.reqs := rfl
@[simp] theorem State.setWarp_migs (s : State) (c w : Nat) (k : Warp) : (s.setWarp c w k).migs = s.migs := rfl
@[simp] theorem State.setWarp_cmds (s : State) (c w : Nat) (k : Warp) : (s.setWarp c w k).cmds = s.cmds := rfl
@[simp] theorem State.setWarp_preempts (s : State) (c w : Nat) (k : Warp) : (s.setWarp c w k).preempts = s.preempts := rfl
@[simp] theorem State.setWarp_parkedWgs (s : State) (c w : Nat) (k : Warp) : (s.setWarp c w k).parkedWgs = s.parkedWgs := rfl
@[simp] theorem State.setWarp_ctxRecs (s : State) (c w : Nat) (k : Warp) : (s.setWarp c w k).ctxRecs = s.ctxRecs := rfl
@[simp] theorem State.setWarp_restores (s : State) (c w : Nat) (k : Warp) : (s.setWarp c w k).restores = s.restores := rfl
@[simp] theorem State.setWarp_buckets (s : State) (c w : Nat) (k : Warp) : (s.setWarp c w k).buckets = s.buckets := rfl
@[simp] theorem State.setWarp_portQ (s : State) (c w : Nat) (k : Warp) : (s.setWarp c w k).portQ = s.portQ := rfl
@[simp] theorem State.setWarp_counters (s : State) (c w : Nat) (k : Warp) : (s.setWarp c w k).counters = s.counters := rfl
@[simp] theorem State.setWarp_nvCounters (s : State) (c w : Nat) (k : Warp) : (s.setWarp c w k).nvCounters = s.nvCounters := rfl
@[simp] theorem State.setWarp_atsDone (s : State) (c w : Nat) (k : Warp) : (s.setWarp c w k).atsDone = s.atsDone := rfl
@[simp] theorem State.setWarp_hostGot (s : State) (c w : Nat) (k : Warp) : (s.setWarp c w k).hostGot = s.hostGot := rfl
@[simp] theorem State.setWarp_lastPlaceAny (s : State) (c w : Nat) (k : Warp) : (s.setWarp c w k).lastPlaceAny = s.lastPlaceAny := rfl

/-! The fields beside those that modWarp updates. -/

@[simp] theorem State.modWarp_clock (s : State) (c w : Nat) (f : Warp → Warp) : (s.modWarp c w f).clock = s.clock := rfl
@[simp] theorem State.modWarp_free (s : State) (c w : Nat) (f : Warp → Warp) : (s.modWarp c w f).free = s.free := rfl
@[simp] theorem State.modWarp_nextId (s : State) (c w : Nat) (f : Warp → Warp) : (s.modWarp c w f).nextId = s.nextId := rfl
@[simp] theorem State.modWarp_inbox (s : State) (c w : Nat) (f : Warp → Warp) : (s.modWarp c w f).inbox = s.inbox := rfl
@[simp] theorem State.modWarp_agenda (s : State) (c w : Nat) (f : Warp → Warp) : (s.modWarp c w f).agenda = s.agenda := rfl
@[simp] theorem State.modWarp_issuer (s : State) (c w : Nat) (f : Warp → Warp) : (s.modWarp c w f).issuer = s.issuer := rfl
@[simp] theorem State.modWarp_turn (s : State) (c w : Nat) (f : Warp → Warp) : (s.modWarp c w f).turn = s.turn := rfl
@[simp] theorem State.modWarp_mem (s : State) (c w : Nat) (f : Warp → Warp) : (s.modWarp c w f).mem = s.mem := rfl
@[simp] theorem State.modWarp_hostMem (s : State) (c w : Nat) (f : Warp → Warp) : (s.modWarp c w f).hostMem = s.hostMem := rfl
@[simp] theorem State.modWarp_sys (s : State) (c w : Nat) (f : Warp → Warp) : (s.modWarp c w f).sys = s.sys := rfl
@[simp] theorem State.modWarp_fuseCore (s : State) (c w : Nat) (f : Warp → Warp) : (s.modWarp c w f).fuseCore = s.fuseCore := rfl
@[simp] theorem State.modWarp_fuseSlice (s : State) (c w : Nat) (f : Warp → Warp) : (s.modWarp c w f).fuseSlice = s.fuseSlice := rfl
@[simp] theorem State.modWarp_fuseChan (s : State) (c w : Nat) (f : Warp → Warp) : (s.modWarp c w f).fuseChan = s.fuseChan := rfl
@[simp] theorem State.modWarp_stackMap (s : State) (c w : Nat) (f : Warp → Warp) : (s.modWarp c w f).stackMap = s.stackMap := rfl
@[simp] theorem State.modWarp_grids (s : State) (c w : Nat) (f : Warp → Warp) : (s.modWarp c w f).grids = s.grids := rfl
@[simp] theorem State.modWarp_retired (s : State) (c w : Nat) (f : Warp → Warp) : (s.modWarp c w f).retired = s.retired := rfl
@[simp] theorem State.modWarp_nextLaunch (s : State) (c w : Nat) (f : Warp → Warp) : (s.modWarp c w f).nextLaunch = s.nextLaunch := rfl
@[simp] theorem State.modWarp_parts (s : State) (c w : Nat) (f : Warp → Warp) : (s.modWarp c w f).parts = s.parts := rfl
@[simp] theorem State.modWarp_funcs (s : State) (c w : Nat) (f : Warp → Warp) : (s.modWarp c w f).funcs = s.funcs := rfl
@[simp] theorem State.modWarp_winBase2 (s : State) (c w : Nat) (f : Warp → Warp) : (s.modWarp c w f).winBase2 = s.winBase2 := rfl
@[simp] theorem State.modWarp_winCtl (s : State) (c w : Nat) (f : Warp → Warp) : (s.modWarp c w f).winCtl = s.winCtl := rfl
@[simp] theorem State.modWarp_peerLocal (s : State) (c w : Nat) (f : Warp → Warp) : (s.modWarp c w f).peerLocal = s.peerLocal := rfl
@[simp] theorem State.modWarp_routes (s : State) (c w : Nat) (f : Warp → Warp) : (s.modWarp c w f).routes = s.routes := rfl
@[simp] theorem State.modWarp_inb (s : State) (c w : Nat) (f : Warp → Warp) : (s.modWarp c w f).inb = s.inb := rfl
@[simp] theorem State.modWarp_mailCmd (s : State) (c w : Nat) (f : Warp → Warp) : (s.modWarp c w f).mailCmd = s.mailCmd := rfl
@[simp] theorem State.modWarp_mailStatus (s : State) (c w : Nat) (f : Warp → Warp) : (s.modWarp c w f).mailStatus = s.mailStatus := rfl
@[simp] theorem State.modWarp_mailBuf (s : State) (c w : Nat) (f : Warp → Warp) : (s.modWarp c w f).mailBuf = s.mailBuf := rfl
@[simp] theorem State.modWarp_staged (s : State) (c w : Nat) (f : Warp → Warp) : (s.modWarp c w f).staged = s.staged := rfl
@[simp] theorem State.modWarp_running (s : State) (c w : Nat) (f : Warp → Warp) : (s.modWarp c w f).running = s.running := rfl
@[simp] theorem State.modWarp_minVersion (s : State) (c w : Nat) (f : Warp → Warp) : (s.modWarp c w f).minVersion = s.minVersion := rfl
@[simp] theorem State.modWarp_links (s : State) (c w : Nat) (f : Warp → Warp) : (s.modWarp c w f).links = s.links := rfl
@[simp] theorem State.modWarp_outPackets (s : State) (c w : Nat) (f : Warp → Warp) : (s.modWarp c w f).outPackets = s.outPackets := rfl
@[simp] theorem State.modWarp_dropped (s : State) (c w : Nat) (f : Warp → Warp) : (s.modWarp c w f).dropped = s.dropped := rfl
@[simp] theorem State.modWarp_loads (s : State) (c w : Nat) (f : Warp → Warp) : (s.modWarp c w f).loads = s.loads := rfl
@[simp] theorem State.modWarp_fly (s : State) (c w : Nat) (f : Warp → Warp) : (s.modWarp c w f).fly = s.fly := rfl
@[simp] theorem State.modWarp_walks (s : State) (c w : Nat) (f : Warp → Warp) : (s.modWarp c w f).walks = s.walks := rfl
@[simp] theorem State.modWarp_pageins (s : State) (c w : Nat) (f : Warp → Warp) : (s.modWarp c w f).pageins = s.pageins := rfl
@[simp] theorem State.modWarp_invals (s : State) (c w : Nat) (f : Warp → Warp) : (s.modWarp c w f).invals = s.invals := rfl
@[simp] theorem State.modWarp_s2writes (s : State) (c w : Nat) (f : Warp → Warp) : (s.modWarp c w f).s2writes = s.s2writes := rfl
@[simp] theorem State.modWarp_reqs (s : State) (c w : Nat) (f : Warp → Warp) : (s.modWarp c w f).reqs = s.reqs := rfl
@[simp] theorem State.modWarp_migs (s : State) (c w : Nat) (f : Warp → Warp) : (s.modWarp c w f).migs = s.migs := rfl
@[simp] theorem State.modWarp_cmds (s : State) (c w : Nat) (f : Warp → Warp) : (s.modWarp c w f).cmds = s.cmds := rfl
@[simp] theorem State.modWarp_preempts (s : State) (c w : Nat) (f : Warp → Warp) : (s.modWarp c w f).preempts = s.preempts := rfl
@[simp] theorem State.modWarp_parkedWgs (s : State) (c w : Nat) (f : Warp → Warp) : (s.modWarp c w f).parkedWgs = s.parkedWgs := rfl
@[simp] theorem State.modWarp_ctxRecs (s : State) (c w : Nat) (f : Warp → Warp) : (s.modWarp c w f).ctxRecs = s.ctxRecs := rfl
@[simp] theorem State.modWarp_restores (s : State) (c w : Nat) (f : Warp → Warp) : (s.modWarp c w f).restores = s.restores := rfl
@[simp] theorem State.modWarp_buckets (s : State) (c w : Nat) (f : Warp → Warp) : (s.modWarp c w f).buckets = s.buckets := rfl
@[simp] theorem State.modWarp_portQ (s : State) (c w : Nat) (f : Warp → Warp) : (s.modWarp c w f).portQ = s.portQ := rfl
@[simp] theorem State.modWarp_counters (s : State) (c w : Nat) (f : Warp → Warp) : (s.modWarp c w f).counters = s.counters := rfl
@[simp] theorem State.modWarp_nvCounters (s : State) (c w : Nat) (f : Warp → Warp) : (s.modWarp c w f).nvCounters = s.nvCounters := rfl
@[simp] theorem State.modWarp_atsDone (s : State) (c w : Nat) (f : Warp → Warp) : (s.modWarp c w f).atsDone = s.atsDone := rfl
@[simp] theorem State.modWarp_hostGot (s : State) (c w : Nat) (f : Warp → Warp) : (s.modWarp c w f).hostGot = s.hostGot := rfl
@[simp] theorem State.modWarp_lastPlaceAny (s : State) (c w : Nat) (f : Warp → Warp) : (s.modWarp c w f).lastPlaceAny = s.lastPlaceAny := rfl

/-! The fields beside those that modFrag updates. -/

@[simp] theorem State.modFrag_clock (s : State) (c w g : Nat) (f : Frag → Frag) : (s.modFrag c w g f).clock = s.clock := rfl
@[simp] theorem State.modFrag_free (s : State) (c w g : Nat) (f : Frag → Frag) : (s.modFrag c w g f).free = s.free := rfl
@[simp] theorem State.modFrag_nextId (s : State) (c w g : Nat) (f : Frag → Frag) : (s.modFrag c w g f).nextId = s.nextId := rfl
@[simp] theorem State.modFrag_inbox (s : State) (c w g : Nat) (f : Frag → Frag) : (s.modFrag c w g f).inbox = s.inbox := rfl
@[simp] theorem State.modFrag_agenda (s : State) (c w g : Nat) (f : Frag → Frag) : (s.modFrag c w g f).agenda = s.agenda := rfl
@[simp] theorem State.modFrag_issuer (s : State) (c w g : Nat) (f : Frag → Frag) : (s.modFrag c w g f).issuer = s.issuer := rfl
@[simp] theorem State.modFrag_turn (s : State) (c w g : Nat) (f : Frag → Frag) : (s.modFrag c w g f).turn = s.turn := rfl
@[simp] theorem State.modFrag_mem (s : State) (c w g : Nat) (f : Frag → Frag) : (s.modFrag c w g f).mem = s.mem := rfl
@[simp] theorem State.modFrag_hostMem (s : State) (c w g : Nat) (f : Frag → Frag) : (s.modFrag c w g f).hostMem = s.hostMem := rfl
@[simp] theorem State.modFrag_sys (s : State) (c w g : Nat) (f : Frag → Frag) : (s.modFrag c w g f).sys = s.sys := rfl
@[simp] theorem State.modFrag_fuseCore (s : State) (c w g : Nat) (f : Frag → Frag) : (s.modFrag c w g f).fuseCore = s.fuseCore := rfl
@[simp] theorem State.modFrag_fuseSlice (s : State) (c w g : Nat) (f : Frag → Frag) : (s.modFrag c w g f).fuseSlice = s.fuseSlice := rfl
@[simp] theorem State.modFrag_fuseChan (s : State) (c w g : Nat) (f : Frag → Frag) : (s.modFrag c w g f).fuseChan = s.fuseChan := rfl
@[simp] theorem State.modFrag_stackMap (s : State) (c w g : Nat) (f : Frag → Frag) : (s.modFrag c w g f).stackMap = s.stackMap := rfl
@[simp] theorem State.modFrag_grids (s : State) (c w g : Nat) (f : Frag → Frag) : (s.modFrag c w g f).grids = s.grids := rfl
@[simp] theorem State.modFrag_retired (s : State) (c w g : Nat) (f : Frag → Frag) : (s.modFrag c w g f).retired = s.retired := rfl
@[simp] theorem State.modFrag_nextLaunch (s : State) (c w g : Nat) (f : Frag → Frag) : (s.modFrag c w g f).nextLaunch = s.nextLaunch := rfl
@[simp] theorem State.modFrag_parts (s : State) (c w g : Nat) (f : Frag → Frag) : (s.modFrag c w g f).parts = s.parts := rfl
@[simp] theorem State.modFrag_funcs (s : State) (c w g : Nat) (f : Frag → Frag) : (s.modFrag c w g f).funcs = s.funcs := rfl
@[simp] theorem State.modFrag_winBase2 (s : State) (c w g : Nat) (f : Frag → Frag) : (s.modFrag c w g f).winBase2 = s.winBase2 := rfl
@[simp] theorem State.modFrag_winCtl (s : State) (c w g : Nat) (f : Frag → Frag) : (s.modFrag c w g f).winCtl = s.winCtl := rfl
@[simp] theorem State.modFrag_peerLocal (s : State) (c w g : Nat) (f : Frag → Frag) : (s.modFrag c w g f).peerLocal = s.peerLocal := rfl
@[simp] theorem State.modFrag_routes (s : State) (c w g : Nat) (f : Frag → Frag) : (s.modFrag c w g f).routes = s.routes := rfl
@[simp] theorem State.modFrag_inb (s : State) (c w g : Nat) (f : Frag → Frag) : (s.modFrag c w g f).inb = s.inb := rfl
@[simp] theorem State.modFrag_mailCmd (s : State) (c w g : Nat) (f : Frag → Frag) : (s.modFrag c w g f).mailCmd = s.mailCmd := rfl
@[simp] theorem State.modFrag_mailStatus (s : State) (c w g : Nat) (f : Frag → Frag) : (s.modFrag c w g f).mailStatus = s.mailStatus := rfl
@[simp] theorem State.modFrag_mailBuf (s : State) (c w g : Nat) (f : Frag → Frag) : (s.modFrag c w g f).mailBuf = s.mailBuf := rfl
@[simp] theorem State.modFrag_staged (s : State) (c w g : Nat) (f : Frag → Frag) : (s.modFrag c w g f).staged = s.staged := rfl
@[simp] theorem State.modFrag_running (s : State) (c w g : Nat) (f : Frag → Frag) : (s.modFrag c w g f).running = s.running := rfl
@[simp] theorem State.modFrag_minVersion (s : State) (c w g : Nat) (f : Frag → Frag) : (s.modFrag c w g f).minVersion = s.minVersion := rfl
@[simp] theorem State.modFrag_links (s : State) (c w g : Nat) (f : Frag → Frag) : (s.modFrag c w g f).links = s.links := rfl
@[simp] theorem State.modFrag_outPackets (s : State) (c w g : Nat) (f : Frag → Frag) : (s.modFrag c w g f).outPackets = s.outPackets := rfl
@[simp] theorem State.modFrag_dropped (s : State) (c w g : Nat) (f : Frag → Frag) : (s.modFrag c w g f).dropped = s.dropped := rfl
@[simp] theorem State.modFrag_loads (s : State) (c w g : Nat) (f : Frag → Frag) : (s.modFrag c w g f).loads = s.loads := rfl
@[simp] theorem State.modFrag_fly (s : State) (c w g : Nat) (f : Frag → Frag) : (s.modFrag c w g f).fly = s.fly := rfl
@[simp] theorem State.modFrag_walks (s : State) (c w g : Nat) (f : Frag → Frag) : (s.modFrag c w g f).walks = s.walks := rfl
@[simp] theorem State.modFrag_pageins (s : State) (c w g : Nat) (f : Frag → Frag) : (s.modFrag c w g f).pageins = s.pageins := rfl
@[simp] theorem State.modFrag_invals (s : State) (c w g : Nat) (f : Frag → Frag) : (s.modFrag c w g f).invals = s.invals := rfl
@[simp] theorem State.modFrag_s2writes (s : State) (c w g : Nat) (f : Frag → Frag) : (s.modFrag c w g f).s2writes = s.s2writes := rfl
@[simp] theorem State.modFrag_reqs (s : State) (c w g : Nat) (f : Frag → Frag) : (s.modFrag c w g f).reqs = s.reqs := rfl
@[simp] theorem State.modFrag_migs (s : State) (c w g : Nat) (f : Frag → Frag) : (s.modFrag c w g f).migs = s.migs := rfl
@[simp] theorem State.modFrag_cmds (s : State) (c w g : Nat) (f : Frag → Frag) : (s.modFrag c w g f).cmds = s.cmds := rfl
@[simp] theorem State.modFrag_preempts (s : State) (c w g : Nat) (f : Frag → Frag) : (s.modFrag c w g f).preempts = s.preempts := rfl
@[simp] theorem State.modFrag_parkedWgs (s : State) (c w g : Nat) (f : Frag → Frag) : (s.modFrag c w g f).parkedWgs = s.parkedWgs := rfl
@[simp] theorem State.modFrag_ctxRecs (s : State) (c w g : Nat) (f : Frag → Frag) : (s.modFrag c w g f).ctxRecs = s.ctxRecs := rfl
@[simp] theorem State.modFrag_restores (s : State) (c w g : Nat) (f : Frag → Frag) : (s.modFrag c w g f).restores = s.restores := rfl
@[simp] theorem State.modFrag_buckets (s : State) (c w g : Nat) (f : Frag → Frag) : (s.modFrag c w g f).buckets = s.buckets := rfl
@[simp] theorem State.modFrag_portQ (s : State) (c w g : Nat) (f : Frag → Frag) : (s.modFrag c w g f).portQ = s.portQ := rfl
@[simp] theorem State.modFrag_counters (s : State) (c w g : Nat) (f : Frag → Frag) : (s.modFrag c w g f).counters = s.counters := rfl
@[simp] theorem State.modFrag_nvCounters (s : State) (c w g : Nat) (f : Frag → Frag) : (s.modFrag c w g f).nvCounters = s.nvCounters := rfl
@[simp] theorem State.modFrag_atsDone (s : State) (c w g : Nat) (f : Frag → Frag) : (s.modFrag c w g f).atsDone = s.atsDone := rfl
@[simp] theorem State.modFrag_hostGot (s : State) (c w g : Nat) (f : Frag → Frag) : (s.modFrag c w g f).hostGot = s.hostGot := rfl
@[simp] theorem State.modFrag_lastPlaceAny (s : State) (c w g : Nat) (f : Frag → Frag) : (s.modFrag c w g f).lastPlaceAny = s.lastPlaceAny := rfl

/-! The fields beside those that modWg updates. -/

@[simp] theorem State.modWg_clock (s : State) (c k : Nat) (f : WG → WG) : (s.modWg c k f).clock = s.clock := rfl
@[simp] theorem State.modWg_free (s : State) (c k : Nat) (f : WG → WG) : (s.modWg c k f).free = s.free := rfl
@[simp] theorem State.modWg_nextId (s : State) (c k : Nat) (f : WG → WG) : (s.modWg c k f).nextId = s.nextId := rfl
@[simp] theorem State.modWg_inbox (s : State) (c k : Nat) (f : WG → WG) : (s.modWg c k f).inbox = s.inbox := rfl
@[simp] theorem State.modWg_agenda (s : State) (c k : Nat) (f : WG → WG) : (s.modWg c k f).agenda = s.agenda := rfl
@[simp] theorem State.modWg_issuer (s : State) (c k : Nat) (f : WG → WG) : (s.modWg c k f).issuer = s.issuer := rfl
@[simp] theorem State.modWg_turn (s : State) (c k : Nat) (f : WG → WG) : (s.modWg c k f).turn = s.turn := rfl
@[simp] theorem State.modWg_mem (s : State) (c k : Nat) (f : WG → WG) : (s.modWg c k f).mem = s.mem := rfl
@[simp] theorem State.modWg_hostMem (s : State) (c k : Nat) (f : WG → WG) : (s.modWg c k f).hostMem = s.hostMem := rfl
@[simp] theorem State.modWg_sys (s : State) (c k : Nat) (f : WG → WG) : (s.modWg c k f).sys = s.sys := rfl
@[simp] theorem State.modWg_fuseCore (s : State) (c k : Nat) (f : WG → WG) : (s.modWg c k f).fuseCore = s.fuseCore := rfl
@[simp] theorem State.modWg_fuseSlice (s : State) (c k : Nat) (f : WG → WG) : (s.modWg c k f).fuseSlice = s.fuseSlice := rfl
@[simp] theorem State.modWg_fuseChan (s : State) (c k : Nat) (f : WG → WG) : (s.modWg c k f).fuseChan = s.fuseChan := rfl
@[simp] theorem State.modWg_stackMap (s : State) (c k : Nat) (f : WG → WG) : (s.modWg c k f).stackMap = s.stackMap := rfl
@[simp] theorem State.modWg_grids (s : State) (c k : Nat) (f : WG → WG) : (s.modWg c k f).grids = s.grids := rfl
@[simp] theorem State.modWg_retired (s : State) (c k : Nat) (f : WG → WG) : (s.modWg c k f).retired = s.retired := rfl
@[simp] theorem State.modWg_nextLaunch (s : State) (c k : Nat) (f : WG → WG) : (s.modWg c k f).nextLaunch = s.nextLaunch := rfl
@[simp] theorem State.modWg_parts (s : State) (c k : Nat) (f : WG → WG) : (s.modWg c k f).parts = s.parts := rfl
@[simp] theorem State.modWg_funcs (s : State) (c k : Nat) (f : WG → WG) : (s.modWg c k f).funcs = s.funcs := rfl
@[simp] theorem State.modWg_winBase2 (s : State) (c k : Nat) (f : WG → WG) : (s.modWg c k f).winBase2 = s.winBase2 := rfl
@[simp] theorem State.modWg_winCtl (s : State) (c k : Nat) (f : WG → WG) : (s.modWg c k f).winCtl = s.winCtl := rfl
@[simp] theorem State.modWg_peerLocal (s : State) (c k : Nat) (f : WG → WG) : (s.modWg c k f).peerLocal = s.peerLocal := rfl
@[simp] theorem State.modWg_routes (s : State) (c k : Nat) (f : WG → WG) : (s.modWg c k f).routes = s.routes := rfl
@[simp] theorem State.modWg_inb (s : State) (c k : Nat) (f : WG → WG) : (s.modWg c k f).inb = s.inb := rfl
@[simp] theorem State.modWg_mailCmd (s : State) (c k : Nat) (f : WG → WG) : (s.modWg c k f).mailCmd = s.mailCmd := rfl
@[simp] theorem State.modWg_mailStatus (s : State) (c k : Nat) (f : WG → WG) : (s.modWg c k f).mailStatus = s.mailStatus := rfl
@[simp] theorem State.modWg_mailBuf (s : State) (c k : Nat) (f : WG → WG) : (s.modWg c k f).mailBuf = s.mailBuf := rfl
@[simp] theorem State.modWg_staged (s : State) (c k : Nat) (f : WG → WG) : (s.modWg c k f).staged = s.staged := rfl
@[simp] theorem State.modWg_running (s : State) (c k : Nat) (f : WG → WG) : (s.modWg c k f).running = s.running := rfl
@[simp] theorem State.modWg_minVersion (s : State) (c k : Nat) (f : WG → WG) : (s.modWg c k f).minVersion = s.minVersion := rfl
@[simp] theorem State.modWg_links (s : State) (c k : Nat) (f : WG → WG) : (s.modWg c k f).links = s.links := rfl
@[simp] theorem State.modWg_outPackets (s : State) (c k : Nat) (f : WG → WG) : (s.modWg c k f).outPackets = s.outPackets := rfl
@[simp] theorem State.modWg_dropped (s : State) (c k : Nat) (f : WG → WG) : (s.modWg c k f).dropped = s.dropped := rfl
@[simp] theorem State.modWg_loads (s : State) (c k : Nat) (f : WG → WG) : (s.modWg c k f).loads = s.loads := rfl
@[simp] theorem State.modWg_fly (s : State) (c k : Nat) (f : WG → WG) : (s.modWg c k f).fly = s.fly := rfl
@[simp] theorem State.modWg_walks (s : State) (c k : Nat) (f : WG → WG) : (s.modWg c k f).walks = s.walks := rfl
@[simp] theorem State.modWg_pageins (s : State) (c k : Nat) (f : WG → WG) : (s.modWg c k f).pageins = s.pageins := rfl
@[simp] theorem State.modWg_invals (s : State) (c k : Nat) (f : WG → WG) : (s.modWg c k f).invals = s.invals := rfl
@[simp] theorem State.modWg_s2writes (s : State) (c k : Nat) (f : WG → WG) : (s.modWg c k f).s2writes = s.s2writes := rfl
@[simp] theorem State.modWg_reqs (s : State) (c k : Nat) (f : WG → WG) : (s.modWg c k f).reqs = s.reqs := rfl
@[simp] theorem State.modWg_migs (s : State) (c k : Nat) (f : WG → WG) : (s.modWg c k f).migs = s.migs := rfl
@[simp] theorem State.modWg_cmds (s : State) (c k : Nat) (f : WG → WG) : (s.modWg c k f).cmds = s.cmds := rfl
@[simp] theorem State.modWg_preempts (s : State) (c k : Nat) (f : WG → WG) : (s.modWg c k f).preempts = s.preempts := rfl
@[simp] theorem State.modWg_parkedWgs (s : State) (c k : Nat) (f : WG → WG) : (s.modWg c k f).parkedWgs = s.parkedWgs := rfl
@[simp] theorem State.modWg_ctxRecs (s : State) (c k : Nat) (f : WG → WG) : (s.modWg c k f).ctxRecs = s.ctxRecs := rfl
@[simp] theorem State.modWg_restores (s : State) (c k : Nat) (f : WG → WG) : (s.modWg c k f).restores = s.restores := rfl
@[simp] theorem State.modWg_buckets (s : State) (c k : Nat) (f : WG → WG) : (s.modWg c k f).buckets = s.buckets := rfl
@[simp] theorem State.modWg_portQ (s : State) (c k : Nat) (f : WG → WG) : (s.modWg c k f).portQ = s.portQ := rfl
@[simp] theorem State.modWg_counters (s : State) (c k : Nat) (f : WG → WG) : (s.modWg c k f).counters = s.counters := rfl
@[simp] theorem State.modWg_nvCounters (s : State) (c k : Nat) (f : WG → WG) : (s.modWg c k f).nvCounters = s.nvCounters := rfl
@[simp] theorem State.modWg_atsDone (s : State) (c k : Nat) (f : WG → WG) : (s.modWg c k f).atsDone = s.atsDone := rfl
@[simp] theorem State.modWg_hostGot (s : State) (c k : Nat) (f : WG → WG) : (s.modWg c k f).hostGot = s.hostGot := rfl
@[simp] theorem State.modWg_lastPlaceAny (s : State) (c k : Nat) (f : WG → WG) : (s.modWg c k f).lastPlaceAny = s.lastPlaceAny := rfl

/-! The fields beside those that modStack updates. -/

@[simp] theorem State.modStack_clock (s : State) (k : Nat) (f : Stack → Stack) : (s.modStack k f).clock = s.clock := rfl
@[simp] theorem State.modStack_free (s : State) (k : Nat) (f : Stack → Stack) : (s.modStack k f).free = s.free := rfl
@[simp] theorem State.modStack_nextId (s : State) (k : Nat) (f : Stack → Stack) : (s.modStack k f).nextId = s.nextId := rfl
@[simp] theorem State.modStack_inbox (s : State) (k : Nat) (f : Stack → Stack) : (s.modStack k f).inbox = s.inbox := rfl
@[simp] theorem State.modStack_agenda (s : State) (k : Nat) (f : Stack → Stack) : (s.modStack k f).agenda = s.agenda := rfl
@[simp] theorem State.modStack_issuer (s : State) (k : Nat) (f : Stack → Stack) : (s.modStack k f).issuer = s.issuer := rfl
@[simp] theorem State.modStack_turn (s : State) (k : Nat) (f : Stack → Stack) : (s.modStack k f).turn = s.turn := rfl
@[simp] theorem State.modStack_mem (s : State) (k : Nat) (f : Stack → Stack) : (s.modStack k f).mem = s.mem := rfl
@[simp] theorem State.modStack_hostMem (s : State) (k : Nat) (f : Stack → Stack) : (s.modStack k f).hostMem = s.hostMem := rfl
@[simp] theorem State.modStack_sys (s : State) (k : Nat) (f : Stack → Stack) : (s.modStack k f).sys = s.sys := rfl
@[simp] theorem State.modStack_fuseCore (s : State) (k : Nat) (f : Stack → Stack) : (s.modStack k f).fuseCore = s.fuseCore := rfl
@[simp] theorem State.modStack_fuseSlice (s : State) (k : Nat) (f : Stack → Stack) : (s.modStack k f).fuseSlice = s.fuseSlice := rfl
@[simp] theorem State.modStack_fuseChan (s : State) (k : Nat) (f : Stack → Stack) : (s.modStack k f).fuseChan = s.fuseChan := rfl
@[simp] theorem State.modStack_cores (s : State) (k : Nat) (f : Stack → Stack) : (s.modStack k f).cores = s.cores := rfl
@[simp] theorem State.modStack_grids (s : State) (k : Nat) (f : Stack → Stack) : (s.modStack k f).grids = s.grids := rfl
@[simp] theorem State.modStack_retired (s : State) (k : Nat) (f : Stack → Stack) : (s.modStack k f).retired = s.retired := rfl
@[simp] theorem State.modStack_nextLaunch (s : State) (k : Nat) (f : Stack → Stack) : (s.modStack k f).nextLaunch = s.nextLaunch := rfl
@[simp] theorem State.modStack_parts (s : State) (k : Nat) (f : Stack → Stack) : (s.modStack k f).parts = s.parts := rfl
@[simp] theorem State.modStack_funcs (s : State) (k : Nat) (f : Stack → Stack) : (s.modStack k f).funcs = s.funcs := rfl
@[simp] theorem State.modStack_winBase2 (s : State) (k : Nat) (f : Stack → Stack) : (s.modStack k f).winBase2 = s.winBase2 := rfl
@[simp] theorem State.modStack_winCtl (s : State) (k : Nat) (f : Stack → Stack) : (s.modStack k f).winCtl = s.winCtl := rfl
@[simp] theorem State.modStack_peerLocal (s : State) (k : Nat) (f : Stack → Stack) : (s.modStack k f).peerLocal = s.peerLocal := rfl
@[simp] theorem State.modStack_routes (s : State) (k : Nat) (f : Stack → Stack) : (s.modStack k f).routes = s.routes := rfl
@[simp] theorem State.modStack_inb (s : State) (k : Nat) (f : Stack → Stack) : (s.modStack k f).inb = s.inb := rfl
@[simp] theorem State.modStack_mailCmd (s : State) (k : Nat) (f : Stack → Stack) : (s.modStack k f).mailCmd = s.mailCmd := rfl
@[simp] theorem State.modStack_mailStatus (s : State) (k : Nat) (f : Stack → Stack) : (s.modStack k f).mailStatus = s.mailStatus := rfl
@[simp] theorem State.modStack_mailBuf (s : State) (k : Nat) (f : Stack → Stack) : (s.modStack k f).mailBuf = s.mailBuf := rfl
@[simp] theorem State.modStack_staged (s : State) (k : Nat) (f : Stack → Stack) : (s.modStack k f).staged = s.staged := rfl
@[simp] theorem State.modStack_running (s : State) (k : Nat) (f : Stack → Stack) : (s.modStack k f).running = s.running := rfl
@[simp] theorem State.modStack_minVersion (s : State) (k : Nat) (f : Stack → Stack) : (s.modStack k f).minVersion = s.minVersion := rfl
@[simp] theorem State.modStack_links (s : State) (k : Nat) (f : Stack → Stack) : (s.modStack k f).links = s.links := rfl
@[simp] theorem State.modStack_outPackets (s : State) (k : Nat) (f : Stack → Stack) : (s.modStack k f).outPackets = s.outPackets := rfl
@[simp] theorem State.modStack_dropped (s : State) (k : Nat) (f : Stack → Stack) : (s.modStack k f).dropped = s.dropped := rfl
@[simp] theorem State.modStack_loads (s : State) (k : Nat) (f : Stack → Stack) : (s.modStack k f).loads = s.loads := rfl
@[simp] theorem State.modStack_fly (s : State) (k : Nat) (f : Stack → Stack) : (s.modStack k f).fly = s.fly := rfl
@[simp] theorem State.modStack_walks (s : State) (k : Nat) (f : Stack → Stack) : (s.modStack k f).walks = s.walks := rfl
@[simp] theorem State.modStack_pageins (s : State) (k : Nat) (f : Stack → Stack) : (s.modStack k f).pageins = s.pageins := rfl
@[simp] theorem State.modStack_invals (s : State) (k : Nat) (f : Stack → Stack) : (s.modStack k f).invals = s.invals := rfl
@[simp] theorem State.modStack_s2writes (s : State) (k : Nat) (f : Stack → Stack) : (s.modStack k f).s2writes = s.s2writes := rfl
@[simp] theorem State.modStack_reqs (s : State) (k : Nat) (f : Stack → Stack) : (s.modStack k f).reqs = s.reqs := rfl
@[simp] theorem State.modStack_migs (s : State) (k : Nat) (f : Stack → Stack) : (s.modStack k f).migs = s.migs := rfl
@[simp] theorem State.modStack_cmds (s : State) (k : Nat) (f : Stack → Stack) : (s.modStack k f).cmds = s.cmds := rfl
@[simp] theorem State.modStack_preempts (s : State) (k : Nat) (f : Stack → Stack) : (s.modStack k f).preempts = s.preempts := rfl
@[simp] theorem State.modStack_parkedWgs (s : State) (k : Nat) (f : Stack → Stack) : (s.modStack k f).parkedWgs = s.parkedWgs := rfl
@[simp] theorem State.modStack_ctxRecs (s : State) (k : Nat) (f : Stack → Stack) : (s.modStack k f).ctxRecs = s.ctxRecs := rfl
@[simp] theorem State.modStack_restores (s : State) (k : Nat) (f : Stack → Stack) : (s.modStack k f).restores = s.restores := rfl
@[simp] theorem State.modStack_buckets (s : State) (k : Nat) (f : Stack → Stack) : (s.modStack k f).buckets = s.buckets := rfl
@[simp] theorem State.modStack_portQ (s : State) (k : Nat) (f : Stack → Stack) : (s.modStack k f).portQ = s.portQ := rfl
@[simp] theorem State.modStack_counters (s : State) (k : Nat) (f : Stack → Stack) : (s.modStack k f).counters = s.counters := rfl
@[simp] theorem State.modStack_nvCounters (s : State) (k : Nat) (f : Stack → Stack) : (s.modStack k f).nvCounters = s.nvCounters := rfl
@[simp] theorem State.modStack_atsDone (s : State) (k : Nat) (f : Stack → Stack) : (s.modStack k f).atsDone = s.atsDone := rfl
@[simp] theorem State.modStack_hostGot (s : State) (k : Nat) (f : Stack → Stack) : (s.modStack k f).hostGot = s.hostGot := rfl
@[simp] theorem State.modStack_lastPlaceAny (s : State) (k : Nat) (f : Stack → Stack) : (s.modStack k f).lastPlaceAny = s.lastPlaceAny := rfl

/-! The fields beside those that schedule updates. -/

@[simp] theorem State.schedule_clock (s : State) (t : Nat) (i : Instr) : (s.schedule t i).clock = s.clock := rfl
@[simp] theorem State.schedule_free (s : State) (t : Nat) (i : Instr) : (s.schedule t i).free = s.free := rfl
@[simp] theorem State.schedule_nextId (s : State) (t : Nat) (i : Instr) : (s.schedule t i).nextId = s.nextId := rfl
@[simp] theorem State.schedule_inbox (s : State) (t : Nat) (i : Instr) : (s.schedule t i).inbox = s.inbox := rfl
@[simp] theorem State.schedule_issuer (s : State) (t : Nat) (i : Instr) : (s.schedule t i).issuer = s.issuer := rfl
@[simp] theorem State.schedule_turn (s : State) (t : Nat) (i : Instr) : (s.schedule t i).turn = s.turn := rfl
@[simp] theorem State.schedule_mem (s : State) (t : Nat) (i : Instr) : (s.schedule t i).mem = s.mem := rfl
@[simp] theorem State.schedule_hostMem (s : State) (t : Nat) (i : Instr) : (s.schedule t i).hostMem = s.hostMem := rfl
@[simp] theorem State.schedule_sys (s : State) (t : Nat) (i : Instr) : (s.schedule t i).sys = s.sys := rfl
@[simp] theorem State.schedule_fuseCore (s : State) (t : Nat) (i : Instr) : (s.schedule t i).fuseCore = s.fuseCore := rfl
@[simp] theorem State.schedule_fuseSlice (s : State) (t : Nat) (i : Instr) : (s.schedule t i).fuseSlice = s.fuseSlice := rfl
@[simp] theorem State.schedule_fuseChan (s : State) (t : Nat) (i : Instr) : (s.schedule t i).fuseChan = s.fuseChan := rfl
@[simp] theorem State.schedule_cores (s : State) (t : Nat) (i : Instr) : (s.schedule t i).cores = s.cores := rfl
@[simp] theorem State.schedule_stackMap (s : State) (t : Nat) (i : Instr) : (s.schedule t i).stackMap = s.stackMap := rfl
@[simp] theorem State.schedule_grids (s : State) (t : Nat) (i : Instr) : (s.schedule t i).grids = s.grids := rfl
@[simp] theorem State.schedule_retired (s : State) (t : Nat) (i : Instr) : (s.schedule t i).retired = s.retired := rfl
@[simp] theorem State.schedule_nextLaunch (s : State) (t : Nat) (i : Instr) : (s.schedule t i).nextLaunch = s.nextLaunch := rfl
@[simp] theorem State.schedule_parts (s : State) (t : Nat) (i : Instr) : (s.schedule t i).parts = s.parts := rfl
@[simp] theorem State.schedule_funcs (s : State) (t : Nat) (i : Instr) : (s.schedule t i).funcs = s.funcs := rfl
@[simp] theorem State.schedule_winBase2 (s : State) (t : Nat) (i : Instr) : (s.schedule t i).winBase2 = s.winBase2 := rfl
@[simp] theorem State.schedule_winCtl (s : State) (t : Nat) (i : Instr) : (s.schedule t i).winCtl = s.winCtl := rfl
@[simp] theorem State.schedule_peerLocal (s : State) (t : Nat) (i : Instr) : (s.schedule t i).peerLocal = s.peerLocal := rfl
@[simp] theorem State.schedule_routes (s : State) (t : Nat) (i : Instr) : (s.schedule t i).routes = s.routes := rfl
@[simp] theorem State.schedule_inb (s : State) (t : Nat) (i : Instr) : (s.schedule t i).inb = s.inb := rfl
@[simp] theorem State.schedule_mailCmd (s : State) (t : Nat) (i : Instr) : (s.schedule t i).mailCmd = s.mailCmd := rfl
@[simp] theorem State.schedule_mailStatus (s : State) (t : Nat) (i : Instr) : (s.schedule t i).mailStatus = s.mailStatus := rfl
@[simp] theorem State.schedule_mailBuf (s : State) (t : Nat) (i : Instr) : (s.schedule t i).mailBuf = s.mailBuf := rfl
@[simp] theorem State.schedule_staged (s : State) (t : Nat) (i : Instr) : (s.schedule t i).staged = s.staged := rfl
@[simp] theorem State.schedule_running (s : State) (t : Nat) (i : Instr) : (s.schedule t i).running = s.running := rfl
@[simp] theorem State.schedule_minVersion (s : State) (t : Nat) (i : Instr) : (s.schedule t i).minVersion = s.minVersion := rfl
@[simp] theorem State.schedule_links (s : State) (t : Nat) (i : Instr) : (s.schedule t i).links = s.links := rfl
@[simp] theorem State.schedule_outPackets (s : State) (t : Nat) (i : Instr) : (s.schedule t i).outPackets = s.outPackets := rfl
@[simp] theorem State.schedule_dropped (s : State) (t : Nat) (i : Instr) : (s.schedule t i).dropped = s.dropped := rfl
@[simp] theorem State.schedule_loads (s : State) (t : Nat) (i : Instr) : (s.schedule t i).loads = s.loads := rfl
@[simp] theorem State.schedule_fly (s : State) (t : Nat) (i : Instr) : (s.schedule t i).fly = s.fly := rfl
@[simp] theorem State.schedule_walks (s : State) (t : Nat) (i : Instr) : (s.schedule t i).walks = s.walks := rfl
@[simp] theorem State.schedule_pageins (s : State) (t : Nat) (i : Instr) : (s.schedule t i).pageins = s.pageins := rfl
@[simp] theorem State.schedule_invals (s : State) (t : Nat) (i : Instr) : (s.schedule t i).invals = s.invals := rfl
@[simp] theorem State.schedule_s2writes (s : State) (t : Nat) (i : Instr) : (s.schedule t i).s2writes = s.s2writes := rfl
@[simp] theorem State.schedule_reqs (s : State) (t : Nat) (i : Instr) : (s.schedule t i).reqs = s.reqs := rfl
@[simp] theorem State.schedule_migs (s : State) (t : Nat) (i : Instr) : (s.schedule t i).migs = s.migs := rfl
@[simp] theorem State.schedule_cmds (s : State) (t : Nat) (i : Instr) : (s.schedule t i).cmds = s.cmds := rfl
@[simp] theorem State.schedule_preempts (s : State) (t : Nat) (i : Instr) : (s.schedule t i).preempts = s.preempts := rfl
@[simp] theorem State.schedule_parkedWgs (s : State) (t : Nat) (i : Instr) : (s.schedule t i).parkedWgs = s.parkedWgs := rfl
@[simp] theorem State.schedule_ctxRecs (s : State) (t : Nat) (i : Instr) : (s.schedule t i).ctxRecs = s.ctxRecs := rfl
@[simp] theorem State.schedule_restores (s : State) (t : Nat) (i : Instr) : (s.schedule t i).restores = s.restores := rfl
@[simp] theorem State.schedule_buckets (s : State) (t : Nat) (i : Instr) : (s.schedule t i).buckets = s.buckets := rfl
@[simp] theorem State.schedule_portQ (s : State) (t : Nat) (i : Instr) : (s.schedule t i).portQ = s.portQ := rfl
@[simp] theorem State.schedule_counters (s : State) (t : Nat) (i : Instr) : (s.schedule t i).counters = s.counters := rfl
@[simp] theorem State.schedule_nvCounters (s : State) (t : Nat) (i : Instr) : (s.schedule t i).nvCounters = s.nvCounters := rfl
@[simp] theorem State.schedule_atsDone (s : State) (t : Nat) (i : Instr) : (s.schedule t i).atsDone = s.atsDone := rfl
@[simp] theorem State.schedule_hostGot (s : State) (t : Nat) (i : Instr) : (s.schedule t i).hostGot = s.hostGot := rfl
@[simp] theorem State.schedule_lastPlaceAny (s : State) (t : Nat) (i : Instr) : (s.schedule t i).lastPlaceAny = s.lastPlaceAny := rfl

/-! The fields beside those that scheduleLate updates. -/

@[simp] theorem State.scheduleLate_clock (s : State) (t : Nat) (i : Instr) : (s.scheduleLate t i).clock = s.clock := rfl
@[simp] theorem State.scheduleLate_free (s : State) (t : Nat) (i : Instr) : (s.scheduleLate t i).free = s.free := rfl
@[simp] theorem State.scheduleLate_nextId (s : State) (t : Nat) (i : Instr) : (s.scheduleLate t i).nextId = s.nextId := rfl
@[simp] theorem State.scheduleLate_inbox (s : State) (t : Nat) (i : Instr) : (s.scheduleLate t i).inbox = s.inbox := rfl
@[simp] theorem State.scheduleLate_issuer (s : State) (t : Nat) (i : Instr) : (s.scheduleLate t i).issuer = s.issuer := rfl
@[simp] theorem State.scheduleLate_turn (s : State) (t : Nat) (i : Instr) : (s.scheduleLate t i).turn = s.turn := rfl
@[simp] theorem State.scheduleLate_mem (s : State) (t : Nat) (i : Instr) : (s.scheduleLate t i).mem = s.mem := rfl
@[simp] theorem State.scheduleLate_hostMem (s : State) (t : Nat) (i : Instr) : (s.scheduleLate t i).hostMem = s.hostMem := rfl
@[simp] theorem State.scheduleLate_sys (s : State) (t : Nat) (i : Instr) : (s.scheduleLate t i).sys = s.sys := rfl
@[simp] theorem State.scheduleLate_fuseCore (s : State) (t : Nat) (i : Instr) : (s.scheduleLate t i).fuseCore = s.fuseCore := rfl
@[simp] theorem State.scheduleLate_fuseSlice (s : State) (t : Nat) (i : Instr) : (s.scheduleLate t i).fuseSlice = s.fuseSlice := rfl
@[simp] theorem State.scheduleLate_fuseChan (s : State) (t : Nat) (i : Instr) : (s.scheduleLate t i).fuseChan = s.fuseChan := rfl
@[simp] theorem State.scheduleLate_cores (s : State) (t : Nat) (i : Instr) : (s.scheduleLate t i).cores = s.cores := rfl
@[simp] theorem State.scheduleLate_stackMap (s : State) (t : Nat) (i : Instr) : (s.scheduleLate t i).stackMap = s.stackMap := rfl
@[simp] theorem State.scheduleLate_grids (s : State) (t : Nat) (i : Instr) : (s.scheduleLate t i).grids = s.grids := rfl
@[simp] theorem State.scheduleLate_retired (s : State) (t : Nat) (i : Instr) : (s.scheduleLate t i).retired = s.retired := rfl
@[simp] theorem State.scheduleLate_nextLaunch (s : State) (t : Nat) (i : Instr) : (s.scheduleLate t i).nextLaunch = s.nextLaunch := rfl
@[simp] theorem State.scheduleLate_parts (s : State) (t : Nat) (i : Instr) : (s.scheduleLate t i).parts = s.parts := rfl
@[simp] theorem State.scheduleLate_funcs (s : State) (t : Nat) (i : Instr) : (s.scheduleLate t i).funcs = s.funcs := rfl
@[simp] theorem State.scheduleLate_winBase2 (s : State) (t : Nat) (i : Instr) : (s.scheduleLate t i).winBase2 = s.winBase2 := rfl
@[simp] theorem State.scheduleLate_winCtl (s : State) (t : Nat) (i : Instr) : (s.scheduleLate t i).winCtl = s.winCtl := rfl
@[simp] theorem State.scheduleLate_peerLocal (s : State) (t : Nat) (i : Instr) : (s.scheduleLate t i).peerLocal = s.peerLocal := rfl
@[simp] theorem State.scheduleLate_routes (s : State) (t : Nat) (i : Instr) : (s.scheduleLate t i).routes = s.routes := rfl
@[simp] theorem State.scheduleLate_inb (s : State) (t : Nat) (i : Instr) : (s.scheduleLate t i).inb = s.inb := rfl
@[simp] theorem State.scheduleLate_mailCmd (s : State) (t : Nat) (i : Instr) : (s.scheduleLate t i).mailCmd = s.mailCmd := rfl
@[simp] theorem State.scheduleLate_mailStatus (s : State) (t : Nat) (i : Instr) : (s.scheduleLate t i).mailStatus = s.mailStatus := rfl
@[simp] theorem State.scheduleLate_mailBuf (s : State) (t : Nat) (i : Instr) : (s.scheduleLate t i).mailBuf = s.mailBuf := rfl
@[simp] theorem State.scheduleLate_staged (s : State) (t : Nat) (i : Instr) : (s.scheduleLate t i).staged = s.staged := rfl
@[simp] theorem State.scheduleLate_running (s : State) (t : Nat) (i : Instr) : (s.scheduleLate t i).running = s.running := rfl
@[simp] theorem State.scheduleLate_minVersion (s : State) (t : Nat) (i : Instr) : (s.scheduleLate t i).minVersion = s.minVersion := rfl
@[simp] theorem State.scheduleLate_links (s : State) (t : Nat) (i : Instr) : (s.scheduleLate t i).links = s.links := rfl
@[simp] theorem State.scheduleLate_outPackets (s : State) (t : Nat) (i : Instr) : (s.scheduleLate t i).outPackets = s.outPackets := rfl
@[simp] theorem State.scheduleLate_dropped (s : State) (t : Nat) (i : Instr) : (s.scheduleLate t i).dropped = s.dropped := rfl
@[simp] theorem State.scheduleLate_loads (s : State) (t : Nat) (i : Instr) : (s.scheduleLate t i).loads = s.loads := rfl
@[simp] theorem State.scheduleLate_fly (s : State) (t : Nat) (i : Instr) : (s.scheduleLate t i).fly = s.fly := rfl
@[simp] theorem State.scheduleLate_walks (s : State) (t : Nat) (i : Instr) : (s.scheduleLate t i).walks = s.walks := rfl
@[simp] theorem State.scheduleLate_pageins (s : State) (t : Nat) (i : Instr) : (s.scheduleLate t i).pageins = s.pageins := rfl
@[simp] theorem State.scheduleLate_invals (s : State) (t : Nat) (i : Instr) : (s.scheduleLate t i).invals = s.invals := rfl
@[simp] theorem State.scheduleLate_s2writes (s : State) (t : Nat) (i : Instr) : (s.scheduleLate t i).s2writes = s.s2writes := rfl
@[simp] theorem State.scheduleLate_reqs (s : State) (t : Nat) (i : Instr) : (s.scheduleLate t i).reqs = s.reqs := rfl
@[simp] theorem State.scheduleLate_migs (s : State) (t : Nat) (i : Instr) : (s.scheduleLate t i).migs = s.migs := rfl
@[simp] theorem State.scheduleLate_cmds (s : State) (t : Nat) (i : Instr) : (s.scheduleLate t i).cmds = s.cmds := rfl
@[simp] theorem State.scheduleLate_preempts (s : State) (t : Nat) (i : Instr) : (s.scheduleLate t i).preempts = s.preempts := rfl
@[simp] theorem State.scheduleLate_parkedWgs (s : State) (t : Nat) (i : Instr) : (s.scheduleLate t i).parkedWgs = s.parkedWgs := rfl
@[simp] theorem State.scheduleLate_ctxRecs (s : State) (t : Nat) (i : Instr) : (s.scheduleLate t i).ctxRecs = s.ctxRecs := rfl
@[simp] theorem State.scheduleLate_restores (s : State) (t : Nat) (i : Instr) : (s.scheduleLate t i).restores = s.restores := rfl
@[simp] theorem State.scheduleLate_buckets (s : State) (t : Nat) (i : Instr) : (s.scheduleLate t i).buckets = s.buckets := rfl
@[simp] theorem State.scheduleLate_portQ (s : State) (t : Nat) (i : Instr) : (s.scheduleLate t i).portQ = s.portQ := rfl
@[simp] theorem State.scheduleLate_counters (s : State) (t : Nat) (i : Instr) : (s.scheduleLate t i).counters = s.counters := rfl
@[simp] theorem State.scheduleLate_nvCounters (s : State) (t : Nat) (i : Instr) : (s.scheduleLate t i).nvCounters = s.nvCounters := rfl
@[simp] theorem State.scheduleLate_atsDone (s : State) (t : Nat) (i : Instr) : (s.scheduleLate t i).atsDone = s.atsDone := rfl
@[simp] theorem State.scheduleLate_hostGot (s : State) (t : Nat) (i : Instr) : (s.scheduleLate t i).hostGot = s.hostGot := rfl
@[simp] theorem State.scheduleLate_lastPlaceAny (s : State) (t : Nat) (i : Instr) : (s.scheduleLate t i).lastPlaceAny = s.lastPlaceAny := rfl

/-! The fields beside those that setSys updates. -/

@[simp] theorem State.setSys_clock (s : State) (idx no : Nat) (v : U64) : (s.setSys idx no v).clock = s.clock := rfl
@[simp] theorem State.setSys_free (s : State) (idx no : Nat) (v : U64) : (s.setSys idx no v).free = s.free := rfl
@[simp] theorem State.setSys_nextId (s : State) (idx no : Nat) (v : U64) : (s.setSys idx no v).nextId = s.nextId := rfl
@[simp] theorem State.setSys_inbox (s : State) (idx no : Nat) (v : U64) : (s.setSys idx no v).inbox = s.inbox := rfl
@[simp] theorem State.setSys_agenda (s : State) (idx no : Nat) (v : U64) : (s.setSys idx no v).agenda = s.agenda := rfl
@[simp] theorem State.setSys_issuer (s : State) (idx no : Nat) (v : U64) : (s.setSys idx no v).issuer = s.issuer := rfl
@[simp] theorem State.setSys_turn (s : State) (idx no : Nat) (v : U64) : (s.setSys idx no v).turn = s.turn := rfl
@[simp] theorem State.setSys_mem (s : State) (idx no : Nat) (v : U64) : (s.setSys idx no v).mem = s.mem := rfl
@[simp] theorem State.setSys_hostMem (s : State) (idx no : Nat) (v : U64) : (s.setSys idx no v).hostMem = s.hostMem := rfl
@[simp] theorem State.setSys_fuseCore (s : State) (idx no : Nat) (v : U64) : (s.setSys idx no v).fuseCore = s.fuseCore := rfl
@[simp] theorem State.setSys_fuseSlice (s : State) (idx no : Nat) (v : U64) : (s.setSys idx no v).fuseSlice = s.fuseSlice := rfl
@[simp] theorem State.setSys_fuseChan (s : State) (idx no : Nat) (v : U64) : (s.setSys idx no v).fuseChan = s.fuseChan := rfl
@[simp] theorem State.setSys_cores (s : State) (idx no : Nat) (v : U64) : (s.setSys idx no v).cores = s.cores := rfl
@[simp] theorem State.setSys_stackMap (s : State) (idx no : Nat) (v : U64) : (s.setSys idx no v).stackMap = s.stackMap := rfl
@[simp] theorem State.setSys_grids (s : State) (idx no : Nat) (v : U64) : (s.setSys idx no v).grids = s.grids := rfl
@[simp] theorem State.setSys_retired (s : State) (idx no : Nat) (v : U64) : (s.setSys idx no v).retired = s.retired := rfl
@[simp] theorem State.setSys_nextLaunch (s : State) (idx no : Nat) (v : U64) : (s.setSys idx no v).nextLaunch = s.nextLaunch := rfl
@[simp] theorem State.setSys_parts (s : State) (idx no : Nat) (v : U64) : (s.setSys idx no v).parts = s.parts := rfl
@[simp] theorem State.setSys_funcs (s : State) (idx no : Nat) (v : U64) : (s.setSys idx no v).funcs = s.funcs := rfl
@[simp] theorem State.setSys_winBase2 (s : State) (idx no : Nat) (v : U64) : (s.setSys idx no v).winBase2 = s.winBase2 := rfl
@[simp] theorem State.setSys_winCtl (s : State) (idx no : Nat) (v : U64) : (s.setSys idx no v).winCtl = s.winCtl := rfl
@[simp] theorem State.setSys_peerLocal (s : State) (idx no : Nat) (v : U64) : (s.setSys idx no v).peerLocal = s.peerLocal := rfl
@[simp] theorem State.setSys_routes (s : State) (idx no : Nat) (v : U64) : (s.setSys idx no v).routes = s.routes := rfl
@[simp] theorem State.setSys_inb (s : State) (idx no : Nat) (v : U64) : (s.setSys idx no v).inb = s.inb := rfl
@[simp] theorem State.setSys_mailCmd (s : State) (idx no : Nat) (v : U64) : (s.setSys idx no v).mailCmd = s.mailCmd := rfl
@[simp] theorem State.setSys_mailStatus (s : State) (idx no : Nat) (v : U64) : (s.setSys idx no v).mailStatus = s.mailStatus := rfl
@[simp] theorem State.setSys_mailBuf (s : State) (idx no : Nat) (v : U64) : (s.setSys idx no v).mailBuf = s.mailBuf := rfl
@[simp] theorem State.setSys_staged (s : State) (idx no : Nat) (v : U64) : (s.setSys idx no v).staged = s.staged := rfl
@[simp] theorem State.setSys_running (s : State) (idx no : Nat) (v : U64) : (s.setSys idx no v).running = s.running := rfl
@[simp] theorem State.setSys_minVersion (s : State) (idx no : Nat) (v : U64) : (s.setSys idx no v).minVersion = s.minVersion := rfl
@[simp] theorem State.setSys_links (s : State) (idx no : Nat) (v : U64) : (s.setSys idx no v).links = s.links := rfl
@[simp] theorem State.setSys_outPackets (s : State) (idx no : Nat) (v : U64) : (s.setSys idx no v).outPackets = s.outPackets := rfl
@[simp] theorem State.setSys_dropped (s : State) (idx no : Nat) (v : U64) : (s.setSys idx no v).dropped = s.dropped := rfl
@[simp] theorem State.setSys_loads (s : State) (idx no : Nat) (v : U64) : (s.setSys idx no v).loads = s.loads := rfl
@[simp] theorem State.setSys_fly (s : State) (idx no : Nat) (v : U64) : (s.setSys idx no v).fly = s.fly := rfl
@[simp] theorem State.setSys_walks (s : State) (idx no : Nat) (v : U64) : (s.setSys idx no v).walks = s.walks := rfl
@[simp] theorem State.setSys_pageins (s : State) (idx no : Nat) (v : U64) : (s.setSys idx no v).pageins = s.pageins := rfl
@[simp] theorem State.setSys_invals (s : State) (idx no : Nat) (v : U64) : (s.setSys idx no v).invals = s.invals := rfl
@[simp] theorem State.setSys_s2writes (s : State) (idx no : Nat) (v : U64) : (s.setSys idx no v).s2writes = s.s2writes := rfl
@[simp] theorem State.setSys_reqs (s : State) (idx no : Nat) (v : U64) : (s.setSys idx no v).reqs = s.reqs := rfl
@[simp] theorem State.setSys_migs (s : State) (idx no : Nat) (v : U64) : (s.setSys idx no v).migs = s.migs := rfl
@[simp] theorem State.setSys_cmds (s : State) (idx no : Nat) (v : U64) : (s.setSys idx no v).cmds = s.cmds := rfl
@[simp] theorem State.setSys_preempts (s : State) (idx no : Nat) (v : U64) : (s.setSys idx no v).preempts = s.preempts := rfl
@[simp] theorem State.setSys_parkedWgs (s : State) (idx no : Nat) (v : U64) : (s.setSys idx no v).parkedWgs = s.parkedWgs := rfl
@[simp] theorem State.setSys_ctxRecs (s : State) (idx no : Nat) (v : U64) : (s.setSys idx no v).ctxRecs = s.ctxRecs := rfl
@[simp] theorem State.setSys_restores (s : State) (idx no : Nat) (v : U64) : (s.setSys idx no v).restores = s.restores := rfl
@[simp] theorem State.setSys_buckets (s : State) (idx no : Nat) (v : U64) : (s.setSys idx no v).buckets = s.buckets := rfl
@[simp] theorem State.setSys_portQ (s : State) (idx no : Nat) (v : U64) : (s.setSys idx no v).portQ = s.portQ := rfl
@[simp] theorem State.setSys_counters (s : State) (idx no : Nat) (v : U64) : (s.setSys idx no v).counters = s.counters := rfl
@[simp] theorem State.setSys_nvCounters (s : State) (idx no : Nat) (v : U64) : (s.setSys idx no v).nvCounters = s.nvCounters := rfl
@[simp] theorem State.setSys_atsDone (s : State) (idx no : Nat) (v : U64) : (s.setSys idx no v).atsDone = s.atsDone := rfl
@[simp] theorem State.setSys_hostGot (s : State) (idx no : Nat) (v : U64) : (s.setSys idx no v).hostGot = s.hostGot := rfl
@[simp] theorem State.setSys_lastPlaceAny (s : State) (idx no : Nat) (v : U64) : (s.setSys idx no v).lastPlaceAny = s.lastPlaceAny := rfl

/-! The fields beside those that startFetch updates. -/

@[simp] theorem State.startFetch_clock (s : State) (c w g : Nat) : (s.startFetch c w g).clock = s.clock := rfl
@[simp] theorem State.startFetch_free (s : State) (c w g : Nat) : (s.startFetch c w g).free = s.free := rfl
@[simp] theorem State.startFetch_nextId (s : State) (c w g : Nat) : (s.startFetch c w g).nextId = s.nextId := rfl
@[simp] theorem State.startFetch_inbox (s : State) (c w g : Nat) : (s.startFetch c w g).inbox = s.inbox := rfl
@[simp] theorem State.startFetch_issuer (s : State) (c w g : Nat) : (s.startFetch c w g).issuer = s.issuer := rfl
@[simp] theorem State.startFetch_turn (s : State) (c w g : Nat) : (s.startFetch c w g).turn = s.turn := rfl
@[simp] theorem State.startFetch_mem (s : State) (c w g : Nat) : (s.startFetch c w g).mem = s.mem := rfl
@[simp] theorem State.startFetch_hostMem (s : State) (c w g : Nat) : (s.startFetch c w g).hostMem = s.hostMem := rfl
@[simp] theorem State.startFetch_sys (s : State) (c w g : Nat) : (s.startFetch c w g).sys = s.sys := rfl
@[simp] theorem State.startFetch_fuseCore (s : State) (c w g : Nat) : (s.startFetch c w g).fuseCore = s.fuseCore := rfl
@[simp] theorem State.startFetch_fuseSlice (s : State) (c w g : Nat) : (s.startFetch c w g).fuseSlice = s.fuseSlice := rfl
@[simp] theorem State.startFetch_fuseChan (s : State) (c w g : Nat) : (s.startFetch c w g).fuseChan = s.fuseChan := rfl
@[simp] theorem State.startFetch_stackMap (s : State) (c w g : Nat) : (s.startFetch c w g).stackMap = s.stackMap := rfl
@[simp] theorem State.startFetch_grids (s : State) (c w g : Nat) : (s.startFetch c w g).grids = s.grids := rfl
@[simp] theorem State.startFetch_retired (s : State) (c w g : Nat) : (s.startFetch c w g).retired = s.retired := rfl
@[simp] theorem State.startFetch_nextLaunch (s : State) (c w g : Nat) : (s.startFetch c w g).nextLaunch = s.nextLaunch := rfl
@[simp] theorem State.startFetch_parts (s : State) (c w g : Nat) : (s.startFetch c w g).parts = s.parts := rfl
@[simp] theorem State.startFetch_funcs (s : State) (c w g : Nat) : (s.startFetch c w g).funcs = s.funcs := rfl
@[simp] theorem State.startFetch_winBase2 (s : State) (c w g : Nat) : (s.startFetch c w g).winBase2 = s.winBase2 := rfl
@[simp] theorem State.startFetch_winCtl (s : State) (c w g : Nat) : (s.startFetch c w g).winCtl = s.winCtl := rfl
@[simp] theorem State.startFetch_peerLocal (s : State) (c w g : Nat) : (s.startFetch c w g).peerLocal = s.peerLocal := rfl
@[simp] theorem State.startFetch_routes (s : State) (c w g : Nat) : (s.startFetch c w g).routes = s.routes := rfl
@[simp] theorem State.startFetch_inb (s : State) (c w g : Nat) : (s.startFetch c w g).inb = s.inb := rfl
@[simp] theorem State.startFetch_mailCmd (s : State) (c w g : Nat) : (s.startFetch c w g).mailCmd = s.mailCmd := rfl
@[simp] theorem State.startFetch_mailStatus (s : State) (c w g : Nat) : (s.startFetch c w g).mailStatus = s.mailStatus := rfl
@[simp] theorem State.startFetch_mailBuf (s : State) (c w g : Nat) : (s.startFetch c w g).mailBuf = s.mailBuf := rfl
@[simp] theorem State.startFetch_staged (s : State) (c w g : Nat) : (s.startFetch c w g).staged = s.staged := rfl
@[simp] theorem State.startFetch_running (s : State) (c w g : Nat) : (s.startFetch c w g).running = s.running := rfl
@[simp] theorem State.startFetch_minVersion (s : State) (c w g : Nat) : (s.startFetch c w g).minVersion = s.minVersion := rfl
@[simp] theorem State.startFetch_links (s : State) (c w g : Nat) : (s.startFetch c w g).links = s.links := rfl
@[simp] theorem State.startFetch_outPackets (s : State) (c w g : Nat) : (s.startFetch c w g).outPackets = s.outPackets := rfl
@[simp] theorem State.startFetch_dropped (s : State) (c w g : Nat) : (s.startFetch c w g).dropped = s.dropped := rfl
@[simp] theorem State.startFetch_loads (s : State) (c w g : Nat) : (s.startFetch c w g).loads = s.loads := rfl
@[simp] theorem State.startFetch_fly (s : State) (c w g : Nat) : (s.startFetch c w g).fly = s.fly := rfl
@[simp] theorem State.startFetch_walks (s : State) (c w g : Nat) : (s.startFetch c w g).walks = s.walks := rfl
@[simp] theorem State.startFetch_pageins (s : State) (c w g : Nat) : (s.startFetch c w g).pageins = s.pageins := rfl
@[simp] theorem State.startFetch_invals (s : State) (c w g : Nat) : (s.startFetch c w g).invals = s.invals := rfl
@[simp] theorem State.startFetch_s2writes (s : State) (c w g : Nat) : (s.startFetch c w g).s2writes = s.s2writes := rfl
@[simp] theorem State.startFetch_reqs (s : State) (c w g : Nat) : (s.startFetch c w g).reqs = s.reqs := rfl
@[simp] theorem State.startFetch_migs (s : State) (c w g : Nat) : (s.startFetch c w g).migs = s.migs := rfl
@[simp] theorem State.startFetch_cmds (s : State) (c w g : Nat) : (s.startFetch c w g).cmds = s.cmds := rfl
@[simp] theorem State.startFetch_preempts (s : State) (c w g : Nat) : (s.startFetch c w g).preempts = s.preempts := rfl
@[simp] theorem State.startFetch_parkedWgs (s : State) (c w g : Nat) : (s.startFetch c w g).parkedWgs = s.parkedWgs := rfl
@[simp] theorem State.startFetch_ctxRecs (s : State) (c w g : Nat) : (s.startFetch c w g).ctxRecs = s.ctxRecs := rfl
@[simp] theorem State.startFetch_restores (s : State) (c w g : Nat) : (s.startFetch c w g).restores = s.restores := rfl
@[simp] theorem State.startFetch_buckets (s : State) (c w g : Nat) : (s.startFetch c w g).buckets = s.buckets := rfl
@[simp] theorem State.startFetch_portQ (s : State) (c w g : Nat) : (s.startFetch c w g).portQ = s.portQ := rfl
@[simp] theorem State.startFetch_counters (s : State) (c w g : Nat) : (s.startFetch c w g).counters = s.counters := rfl
@[simp] theorem State.startFetch_nvCounters (s : State) (c w g : Nat) : (s.startFetch c w g).nvCounters = s.nvCounters := rfl
@[simp] theorem State.startFetch_atsDone (s : State) (c w g : Nat) : (s.startFetch c w g).atsDone = s.atsDone := rfl
@[simp] theorem State.startFetch_hostGot (s : State) (c w g : Nat) : (s.startFetch c w g).hostGot = s.hostGot := rfl
@[simp] theorem State.startFetch_lastPlaceAny (s : State) (c w g : Nat) : (s.startFetch c w g).lastPlaceAny = s.lastPlaceAny := rfl

/-! The fields beside those that wr updates. -/

@[simp] theorem State.wr_clock (s : State) (pa : Nat) (b : List Byte) : (s.wr pa b).clock = s.clock := rfl
@[simp] theorem State.wr_free (s : State) (pa : Nat) (b : List Byte) : (s.wr pa b).free = s.free := rfl
@[simp] theorem State.wr_nextId (s : State) (pa : Nat) (b : List Byte) : (s.wr pa b).nextId = s.nextId := rfl
@[simp] theorem State.wr_inbox (s : State) (pa : Nat) (b : List Byte) : (s.wr pa b).inbox = s.inbox := rfl
@[simp] theorem State.wr_agenda (s : State) (pa : Nat) (b : List Byte) : (s.wr pa b).agenda = s.agenda := rfl
@[simp] theorem State.wr_issuer (s : State) (pa : Nat) (b : List Byte) : (s.wr pa b).issuer = s.issuer := rfl
@[simp] theorem State.wr_turn (s : State) (pa : Nat) (b : List Byte) : (s.wr pa b).turn = s.turn := rfl
@[simp] theorem State.wr_hostMem (s : State) (pa : Nat) (b : List Byte) : (s.wr pa b).hostMem = s.hostMem := rfl
@[simp] theorem State.wr_sys (s : State) (pa : Nat) (b : List Byte) : (s.wr pa b).sys = s.sys := rfl
@[simp] theorem State.wr_fuseCore (s : State) (pa : Nat) (b : List Byte) : (s.wr pa b).fuseCore = s.fuseCore := rfl
@[simp] theorem State.wr_fuseSlice (s : State) (pa : Nat) (b : List Byte) : (s.wr pa b).fuseSlice = s.fuseSlice := rfl
@[simp] theorem State.wr_fuseChan (s : State) (pa : Nat) (b : List Byte) : (s.wr pa b).fuseChan = s.fuseChan := rfl
@[simp] theorem State.wr_cores (s : State) (pa : Nat) (b : List Byte) : (s.wr pa b).cores = s.cores := rfl
@[simp] theorem State.wr_stackMap (s : State) (pa : Nat) (b : List Byte) : (s.wr pa b).stackMap = s.stackMap := rfl
@[simp] theorem State.wr_grids (s : State) (pa : Nat) (b : List Byte) : (s.wr pa b).grids = s.grids := rfl
@[simp] theorem State.wr_retired (s : State) (pa : Nat) (b : List Byte) : (s.wr pa b).retired = s.retired := rfl
@[simp] theorem State.wr_nextLaunch (s : State) (pa : Nat) (b : List Byte) : (s.wr pa b).nextLaunch = s.nextLaunch := rfl
@[simp] theorem State.wr_parts (s : State) (pa : Nat) (b : List Byte) : (s.wr pa b).parts = s.parts := rfl
@[simp] theorem State.wr_funcs (s : State) (pa : Nat) (b : List Byte) : (s.wr pa b).funcs = s.funcs := rfl
@[simp] theorem State.wr_winBase2 (s : State) (pa : Nat) (b : List Byte) : (s.wr pa b).winBase2 = s.winBase2 := rfl
@[simp] theorem State.wr_winCtl (s : State) (pa : Nat) (b : List Byte) : (s.wr pa b).winCtl = s.winCtl := rfl
@[simp] theorem State.wr_peerLocal (s : State) (pa : Nat) (b : List Byte) : (s.wr pa b).peerLocal = s.peerLocal := rfl
@[simp] theorem State.wr_routes (s : State) (pa : Nat) (b : List Byte) : (s.wr pa b).routes = s.routes := rfl
@[simp] theorem State.wr_inb (s : State) (pa : Nat) (b : List Byte) : (s.wr pa b).inb = s.inb := rfl
@[simp] theorem State.wr_mailCmd (s : State) (pa : Nat) (b : List Byte) : (s.wr pa b).mailCmd = s.mailCmd := rfl
@[simp] theorem State.wr_mailStatus (s : State) (pa : Nat) (b : List Byte) : (s.wr pa b).mailStatus = s.mailStatus := rfl
@[simp] theorem State.wr_mailBuf (s : State) (pa : Nat) (b : List Byte) : (s.wr pa b).mailBuf = s.mailBuf := rfl
@[simp] theorem State.wr_staged (s : State) (pa : Nat) (b : List Byte) : (s.wr pa b).staged = s.staged := rfl
@[simp] theorem State.wr_running (s : State) (pa : Nat) (b : List Byte) : (s.wr pa b).running = s.running := rfl
@[simp] theorem State.wr_minVersion (s : State) (pa : Nat) (b : List Byte) : (s.wr pa b).minVersion = s.minVersion := rfl
@[simp] theorem State.wr_links (s : State) (pa : Nat) (b : List Byte) : (s.wr pa b).links = s.links := rfl
@[simp] theorem State.wr_outPackets (s : State) (pa : Nat) (b : List Byte) : (s.wr pa b).outPackets = s.outPackets := rfl
@[simp] theorem State.wr_dropped (s : State) (pa : Nat) (b : List Byte) : (s.wr pa b).dropped = s.dropped := rfl
@[simp] theorem State.wr_loads (s : State) (pa : Nat) (b : List Byte) : (s.wr pa b).loads = s.loads := rfl
@[simp] theorem State.wr_fly (s : State) (pa : Nat) (b : List Byte) : (s.wr pa b).fly = s.fly := rfl
@[simp] theorem State.wr_walks (s : State) (pa : Nat) (b : List Byte) : (s.wr pa b).walks = s.walks := rfl
@[simp] theorem State.wr_pageins (s : State) (pa : Nat) (b : List Byte) : (s.wr pa b).pageins = s.pageins := rfl
@[simp] theorem State.wr_invals (s : State) (pa : Nat) (b : List Byte) : (s.wr pa b).invals = s.invals := rfl
@[simp] theorem State.wr_s2writes (s : State) (pa : Nat) (b : List Byte) : (s.wr pa b).s2writes = s.s2writes := rfl
@[simp] theorem State.wr_reqs (s : State) (pa : Nat) (b : List Byte) : (s.wr pa b).reqs = s.reqs := rfl
@[simp] theorem State.wr_cmds (s : State) (pa : Nat) (b : List Byte) : (s.wr pa b).cmds = s.cmds := rfl
@[simp] theorem State.wr_preempts (s : State) (pa : Nat) (b : List Byte) : (s.wr pa b).preempts = s.preempts := rfl
@[simp] theorem State.wr_parkedWgs (s : State) (pa : Nat) (b : List Byte) : (s.wr pa b).parkedWgs = s.parkedWgs := rfl
@[simp] theorem State.wr_ctxRecs (s : State) (pa : Nat) (b : List Byte) : (s.wr pa b).ctxRecs = s.ctxRecs := rfl
@[simp] theorem State.wr_restores (s : State) (pa : Nat) (b : List Byte) : (s.wr pa b).restores = s.restores := rfl
@[simp] theorem State.wr_buckets (s : State) (pa : Nat) (b : List Byte) : (s.wr pa b).buckets = s.buckets := rfl
@[simp] theorem State.wr_portQ (s : State) (pa : Nat) (b : List Byte) : (s.wr pa b).portQ = s.portQ := rfl
@[simp] theorem State.wr_counters (s : State) (pa : Nat) (b : List Byte) : (s.wr pa b).counters = s.counters := rfl
@[simp] theorem State.wr_nvCounters (s : State) (pa : Nat) (b : List Byte) : (s.wr pa b).nvCounters = s.nvCounters := rfl
@[simp] theorem State.wr_atsDone (s : State) (pa : Nat) (b : List Byte) : (s.wr pa b).atsDone = s.atsDone := rfl
@[simp] theorem State.wr_hostGot (s : State) (pa : Nat) (b : List Byte) : (s.wr pa b).hostGot = s.hostGot := rfl
@[simp] theorem State.wr_lastPlaceAny (s : State) (pa : Nat) (b : List Byte) : (s.wr pa b).lastPlaceAny = s.lastPlaceAny := rfl

/-! Cores, warps and fragments: reading after an update. -/

@[simp] theorem State.core_setCore (s : State) (c : Nat) (k : Core) : (s.setCore c k).core c = k := by
  simp [State.core, State.setCore]
theorem State.core_setCore_other (s : State) {c d : Nat} (k : Core) (h : d ≠ c) : (s.setCore c k).core d = s.core d := by
  simp [State.core, State.setCore, FMap.getD_put_other, h]
@[simp] theorem State.core_modCore (s : State) (c : Nat) (f : Core → Core) : (s.modCore c f).core c = f (s.core c) := by
  simp [State.modCore]
theorem State.core_modCore_other (s : State) {c d : Nat} (f : Core → Core) (h : d ≠ c) :
    (s.modCore c f).core d = s.core d := State.core_setCore_other s _ h
@[simp] theorem State.warp_setWarp (s : State) (c w : Nat) (k : Warp) : (s.setWarp c w k).warp c w = k := by
  simp [State.warp, State.setWarp]
@[simp] theorem State.warp?_setWarp (s : State) (c w : Nat) (k : Warp) : (s.setWarp c w k).warp? c w = some k := by
  simp [State.warp?, State.setWarp]
theorem State.warp_setWarp_other (s : State) {c w c' w' : Nat} (k : Warp) (h : c' ≠ c ∨ w' ≠ w) :
    (s.setWarp c w k).warp c' w' = s.warp c' w' := by
  by_cases hc : c' = c
  · subst hc
    have hw : w' ≠ w := by simpa using h
    simp [State.warp, State.setWarp, FMap.getD_put_other, hw]
  · simp [State.warp, State.setWarp, State.core_modCore_other, hc]
@[simp] theorem State.warp_modWarp (s : State) (c w : Nat) (f : Warp → Warp) :
    (s.modWarp c w f).warp c w = f (s.warp c w) := by simp [State.modWarp]
theorem State.warp_modWarp_other (s : State) {c w c' w' : Nat} (f : Warp → Warp) (h : c' ≠ c ∨ w' ≠ w) :
    (s.modWarp c w f).warp c' w' = s.warp c' w' := State.warp_setWarp_other s _ h
@[simp] theorem State.frag_modFrag (s : State) (c w g : Nat) (f : Frag → Frag) :
    (s.modFrag c w g f).frag c w g = f (s.frag c w g) := by simp [State.frag, State.modFrag]
theorem State.frag_modFrag_other (s : State) {c w g g' : Nat} (f : Frag → Frag) (h : g' ≠ g) :
    (s.modFrag c w g f).frag c w g' = s.frag c w g' := by
  simp [State.frag, State.modFrag, FMap.getD_put_other, h]
@[simp] theorem State.warp_modFrag (s : State) (c w g : Nat) (f : Frag → Frag) :
    (s.modFrag c w g f).warp c w
      = { s.warp c w with frags := FMap.put (s.warp c w).frags g (f (FMap.getD (s.warp c w).frags g {})) } := by
  simp [State.modFrag]
theorem State.warp_modFrag_other (s : State) {c w c' w' : Nat} (g : Nat) (f : Frag → Frag) (h : c' ≠ c ∨ w' ≠ w) :
    (s.modFrag c w g f).warp c' w' = s.warp c' w' := State.warp_modWarp_other s _ h
@[simp] theorem State.core_schedule (s : State) (t : Nat) (i : Instr) (c : Nat) : (s.schedule t i).core c = s.core c := rfl
@[simp] theorem State.warp_schedule (s : State) (t : Nat) (i : Instr) (c w : Nat) :
    (s.schedule t i).warp c w = s.warp c w := rfl
@[simp] theorem State.frag_schedule (s : State) (t : Nat) (i : Instr) (c w g : Nat) :
    (s.schedule t i).frag c w g = s.frag c w g := rfl
@[simp] theorem State.wg_modWarp (s : State) (c w k : Nat) (f : Warp → Warp) : (s.modWarp c w f).wg c k = s.wg c k := by
  simp [State.wg, State.modWarp, State.setWarp]
@[simp] theorem State.wg_modFrag (s : State) (c w g k : Nat) (f : Frag → Frag) : (s.modFrag c w g f).wg c k = s.wg c k := by
  simp [State.modFrag]
@[simp] theorem State.stack_modStack (s : State) (k : Nat) (f : Stack → Stack) :
    (s.modStack k f).stack k = f (s.stack k) := by simp [State.stack, State.modStack]
theorem State.stack_modStack_other (s : State) {k j : Nat} (f : Stack → Stack) (h : j ≠ k) :
    (s.modStack k f).stack j = s.stack j := by simp [State.stack, State.modStack, FMap.getD_put_other, h]

/-! The pending order: a step put in is there, and the others stay. -/

theorem agendaPut_mem (t : Nat) (i : Instr) : ∀ (l : List (Nat × Instr)) (x : Nat × Instr),
    x ∈ agendaPut t i l ↔ x = (t, i) ∨ x ∈ l
  | [], x => by simp [agendaPut]
  | (t', i') :: r, x => by
    unfold agendaPut
    split
    · simp
    · simp only [List.mem_cons, agendaPut_mem t i r x]
      constructor
      · rintro (h | h | h) <;> simp [h]
      · rintro (h | h | h) <;> simp [h]

@[simp] theorem State.mem_schedule (s : State) (t : Nat) (i : Instr) (x : Nat × Instr) :
    x ∈ (s.schedule t i).agenda ↔ x = (2 * t, i) ∨ x ∈ s.agenda := agendaPut_mem _ i _ x

/-! System registers. -/

@[simp] theorem State.sysReg_setSys (s : State) (idx no : Nat) (v : U64) : (s.setSys idx no v).sysReg idx no = v := by
  simp [State.sysReg, State.setSys]

/-! Memory: bytes of the device. -/

/-- What a write of device memory leaves in each byte. -/
theorem State.wr_get (s : State) (pa : Nat) (l : List Byte) (a : Nat) :
    (s.wr pa l).mem.get a = if pa ≤ a ∧ a < pa + l.length then l.getD (a - pa) 0 else s.mem.get a :=
  Memory.get_write l s.mem pa a

/-- A write of device memory keeps its canonical form. -/
theorem State.wr_wf (s : State) (pa : Nat) (l : List Byte) (h : s.mem.wf = true) : (s.wr pa l).mem.wf = true :=
  Memory.write_wf l s.mem pa h

/-- Memory after reset is in form. -/
theorem State.reset_wf : State.reset.mem.wf = true ∧ State.reset.hostMem.wf = true := ⟨rfl, rfl⟩

/-! Registers of a warp. -/

@[simp] theorem Warp.getP_zero (k : Warp) : k.getP 0 = BitVec.allOnes 32 := rfl

/-- What lands in an S register is what it then reads. -/
theorem Warp.getS_land (k : Warp) (i : Nat) (mask : U32) (lanes : Lanes) (v : U64) :
    (k.land (.s i) mask lanes v).getS i = v := by
  unfold Warp.land Warp.getS
  split <;> simp

/-- P0 takes nothing. -/
theorem Warp.getP_land_zero (k : Warp) (mask : U32) (lanes : Lanes) (v : U64) (i : Nat) :
    (k.land (.p 0) mask lanes v).getP i = k.getP i := by
  unfold Warp.land Warp.getP
  by_cases h : i = 0
  · simp [h]
  · by_cases hb : k.bad.isEmpty <;> simp [h, hb]

end Sys2Proof.Machine
end

