-- ==== Sys2Proof/Laws/Issue.lean ====
section
/-! SUPPORT. The issue of a word, said once: an instruction that issues to its own effect answers a next state, which is
that effect followed by the end of the issue. -/

namespace Sys2Proof.Machine

/-- Covering a word's registers leaves the state, or writes the allocation. -/
theorem State.cover_eq (s s' : State) (c w : Nat) (l : List Nat) (h : s.cover c w l = some s') :
    s' = s ∨ ∃ a, s' = s.modWarp c w fun k => { k with alloc := a } := by
  unfold State.cover at h
  dsimp only at h
  split at h
  · left; exact (Option.some.inj h).symm
  · split at h
    · left; exact (Option.some.inj h).symm
    · split at h
      · cases h
      · right; exact ⟨_, (Option.some.inj h).symm⟩

/-- Growing an allocation changes nothing of a warp but the allocation. -/
theorem State.cover_warp (s s' : State) (c w : Nat) (l : List Nat) (h : s.cover c w l = some s') :
    ∃ a, s'.warp c w = { s.warp c w with alloc := a } := by
  rcases State.cover_eq s s' c w l h with rfl | ⟨a, rfl⟩
  · exact ⟨_, rfl⟩
  · exact ⟨a, by simp⟩

/-- Growing an allocation changes neither the fragment nor the trap record. -/
theorem State.cover_frag (s s' : State) (c w g : Nat) (l : List Nat) (h : s.cover c w l = some s') :
    s'.frag c w g = s.frag c w g ∧ (s'.warp c w).trap = (s.warp c w).trap := by
  obtain ⟨a, ha⟩ := State.cover_warp s s' c w l h
  simp [State.frag, ha]

/-- The end of an issue looks at the place, the head, the PC and the lanes a replay skips. -/
theorem State.finish_congr (s s' : State) (x y : Ctx) (r : Res) (hc : x.c = y.c) (hw : x.w = y.w) (hg : x.g = y.g)
    (hh : x.h = y.h) (hp : x.pc = y.pc) (hf : x.fr = y.fr) (ht : x.k.trap = y.k.trap) : s.finish x r = s'.finish y r := by
  cases r <;> simp [State.finish, replayMask, hc, hw, hg, hh, hp, hf, ht]

/-- The end of an issue by the context that the effect saw. -/
def State.done (x : Ctx) : Res → State
  | .next s' => s'.advance x.c x.w x.g x.h.st.toNat (x.pc + 8)
  | .goto s' pc => s'.advance x.c x.w x.g x.h.st.toNat pc
  | .gone s' => s'
  | .trap s' t => s'.takeTrap x.c x.w x.g { t with done := t.done ||| replayMask x.k x.fr }

theorem State.finish_eq_done (s : State) (x : Ctx) (r : Res) : s.finish x r = State.done x r := by cases r <;> rfl

/-- Only a trap undoes the growth of the allocation. -/
@[simp] theorem Res.ungrown_next (c w a : Nat) (s : State) : (Res.next s).ungrown c w a = .next s := rfl
@[simp] theorem Res.ungrown_goto (c w a : Nat) (s : State) (pc : U64) : (Res.goto s pc).ungrown c w a = .goto s pc := rfl
@[simp] theorem Res.ungrown_gone (c w a : Nat) (s : State) : (Res.gone s).ungrown c w a = .gone s := rfl

/-- A word that issues answers its effect, ended. -/
theorem runIsa_issues {i : Instr} {h : Head} {whole : Bool} {s : State} {c w g : Nat} (body : Ctx → State → Res)
    (hi : s.issues i h whole c w g = true) :
    runIsa i h whole s body = .next (State.done (s.seen i h whole c w g) ((body (s.seen i h whole c w g) (s.opened i c w g)).ungrown c w
      ((s.beginIssue i c w g).warp c w).alloc)) := by
  simp only [State.issues, Bool.and_eq_true, Bool.not_eq_true', beq_iff_eq] at hi
  obtain ⟨⟨⟨⟨⟨⟨⟨⟨⟨h1, h2⟩, h3⟩, h4⟩, h5⟩, h6⟩, h7⟩, h8⟩, h9⟩, h10⟩ := hi
  obtain ⟨s', hs'⟩ := Option.isSome_iff_exists.1 h10
  have ho : s.opened i c w g = s' := by simp [State.opened, hs']
  unfold runIsa
  rw [h1]
  simp only [h2, Bool.false_eq_true, if_false]
  congr 1
  unfold State.issue
  have h3' := Option.isNone_iff_eq_none.1 h3
  simp only [h3']
  simp only [h4, h5, h6, h7, h8, h9, hs', Bool.not_true, Bool.false_eq_true, if_false]
  rw [State.finish_eq_done]
  have hf := State.cover_frag _ _ c w g _ hs'
  unfold State.seen
  rw [ho, ← State.finish_eq_done s, ← State.finish_eq_done s]
  exact State.finish_congr s s _ _ _ rfl rfl rfl rfl (by simp [Ctx.of, hf.1]) (by simp [Ctx.of, hf.1])
    (by simp [Ctx.of, hf.2])

/-! The place and the time an issue sees. -/

@[simp] theorem State.seen_c (s : State) (i : Instr) (h : Head) (b : Bool) (c w g : Nat) : (s.seen i h b c w g).c = c := rfl
@[simp] theorem State.seen_w (s : State) (i : Instr) (h : Head) (b : Bool) (c w g : Nat) : (s.seen i h b c w g).w = w := rfl
@[simp] theorem State.seen_g (s : State) (i : Instr) (h : Head) (b : Bool) (c w g : Nat) : (s.seen i h b c w g).g = g := rfl
@[simp] theorem State.seen_h (s : State) (i : Instr) (h : Head) (b : Bool) (c w g : Nat) : (s.seen i h b c w g).h = h := rfl

end Sys2Proof.Machine
end

