-- ==== Sys2Proof/Laws/MemWf.lean ====
section
/-! SUPPORT. The canonical form of memory: what every operation on memory, on the host's memory and on a scratchpad leaves. -/

namespace Sys2Proof.Machine

/-- Cells taken out of a memory leave it canonical. -/
theorem Memory.filter_wf (p : Host.Cell → Bool) : ∀ m : Memory, m.wf = true → Memory.wf (m.filter p) = true := by
  intro m
  induction m with
  | nil => intro _; rfl
  | cons c r ih =>
    intro h
    have hr := ih (Memory.wf_tail h)
    cases hp : p c with
    | false => simpa [List.filter_cons, hp] using hr
    | true =>
      simp only [List.filter_cons, hp, if_true]
      exact Memory.wf_cons (Memory.wf_head h) (fun x hx => Memory.wf_past h x (List.mem_filter.mp hx).1) hr

/-- A property of every value of a map holds after a put. -/
theorem FMap.mem_put {β : Type} (m : FMap β) (k : Nat) (v : β) (x : Nat × β) (h : x ∈ FMap.put m k v) : x ∈ m ∨ x.2 = v := by
  induction m with
  | nil => simp [FMap.put] at h; exact .inr (by rw [h])
  | cons c r ih =>
    obtain ⟨k', v'⟩ := c
    simp only [FMap.put] at h
    split at h
    · rcases List.mem_cons.mp h with h | h
      · exact .inr (by rw [h])
      · exact .inl h
    · split at h
      · rcases List.mem_cons.mp h with h | h
        · exact .inr (by rw [h])
        · exact .inl (List.mem_cons_of_mem _ h)
      · rcases List.mem_cons.mp h with h | h
        · exact .inl (by rw [h]; exact List.mem_cons_self)
        · rcases ih h with h | h
          · exact .inl (List.mem_cons_of_mem _ h)
          · exact .inr h

/-- A value that a map gives is one of its values, or the default. -/
theorem FMap.getD_mem {β : Type} (m : FMap β) (k : Nat) (d : β) : FMap.getD m k d = d ∨ ∃ x ∈ m, FMap.getD m k d = x.2 := by
  induction m with
  | nil => exact .inl rfl
  | cons c r ih =>
    obtain ⟨k', v'⟩ := c
    simp only [FMap.getD, FMap.get?] at ih ⊢
    split
    · exact .inr ⟨(k', v'), List.mem_cons_self, rfl⟩
    · rcases ih with h | ⟨x, hx, h⟩
      · exact .inl h
      · exact .inr ⟨x, List.mem_cons_of_mem _ hx, h⟩

theorem State.memWf_iff (s : State) :
    s.memWf = true ↔ s.mem.wf = true ∧ s.hostMem.wf = true ∧ ∀ c ∈ s.cores, c.2.scratch.wf = true := by
  simp [State.memWf, Bool.and_eq_true, List.all_eq_true, and_assoc]

theorem State.memWf_core {s : State} (h : s.memWf = true) (c : Nat) : (s.core c).scratch.wf = true := by
  have hc := ((State.memWf_iff s).mp h).2.2
  rcases FMap.getD_mem s.cores c {} with e | ⟨x, hx, e⟩
  · unfold State.core; rw [e]; rfl
  · unfold State.core; rw [e]; exact hc x hx

/-- A change of a core that leaves its scratchpad canonical. -/
theorem State.memWf_modCore {s : State} (h : s.memWf = true) (c : Nat) (f : Core → Core) (hf : (f (s.core c)).scratch.wf = true) :
    (s.modCore c f).memWf = true := by
  rw [State.memWf_iff] at h ⊢
  refine ⟨h.1, h.2.1, fun x hx => ?_⟩
  rcases FMap.mem_put _ _ _ _ hx with hx | hx
  · exact h.2.2 x hx
  · rw [hx]; exact hf

/-- A change of a warp or of a fragment touches no memory. -/
theorem State.memWf_modWarp {s : State} (h : s.memWf = true) (c w : Nat) (f : Warp → Warp) : (s.modWarp c w f).memWf = true :=
  State.memWf_modCore h c _ (State.memWf_core h c)

theorem State.memWf_modFrag {s : State} (h : s.memWf = true) (c w g : Nat) (f : Frag → Frag) : (s.modFrag c w g f).memWf = true :=
  State.memWf_modWarp h c w _

theorem State.memWf_modStack {s : State} (h : s.memWf = true) (k : Nat) (f : Stack → Stack) : (s.modStack k f).memWf = true := by
  rw [State.memWf_iff] at h ⊢; exact h

theorem State.memWf_schedule {s : State} (h : s.memWf = true) (t : Nat) (i : Instr) : (s.schedule t i).memWf = true := by
  rw [State.memWf_iff] at h ⊢; exact h

/-- A write of device memory. -/
theorem State.memWf_wr {s : State} (h : s.memWf = true) (a : Nat) (b : List Byte) : (s.wr a b).memWf = true := by
  rw [State.memWf_iff] at h ⊢
  exact ⟨Memory.write_wf b _ a h.1, h.2⟩

theorem State.memWf_wrN {s : State} (h : s.memWf = true) (a n v : Nat) : (s.wrN a n v).memWf = true := State.memWf_wr h a _

/-- A write of the host's memory. -/
theorem State.memWf_host {s : State} (h : s.memWf = true) (a : Nat) (b : List Byte) :
    ({ s with hostMem := s.hostMem.write a b } : State).memWf = true := by
  rw [State.memWf_iff] at h ⊢
  exact ⟨h.1, Memory.write_wf b _ a h.2.1, h.2.2⟩

/-- A write of a scratchpad. -/
theorem State.memWf_spWr {s : State} (h : s.memWf = true) (c a : Nat) (b : List Byte) : (s.spWr c a b).memWf = true := by
  refine State.memWf_modCore h c _ ?_
  dsimp only
  split <;> exact Memory.write_wf b _ a (State.memWf_core h c)

end Sys2Proof.Machine
end

