-- ==== Sys2Proof/Laws/Results.lean ====
section
/-! SUPPORT. Results on their way: what sending one puts into the state, and that it stays there to the end of the issue. -/

namespace Sys2Proof.Machine

/-! The end of an issue leaves what is on its way. -/

/-- What the end of an issue does to the warp: its fragments and the lanes done in its trap record, nothing else. -/
theorem State.advance_warp (s : State) (c w g st : Nat) (pc : U64) :
    (s.advance c w g st pc).warp c w
      = { s.warp c w with
            frags := ((s.advance c w g st pc).warp c w).frags, trap := ((s.advance c w g st pc).warp c w).trap } := by
  unfold State.advance State.startFetch
  dsimp only
  split <;> simp [State.modFrag]

theorem State.advance_pend (s : State) (c w g st : Nat) (pc : U64) :
    ((s.advance c w g st pc).warp c w).pend = (s.warp c w).pend := by
  rw [State.advance_warp]

theorem State.advance_agenda (s : State) (c w g st : Nat) (pc : U64) (x : Nat × Instr) :
    x ∈ (s.advance c w g st pc).agenda ↔ x = (2 * s.clock, .instructionFetch c w g) ∨ x ∈ s.agenda := by
  unfold State.advance State.startFetch
  dsimp only
  split <;> simp

@[simp] theorem State.advance_clock (s : State) (c w g st : Nat) (pc : U64) : (s.advance c w g st pc).clock = s.clock := by
  unfold State.advance
  dsimp only
  split <;> simp

@[simp] theorem State.advance_mem (s : State) (c w g st : Nat) (pc : U64) : (s.advance c w g st pc).mem = s.mem := by
  unfold State.advance
  dsimp only
  split <;> simp

/-- The fragment after the end of an issue. -/
theorem State.advance_frag (s : State) (c w g st : Nat) (pc : U64) :
    let f := (s.advance c w g st pc).frag c w g
    f.pc = pc ∧ f.exec = (s.frag c w g).exec ∧ f.memb = (s.frag c w g).memb ∧ f.word = none
      ∧ f.stall = s.clock + max 1 st ∧ f.replay = none := by
  unfold State.advance State.startFetch
  dsimp only
  split <;> simp [State.frag, State.modFrag]

/-! Sending. -/

/-- The result that a sending puts on its way. -/
def sentPend (s : State) (r : Reg) (mask : U32) (lanes : Lanes) (uni : U64) (lat : Nat) : Pend :=
  ⟨s.nextId, r, mask, lanes, uni, s.clock, s.clock + lat⟩

theorem State.send_warp (s : State) (c w : Nat) (r : Reg) (mask : U32) (lanes : Lanes) (uni : U64) (lat : Nat) :
    (s.send c w r mask lanes uni lat).warp c w = (s.warp c w).send (sentPend s r mask lanes uni lat) := by
  simp [State.send, sentPend, State.warp, State.core, State.modWarp, State.setWarp, State.modCore, State.setCore,
    State.schedule]

theorem State.send_agenda (s : State) (c w : Nat) (r : Reg) (mask : U32) (lanes : Lanes) (uni : U64) (lat : Nat)
    (x : Nat × Instr) :
    x ∈ (s.send c w r mask lanes uni lat).agenda
      ↔ x = (2 * (s.clock + lat), .fixedLatencyLand c w s.nextId) ∨ x ∈ s.agenda := by
  simp [State.send]

@[simp] theorem State.send_clock (s : State) (c w : Nat) (r : Reg) (mask : U32) (lanes : Lanes) (uni : U64) (lat : Nat) :
    (s.send c w r mask lanes uni lat).clock = s.clock := rfl
@[simp] theorem State.send_mem (s : State) (c w : Nat) (r : Reg) (mask : U32) (lanes : Lanes) (uni : U64) (lat : Nat) :
    (s.send c w r mask lanes uni lat).mem = s.mem := rfl

/-- A result just sent is on its way. -/
theorem Flies.of_send (s : State) (x : Ctx) (r : Reg) (mask : U32) (lanes : Lanes) (uni : U64) (lat : Nat)
    (good : Pend → Prop) (hx : x.clock = s.clock) (hg : good (sentPend s r mask lanes uni lat)) :
    Flies (s.send x.c x.w r mask lanes uni lat) x r mask lat good := by
  refine ⟨sentPend s r mask lanes uni lat, ?_, rfl, rfl, by simp [sentPend, hx], ?_, hg⟩
  · rw [State.send_warp]; simp [Warp.send]
  · rw [State.send_agenda]; left; simp [sentPend, hx]

/-- It stays on its way when a result of another register is sent. -/
theorem Flies.send_other {t : State} {x : Ctx} {r r' : Reg} {mask mask' : U32} {lat lat' : Nat} {good : Pend → Prop}
    (lanes : Lanes) (uni : U64) (h : Flies t x r mask lat good) (hr : r ≠ r') :
    Flies (t.send x.c x.w r' mask' lanes uni lat') x r mask lat good := by
  obtain ⟨p, hp, h1, h2, h3, h4, h5⟩ := h
  refine ⟨p, ?_, h1, h2, h3, ?_, h5⟩
  · rw [State.send_warp]
    simp only [Warp.send, List.mem_append, List.mem_map]
    left
    refine ⟨p, hp, ?_⟩
    rw [if_neg]
    rintro ⟨ha, -⟩
    exact hr (h1.symm.trans ha)
  · rw [State.send_agenda]; right; exact h4

/-- It stays on its way to the end of the issue. -/
theorem Flies.advance {t : State} {x : Ctx} {r : Reg} {mask : U32} {lat : Nat} {good : Pend → Prop} (st : Nat) (pc : U64)
    (h : Flies t x r mask lat good) : Flies (t.advance x.c x.w x.g st pc) x r mask lat good := by
  obtain ⟨p, hp, h1, h2, h3, h4, h5⟩ := h
  exact ⟨p, by rw [State.advance_pend]; exact hp, h1, h2, h3, (State.advance_agenda ..).2 (.inr h4), h5⟩

/-- It stays on its way under an update of the warp that leaves what is on its way. -/
theorem Flies.modWarp {t : State} {x : Ctx} {r : Reg} {mask : U32} {lat : Nat} {good : Pend → Prop} (f : Warp → Warp)
    (hf : ∀ k, (f k).pend = k.pend) (h : Flies t x r mask lat good) : Flies (t.modWarp x.c x.w f) x r mask lat good := by
  obtain ⟨p, hp, h1, h2, h3, h4, h5⟩ := h
  exact ⟨p, by simp [hf, hp], h1, h2, h3, by simpa using h4, h5⟩

/-- A V register and the next are two registers. -/
theorem Warp.physV_succ_ne (k : Warp) (n : Nat) : k.physV n ≠ k.physV (n + 1) := by
  unfold Warp.physV
  by_cases h1 : n < 16 <;> by_cases h2 : n + 1 < 16 <;> by_cases h3 : k.handler.isSome = true <;>
    by_cases h4 : n < 32 <;> by_cases h5 : n + 1 < 32 <;> simp only [h1, h2, h3, h4, h5, if_true, if_false] <;>
    intro h <;> injection h <;> omega

/-! Destinations. -/

/-- What Ctx.put sends is on its way. -/
theorem Writes.of_put (x : Ctx) (s : State) (d : Opd) (wide : Bool) (lat : Nat) (v : Nat → Nat) (u : Nat)
    (hx : x.clock = s.clock) : Writes (x.put s d wide lat v u) x d wide lat v u := by
  unfold Writes Ctx.put
  cases d <;> dsimp only <;> try trivial
  case v n =>
    have h1 := Flies.of_send s x (x.k.physV n.toNat) x.act (Lanes.build fun l => BitVec.ofNat 32 (v l)) 0 lat
      (fun p => ∀ l < 32, p.lanes.get l = BitVec.ofNat 32 (v l)) hx (by intro l hl; simp [sentPend, hl])
    cases wide
    · exact ⟨h1, by simp⟩
    · refine ⟨?_, fun _ => ?_⟩
      · exact Flies.send_other _ _ h1 (Warp.physV_succ_ne x.k n.toNat)
      · exact Flies.of_send _ x _ x.act _ 0 lat _ (by simpa using hx) (by intro l hl; simp [sentPend, hl])
  case s n => exact Flies.of_send s x _ _ [] _ lat _ hx rfl
  case exec => exact Flies.of_send s x _ _ [] _ lat _ hx rfl
  case nrm => exact Flies.of_send s x _ _ [] _ lat _ hx rfl
  case p n =>
    intro hn
    rw [if_neg hn]
    exact Flies.of_send s x _ _ [] _ lat _ hx rfl

/-- Results on their way are so to the end of the issue. -/
theorem Writes.advance {t : State} {x : Ctx} {d : Opd} {wide : Bool} {lat : Nat} {v : Nat → Nat} {u : Nat} (st : Nat)
    (pc : U64) (h : Writes t x d wide lat v u) : Writes (t.advance x.c x.w x.g st pc) x d wide lat v u := by
  unfold Writes at *
  cases d <;> dsimp only at * <;> try trivial
  case v n => exact ⟨h.1.advance st pc, fun hw => (h.2 hw).advance st pc⟩
  case s n => exact Flies.advance st pc h
  case exec => exact Flies.advance st pc h
  case nrm => exact Flies.advance st pc h
  case p n => exact fun hn => (h hn).advance st pc

/-! The state an issue opens. -/

@[simp] theorem State.firstIssue_clock (s : State) (c wg : Nat) : (s.firstIssue c wg).clock = s.clock := by
  unfold State.firstIssue
  split <;> simp

theorem State.opened_clock (s : State) (i : Instr) (c w g : Nat) : (s.opened i c w g).clock = s.clock := by
  unfold State.opened
  cases hc : (s.beginIssue i c w g).cover c w (Instr.vNames i) with
  | none => simp [State.beginIssue]
  | some s' =>
    rcases State.cover_eq _ _ _ _ _ hc with rfl | ⟨a, rfl⟩ <;> simp [State.beginIssue]

@[simp] theorem State.seen_clock (s : State) (i : Instr) (h : Head) (b : Bool) (c w g : Nat) :
    (s.seen i h b c w g).clock = s.clock := by
  show (Ctx.of (s.opened i c w g) c w g h b).clock = s.clock
  exact State.opened_clock s i c w g

end Sys2Proof.Machine
end

