-- ==== Sys2Proof/Tests/Slice0.lean ====
section
/-! SUPPORT. Tests: well-formedness, decoding, one step on small states, and witnesses that the statements' hypotheses are met.
Expected results come from the spec's encodings, worked examples and tables, or by hand from them. -/

namespace Sys2Proof.Tests

open Sys2Proof Sys2Proof.Machine

/-! Words from their fields (R19, R22, R35). -/

/-- Opcode, guard, negation, stall at their places. -/
def headBits (op g gn st : Nat) : Nat := op * 2 ^ 55 + g * 2 ^ 52 + gn * 2 ^ 51 + st * 2 ^ 47

def fmtA (op g gn st d a b bp c ty rnd flags : Nat) : U64 :=
  BitVec.ofNat 64 (headBits op g gn st + d * 2 ^ 39 + a * 2 ^ 31 + b * 2 ^ 23 + bp * 2 ^ 20 + c * 2 ^ 12 + ty * 2 ^ 7
    + rnd * 2 ^ 4 + flags)

def fmtI (op g gn st d a imm : Nat) : U64 := BitVec.ofNat 64 (headBits op g gn st + d * 2 ^ 39 + a * 2 ^ 31 + imm)

def fmtM (op g gn st d a b sz sp sc col sem off : Nat) : U64 :=
  BitVec.ofNat 64 (headBits op g gn st + d * 2 ^ 39 + a * 2 ^ 31 + b * 2 ^ 23 + sz * 2 ^ 20 + sp * 2 ^ 17 + sc * 2 ^ 14
    + col * 2 ^ 11 + sem * 2 ^ 9 + off)

def fmtE (op g gn st d a b c e : Nat) : U64 :=
  BitVec.ofNat 64 (headBits op g gn st + d * 2 ^ 39 + a * 2 ^ 31 + b * 2 ^ 23 + c * 2 ^ 15 + e)

def fmtB (op g gn st tgt jn : Nat) : U64 := BitVec.ofNat 64 (headBits op g gn st + tgt * 2 ^ 23 + jn)

def fmtS (op g gn st d a idx x : Nat) : U64 :=
  BitVec.ofNat 64 (headBits op g gn st + d * 2 ^ 39 + a * 2 ^ 31 + idx * 2 ^ 15 + x)

/-- A pair word: kind 1, stall, two slots of short opcode, d, b, guard, x (R35). -/
def pair (st o0 d0 b0 g0 x0 o1 d1 b1 g1 x1 : Nat) : U64 :=
  let slot (o d b g x : Nat) : Nat := o * 2 ^ 24 + d * 2 ^ 17 + b * 2 ^ 9 + g * 2 ^ 7 + x
  BitVec.ofNat 64 (2 ^ 63 + st * 2 ^ 60 + slot o0 d0 b0 g0 x0 * 2 ^ 30 + slot o1 d1 b1 g1 x1)

/-! Ill-formed terms, one for each check (R23 to R37, R46, R91 to R96 and the entries' own). -/

def h0 : Head := ⟨0, false, 0⟩

/-- A format-A term with V sources. -/
def fa (ty : Ty) (flags : BitVec 4) : FmtA := ⟨.v 4, .v 6, .v 8, 0, .v 0, ty, .rne, flags⟩
/-- A format-A term that names one source. -/
def fa1 (ty : Ty) (flags : BitVec 4) : FmtA := { fa ty flags with b := .v 0 }
/-- A format-A term that names three sources. -/
def fa3 (ty : Ty) (flags : BitVec 4) : FmtA := { fa ty flags with c := .v 10 }
/-- A format-A term of a chapter that uses only register fields. -/
def fx (d a b : Opd) : FmtA := ⟨d, a, b, 0, .v 0, .dflt, .rne, 0⟩
def fm (d a b : Opd) (sz : Size) (sp : Space) : FmtM := ⟨d, a, b, sz, sp, .none, 0, .relaxed, 0⟩
def fe (d a b c : Opd) (e : BitVec 15) : FmtE := ⟨d, a, b, c, e⟩

def illIntegers : List Instr :=
  [.iadd h0 { fa .s32 0 with d := .laneid },                    -- a read-only destination
   .iadd h0 { fa .s32 0 with d := .p 1 },                       -- a P destination
   .iadd h0 { fa .s32 0 with a := .p 1 },                       -- a P source
   .iadd h0 { fa .s32 0 with b := .x 1 },                       -- an X source
   .iadd h0 { fa .s32 0 with c := .v 1 },                       -- an unused field
   .iadd h0 (fa .f32 0),                                        -- a float type
   .iadd h0 { fa .s32 0 with rnd := .rz },                      -- a rounding code
   .iadd h0 (fa .s32 2),                                        -- a reserved modifier
   .iadd h0 { fa .s32 0 with b := .s 2, bp := 1 },              -- a lane pattern on a uniform b
   .iadd h0 { fa .s32 0 with d := .s 4 },                       -- a V source on the uniform path
   .iadd h0 { fa .s64 0 with d := .v 5 },                       -- an odd pair
   .iadd h0 { fa .z64 0 with a := .v 5 }, .iadd h0 { fa .z64 0 with b := .v 5 }, .imad h0 { fa3 .z64 0 with c := .v 5 },
   .imul h0 (fa .s32 1), .imad h0 (fa3 .s32 2), .idiv h0 (fa .s32 1), .irem h0 (fa (.n 0) 0), .imin h0 (fa .s32 1),
   .imulh h0 (fa .s32 1), .imax h0 (fa .s32 1), .iand h0 (fa .f16 0), .ior h0 (fa .f16 0), .ixor h0 (fa .f16 0),
   .isub h0 (fa .f64 0), .iabs h0 (fa1 .z32 0), .ineg h0 (fa1 .z8 0), .inot h0 (fa1 .s32 1), .inot h0 (fa .s32 0),
   .ipopc h0 (fa .s32 0), .iclz h0 (fa .s32 0), .ibrev h0 (fa .s32 0), .ishl h0 (fa .s32 1), .ishr h0 (fa .s32 1),
   .isra h0 (fa .s32 1), .irot h0 (fa .s32 2), .ibfx h0 (fa3 .s16 0), .ibfi h0 (fa3 .s8 0),
   .icmp h0 (fa .s32 10), .icmp h0 { fa .s32 0 with d := .exec }, .isel h0 { fa .s32 0 with c := .p 1 },
   .isel h0 (fa3 .dflt 0), .iaddc h0 { fa .s16 0 with c := .p 1 }, .idot4 h0 (fa3 .s16 0), .ilea h0 { fa .s32 0 with a := .v 5 },
   .ilea h0 (fa .s32 8), .iaddi h0 ⟨.p 1, .v 5, 0⟩, .iaddi h0 ⟨.s 1, .v 5, 0⟩, .icmpi h0 ⟨.v 1, .v 5, 10⟩]

def illFloats : List Instr :=
  [.fadd h0 (fa .s32 0), .fsub h0 (fa .f32 2), .fmul h0 (fa .f32 1), .ffma h0 (fa3 .f64 1), .fmin h0 (fa .f16 4),
   .fmax h0 { fa .f16 0 with rnd := .ru }, .fabs h0 (fa1 .f32 1), .fneg h0 (fa .f32 0), .fcmp h0 (fa .f32 8),
   .frcp h0 (fa1 .f32 1), .frsq h0 (fa .f32 0), .fsqrt h0 (fa1 .s32 0), .fexp2 h0 (fa1 .f64 0), .flog2 h0 (fa1 .f64 0),
   .fsin h0 (fa1 .f64 0), .fcos h0 (fa1 .f64 0), .ftanh h0 (fa1 .f64 0), .fclass h0 { fa1 .f32 0 with rnd := .rz },
   .fdiv h0 (fa .f32 1), .fdot2 h0 (fa3 .f32 0), .fscale h0 (fa .s32 0), .frnd h0 (fa1 .f32 1), .ffrac h0 (fa .f32 0),
   .cvt h0 (fa1 .f32 0) .dflt, .cvt h0 (fa1 .dflt 0) .f32, .cvt h0 (fa1 (.n 0) 0) (.n 1), .cvt h0 (fa1 .f32 1) .s32,
   .cvt h0 { fa1 .s16 0 with rnd := .rz } .s32, .cvt h0 { fa1 .f64 0 with d := .v 5 } .f32, .cvt h0 { fa1 .f32 0 with a := .v 5 } .f64,
   .qnt h0 { fa1 (.n 0) 0 with c := .v 5 }, .qnt h0 { fa1 (.n 0) 3 with c := .s 5 }, .dqnt h0 { fa1 .f32 0 with c := .s 5 },
   .pack h0 (fa .s32 0), .unpk h0 (fa1 .s8 2)]

def illLanes : List Instr :=
  [.lshuf h0 { fa .dflt 0 with a := .s 1 }, .lshuf h0 (fa .dflt 4), .lshuf h0 { fa .dflt 0 with d := .s 1 },
   .lbcast h0 (fa .dflt 0), .lred h0 (fa1 .f32 3), .lred h0 (fa1 .s32 6), .lred h0 (fa1 .s16 0), .lscan h0 { fa1 .s32 0 with d := .s 1 },
   .lscan h0 (fa1 .s32 7), .lballot h0 { fa1 .dflt 0 with d := .nrm }, .lvote h0 (fa1 .dflt 3), .plog h0 (fa .dflt 0),
   .pcnt h0 (fa1 .dflt 0), .pcnt h0 { fa1 .dflt 1 with d := .s 1, a := .p 1 },
   .mov h0 { fa1 .z64 0 with d := .p 1 }, .mov h0 { fa1 .dflt 0 with d := .exec }, .mov h0 { fa1 .dflt 0 with d := .s 1 },
   .mov h0 { fa1 .z64 0 with a := .exec }, .movi h0 ⟨.p 1, .v 0, 0⟩, .movi h0 ⟨.v 1, .v 1, 0⟩, .movhi h0 ⟨.v 1, .v 1, 0x10000⟩]

def illControl : List Instr :=
  [.rdspec h0 ⟨.s 1, .v 0, 0x003, 0⟩, .rdspec h0 ⟨.s 1, .v 0, 0x000, 1⟩, .rdspec h0 ⟨.s 1, .v 1, 0x000, 0⟩,
   .wrspec h0 ⟨.v 0, .s 1, 0x040, 0⟩, .wrspec h0 ⟨.v 0, .v 1, 0x070, 0⟩,
   .bra h0 ⟨1, 1⟩, .bra ⟨1, false, 0⟩ ⟨1, 0⟩, .brx ⟨1, false, 0⟩ (fx (.v 0) (.s 1) (.v 0)), .brx h0 (fx (.v 0) (.v 1) (.v 0)),
   .join h0 ⟨1, 0⟩, .ret h0 ⟨0, 1⟩, .exit h0 ⟨1, 0⟩, .yield h0 ⟨0, 1⟩, .call h0 ⟨1, 113⟩, .callx h0 ⟨.v 0, .s 1, 113⟩,
   .callx h0 ⟨.v 0, .v 1, 0⟩, .rgrow h0 ⟨.v 1, .v 0, 8⟩, .rgrow h0 ⟨.s 1, .v 0, 256⟩, .rshrink h0 ⟨.s 1, .v 1, 8⟩,
   .sleep h0 ⟨.v 1, .v 0, 1⟩, .sleepuntil h0 { fx (.v 0) (.s 1) (.v 0) with flags := 2 }, .trap h0 ⟨.v 0, .v 0, 0x3F⟩,
   .trap h0 ⟨.v 0, .v 0, 0x80⟩, .bkpt h0 ⟨.v 0, .v 0, 0x10000⟩]

def illMemory : List Instr :=
  [.ld h0 (fm (.v 5) (.s 1) (.v 2) .b8 .gl), .ld h0 (fm (.v 6) (.s 1) (.v 2) .b16 .gl), .ld h0 (fm (.s 6) (.s 1) (.v 2) .b4 .gl),
   .ld h0 (fm (.v 6) (.v 1) (.v 2) .b4 .gl), .ld h0 { fm (.v 6) (.s 1) (.v 2) .b4 .gl with sem := .acq },
   .ld h0 { fm (.v 6) (.s 1) (.v 2) .b4 .gl with sem := .rel, sc := .pk }, .ld h0 { fm (.v 6) (.s 1) (.v 2) .b4 .gl with col := 1 },
   .ld h0 { fm (.v 6) (.s 1) (.v 2) .b4 .gl with sc := .rt }, .st h0 (fm (.s 6) (.s 1) (.v 2) .b16 .gl),
   .st h0 { fm (.v 6) (.s 1) (.v 2) .b4 .gl with sem := .acq, sc := .pk }, .ldu h0 (fm (.s 5) (.s 1) .zero .b16 .gl),
   .ldu h0 (fm (.s 5) (.v 2) .zero .b4 .gl), .stu h0 (fm (.v 4) (.s 1) .zero .b4 .gl), .pref h0 (fm (.v 0) (.s 1) .zero .b4 .gl),
   .pref h0 (fm (.v 0) (.s 1) .zero .b1 .sp), .pagein h0 (fm (.s 4) (.s 1) .zero .b1 .root), .cctlIl1 h0 (fm (.v 1) (.s 1) .zero .b1 .gl),
   .cctlIl1all h0 { fm (.v 0) (.s 1) .zero .b1 .gl with off := 1 }, .cctlIl1rem h0 { fm (.v 0) .zero (.s 1) .b1 .gl with off := 2 },
   .cctlEvl2 h0 (fm (.v 0) (.s 1) .zero .b1 .gl), .atom h0 (fm (.v 4) (.s 1) .zero .b2 .gl), .atom h0 (fm (.v 4) (.s 1) .zero .b4 .root),
   .atom h0 { fm (.v 4) (.s 1) .zero .b4 .gl with off := 13 }, .atomcas h0 (fm (.v 5) (.s 1) .zero .b4 .gl),
   .atomcas h0 { fm (.v 4) (.s 1) .zero .b4 .gl with off := 1 }, .red h0 { fm (.v 4) (.s 1) .zero .b4 .gl with off := 8 },
   .fence h0 { fm (.v 0) (.v 0) (.v 0) .b1 .gl with sc := .pk, sem := .rel }, .fence h0 { fm (.v 0) (.v 0) (.v 0) .b1 .gl with sc := .rt, off := 0xFF },
   .fence h0 { fm (.v 0) (.v 0) (.v 0) .b1 .gl with sc := .pk, sem := .acq, off := 1 }, .fence h0 (fm (.v 0) (.v 0) (.v 0) .b1 .gl),
   .barinit h0 { fm (.v 0) (.s 1) (.s 2) .b8 .gl with sc := .wg }, .barinit h0 { fm (.v 0) (.s 1) (.v 2) .b8 .sp with sc := .wg },
   .arrive h0 { fm (.v 1) (.s 1) (.s 2) .b8 .sp with sc := .wg }, .waitb h0 { fm (.v 0) (.s 1) .zero .b8 .sp with sc := .wg },
   .arrwait h0 { fm (.v 0) (.s 1) (.s 2) .b4 .sp with sc := .wg }, .wsync h0 (fx (.v 0) (.v 1) (.v 0))]

def illEngines : List Instr :=
  [.launch h0 (fe (.s 1) (.v 1) (.v 0) (.v 0) 0), .cwait h0 (fe (.s 1) (.s 1) (.v 0) (.v 0) 1), .fetchwg h0 (fe (.s 1) (.s 1) .zero (.v 0) 0),
   .tload h0 (fe (.s 1) (.s 1) (.t 1) (.s 1) 4), .tload h0 (fe (.s 1) (.s 1) (.s 1) (.s 1) 0), .tstore h0 (fe (.v 1) (.s 1) (.t 1) (.s 1) 0),
   .tgather h0 (fe (.s 1) (.s 1) (.t 1) (.s 1) 1), .tscatter h0 (fe (.s 1) (.s 1) (.t 1) (.s 1) 3),
   .tcopy h0 (fe (.s 1) (.s 1) (.s 1) (.s 1) 2), .tcopy h0 (fe (.s 1) (.s 1) (.s 1) (.s 1) 64), .tfill h0 (fe (.s 1) (.s 1) (.t 1) (.s 1) 0),
   .tstat h0 (fe (.s 1) .zero (.v 0) (.v 0) 0), .mwld h0 (fe .zero (.t 1) .zero (.v 0) 1), .mwld h0 (fe .zero (.t 1) .zero (.v 0) 6),
   .mwld h0 (fe .zero (.t 1) .zero (.v 0) 0x18), .mwld h0 (fe .zero (.t 1) .zero (.v 0) 0x180), .mwld h0 (fe (.s 1) (.t 1) .zero (.v 0) 0),
   .mma h0 (fe (.v 0) (.t 1) .zero .zero 0x80), .mma h0 (fe (.v 0) (.t 1) .zero (.v 1) 0), .mread h0 (fe (.v 0) (.t 1) (.v 0) .zero 1),
   .mzero h0 (fe (.v 0) (.v 0) (.v 0) (.v 0) 0), .mzero h0 (fe (.v 0) (.v 0) (.v 0) (.v 0) 16), .mhad h0 (fe (.v 0) (.t 1) (.t 2) (.v 0) 3),
   .mbatch h0 (fe (.v 1) (.v 0) (.v 0) (.v 0) 0), .mwait h0 (fe (.s 1) .zero (.v 0) (.v 0) 0), .mfuseNone h0 (.v 1), .mfuseNpair h0 (.p 1),
   .mfuseKpair h0 .exec, .mfuseQuad h0 (.v 0), .mrelease h0 (fe (.v 0) (.v 0) (.v 0) (.v 0) 2), .nmexp h0 (fe (.s 1) .zero (.v 0) (.v 0) 0),
   .nmred h0 (fe (.s 1) (.s 1) (.v 0) (.v 0) 1)]

def illSystem : List Instr :=
  [.xmov h0 (fx (.v 1) (.v 2) (.v 0)), .xmov h0 { fx (.x 1) (.x 2) (.v 0) with flags := 1 }, .xadd h0 (fx (.x 1) (.x 2) (.v 3)),
   .xsub h0 (fx (.v 1) (.x 2) (.x 3)), .xmax h0 (fx (.x 1) (.s 2) (.x 3)), .xmin h0 { fx (.x 1) (.x 2) (.x 3) with flags := 1 },
   .xcvt h0 { fx (.x 1) (.x 2) (.v 0) with flags := 2 }, .xbind h0 (fx (.x 1) (.x 2) (.v 0)), .xunbind h0 (fx (.t 1) (.v 0) (.v 0)),
   .xtag h0 (fx (.x 1) (.t 2) (.v 0)), .xqnt h0 (fe (.s 1) (.t 1) (.t 2) (.x 1) 6), .xld h0 (fm (.x 1) (.s 1) .zero .b8 .gl),
   .xld h0 (fm (.x 1) (.s 1) .zero .b16 .rsp), .xst h0 (fm (.v 1) (.s 1) .zero .b16 .gl), .fmtset h0 (fx (.f 1) (.v 2) (.v 0)),
   .fmtget h0 (fx (.f 1) (.f 2) (.v 0)), .tdset h0 (fx (.t 1) (.s 3) (.v 0)), .tdget h0 (fx (.s 3) (.t 1) (.v 0)),
   .gcall h0 1 113, .sysrd h0 (.v 1) 0 (.s 1), .sysrd h0 (.s 1) 0x40 (.s 1), .syswr h0 (.s 1) (.v 1) 0 (.s 1), .syswr h0 (.s 1) (.s 1) 0 (.v 1),
   .tlbinvRange h0 (.s 1) (.s 3), .tlbinvDid h0 (.v 1) (.s 2), .tlbinvPart h0 (.s 1) .zero, .ctxsave h0 (.s 1) .zero, .ctxrst h0 (.s 1) (.s 3),
   .dpreempt h0 (.p 1) (.s 2), .migrate h0 (fe (.s 1) (.s 2) (.s 3) (.s 5) 0),
   .pairWord 0 ⟨.snop, 1, .v 0, 0, 0⟩ ⟨.snop, 0, .v 0, 0, 0⟩,                       -- an idle slot with a field
   .pairWord 0 ⟨.iadd, 1, .v 2, 0, 4⟩ ⟨.snop, 0, .v 0, 0, 0⟩,                       -- a type no short operation has
   .pairWord 0 ⟨.fadd, 1, .v 2, 0, 3⟩ ⟨.snop, 0, .v 0, 0, 0⟩, .pairWord 0 ⟨.movi, 1, .v 2, 0, 3⟩ ⟨.snop, 0, .v 0, 0, 0⟩,
   .pairWord 0 ⟨.mov, 1, .v 2, 0, 3⟩ ⟨.snop, 0, .v 0, 0, 0⟩, .pairWord 0 ⟨.iadd, 1, .x 2, 0, 3⟩ ⟨.snop, 0, .v 0, 0, 0⟩,
   .pairWord 0 ⟨.movi, 1, .v 0, 0, 3⟩ ⟨.movi, 5, .v 0, 0, 3⟩,                       -- two destinations in one bank
   .pairWord 0 ⟨.iadd, 1, .v 5, 0, 3⟩ ⟨.iadd, 2, .v 9, 0, 3⟩]                       -- three reads of one bank

theorem test_wf_refuses_integers : ∀ i ∈ illIntegers, Instr.wf i = false := by decide
theorem test_wf_refuses_floats : ∀ i ∈ illFloats, Instr.wf i = false := by decide
theorem test_wf_refuses_lanes : ∀ i ∈ illLanes, Instr.wf i = false := by decide
theorem test_wf_refuses_control : ∀ i ∈ illControl, Instr.wf i = false := by decide
theorem test_wf_refuses_memory : ∀ i ∈ illMemory, Instr.wf i = false := by decide
theorem test_wf_refuses_engines : ∀ i ∈ illEngines, Instr.wf i = false := by decide
theorem test_wf_refuses_system : ∀ i ∈ illSystem, Instr.wf i = false := by decide

/-- Words that decode refuses (R46): the all-zero word, an unassigned opcode, reserved operand codes, a reserved rounding,
size, space and scope code, a short opcode that is none, NOP with a payload. -/
theorem test_decode_refuses : ∀ w ∈ [0, headBits 0xCA 0 0 0, headBits 0x37 0 0 0, headBits 0x01 0 0 0 + 0xE8 * 2 ^ 31,
    headBits 0x01 0 0 0 + 0xF8 * 2 ^ 31, headBits 0x20 0 0 0 + 6 * 2 ^ 4, headBits 0x01 0 0 0 + 0x18 * 2 ^ 7,
    headBits 0x60 0 0 0 + 5 * 2 ^ 20, headBits 0x60 0 0 0 + 5 * 2 ^ 17, headBits 0x60 0 0 0 + 7 * 2 ^ 14,
    headBits 0x40 0 0 0 + 0x20 * 2 ^ 12 + 0x0B * 2 ^ 7, headBits 0x97 0 0 0 + 4, headBits 0xC4 0 0 0 + 3, headBits 0x6F 0 0 0 + 1,
    2 ^ 63 + 0x16 * 2 ^ 54], decodeWord (BitVec.ofNat 64 w) = none := by decide

/-- Words of this family, field by field from R19, R22, R24 to R26, R31 and R44, and what they stand for. -/
def integerWords : List (U64 × Instr) :=
  [(fmtA 0x01 3 1 5 0x05 0x03 0x82 0 0x00 0x03 0 1, .iadd ⟨3, true, 5⟩ ⟨.v 5, .v 3, .s 2, 0, .v 0, .s32, .rne, 1⟩),
   (fmtA 0x02 3 1 5 0x07 0x09 0x0B 6 0x00 0x02 0 0, .isub ⟨3, true, 5⟩ ⟨.v 7, .v 9, .v 11, 6, .v 0, .s16, .rne, 0⟩),
   (fmtA 0x03 3 1 5 0x06 0x08 0x0A 0 0x00 0x08 0 0, .imul ⟨3, true, 5⟩ ⟨.v 6, .v 8, .v 10, 0, .v 0, .z64, .rne, 0⟩),
   (fmtA 0x04 3 1 5 0x01 0x83 0x02 0 0x00 0x05 0 0, .imulh ⟨3, true, 5⟩ ⟨.v 1, .s 3, .v 2, 0, .v 0, .z8, .rne, 0⟩),
   (fmtA 0x05 3 1 5 0x05 0x06 0x07 0 0x08 0x01 0 1, .imad ⟨3, true, 5⟩ ⟨.v 5, .v 6, .v 7, 0, .v 8, .s8, .rne, 1⟩),
   (fmtA 0x06 3 1 5 0x09 0x0A 0x0B 0 0x00 0x07 0 0, .idiv ⟨3, true, 5⟩ ⟨.v 9, .v 10, .v 11, 0, .v 0, .z32, .rne, 0⟩),
   (fmtA 0x07 3 1 5 0x89 0x8A 0x8B 0 0x00 0x00 0 0, .irem ⟨3, true, 5⟩ ⟨.s 9, .s 10, .s 11, 0, .v 0, .dflt, .rne, 0⟩),
   (fmtA 0x08 3 1 5 0x04 0x05 0x00 0 0x00 0x02 0 1, .iabs ⟨3, true, 5⟩ ⟨.v 4, .v 5, .v 0, 0, .v 0, .s16, .rne, 1⟩),
   (fmtA 0x09 3 1 5 0x04 0x05 0x00 0 0x00 0x03 0 0, .ineg ⟨3, true, 5⟩ ⟨.v 4, .v 5, .v 0, 0, .v 0, .s32, .rne, 0⟩),
   (fmtA 0x0A 3 1 5 0x04 0x05 0xF0 0 0x00 0x00 0 0, .imin ⟨3, true, 5⟩ ⟨.v 4, .v 5, .zero, 0, .v 0, .dflt, .rne, 0⟩),
   (fmtA 0x0B 3 1 5 0x04 0xF1 0x05 7 0x00 0x00 0 0, .imax ⟨3, true, 5⟩ ⟨.v 4, .laneid, .v 5, 7, .v 0, .dflt, .rne, 0⟩),
   (fmtA 0x0C 3 1 5 0x04 0x05 0xF2 0 0x00 0x06 0 0, .iand ⟨3, true, 5⟩ ⟨.v 4, .v 5, .exec, 0, .v 0, .z16, .rne, 0⟩),
   (fmtA 0x0D 3 1 5 0x04 0x05 0xF3 0 0x00 0x00 0 0, .ior ⟨3, true, 5⟩ ⟨.v 4, .v 5, .nrm, 0, .v 0, .dflt, .rne, 0⟩),
   (fmtA 0x0E 3 1 5 0x04 0x05 0xF4 0 0x00 0x00 0 0, .ixor ⟨3, true, 5⟩ ⟨.v 4, .v 5, .clock, 0, .v 0, .dflt, .rne, 0⟩),
   (fmtA 0x0F 3 1 5 0x04 0xF5 0x00 0 0x00 0x00 0 0, .inot ⟨3, true, 5⟩ ⟨.v 4, .warpid, .v 0, 0, .v 0, .dflt, .rne, 0⟩),
   (fmtA 0x10 3 1 5 0x04 0x05 0x06 0 0x00 0x01 0 0, .ishl ⟨3, true, 5⟩ ⟨.v 4, .v 5, .v 6, 0, .v 0, .s8, .rne, 0⟩)]

theorem test_decode_integer : ∀ p ∈ integerWords, decodeWord p.1 = some p.2 := by decide

/-- Words of this family, field by field from R19, R22, R24 to R26, R31 and R44, and what they stand for. -/
def bitsWords : List (U64 × Instr) :=
  [(fmtA 0x11 3 1 5 0x04 0x05 0x06 0 0x00 0x01 0 0, .ishr ⟨3, true, 5⟩ ⟨.v 4, .v 5, .v 6, 0, .v 0, .s8, .rne, 0⟩),
   (fmtA 0x12 3 1 5 0x04 0x06 0x07 0 0x00 0x04 0 0, .isra ⟨3, true, 5⟩ ⟨.v 4, .v 6, .v 7, 0, .v 0, .s64, .rne, 0⟩),
   (fmtA 0x13 3 1 5 0x04 0x06 0x07 0 0x00 0x06 0 1, .irot ⟨3, true, 5⟩ ⟨.v 4, .v 6, .v 7, 0, .v 0, .z16, .rne, 1⟩),
   (fmtA 0x14 3 1 5 0x04 0x06 0x07 0 0x09 0x03 0 0, .ibfx ⟨3, true, 5⟩ ⟨.v 4, .v 6, .v 7, 0, .v 9, .s32, .rne, 0⟩),
   (fmtA 0x15 3 1 5 0x04 0x06 0x08 0 0x09 0x08 0 0, .ibfi ⟨3, true, 5⟩ ⟨.v 4, .v 6, .v 8, 0, .v 9, .z64, .rne, 0⟩),
   (fmtA 0x16 3 1 5 0x04 0xF6 0x00 0 0x00 0x00 0 0, .ipopc ⟨3, true, 5⟩ ⟨.v 4, .wgid, .v 0, 0, .v 0, .dflt, .rne, 0⟩),
   (fmtA 0x17 3 1 5 0x04 0x06 0x00 0 0x00 0x05 0 0, .iclz ⟨3, true, 5⟩ ⟨.v 4, .v 6, .v 0, 0, .v 0, .z8, .rne, 0⟩),
   (fmtA 0x18 3 1 5 0x04 0xF7 0x00 0 0x00 0x08 0 0, .ibrev ⟨3, true, 5⟩ ⟨.v 4, .thstate, .v 0, 0, .v 0, .z64, .rne, 0⟩),
   (fmtA 0x19 3 1 5 0xC2 0x03 0x05 1 0x00 0x02 0 9, .icmp ⟨3, true, 5⟩ ⟨.p 2, .v 3, .v 5, 1, .v 0, .s16, .rne, 9⟩),
   (fmtA 0x1A 3 1 5 0x04 0x06 0x08 0 0xC5 0x08 0 0, .isel ⟨3, true, 5⟩ ⟨.v 4, .v 6, .v 8, 0, .p 5, .z64, .rne, 0⟩),
   (fmtA 0x1B 3 1 5 0x04 0x06 0x07 0 0xC6 0x03 0 0, .iaddc ⟨3, true, 5⟩ ⟨.v 4, .v 6, .v 7, 0, .p 6, .s32, .rne, 0⟩),
   (fmtA 0x1C 3 1 5 0x04 0x05 0x06 0 0x07 0x05 0 1, .idot4 ⟨3, true, 5⟩ ⟨.v 4, .v 5, .v 6, 0, .v 7, .z8, .rne, 1⟩),
   (fmtA 0x1D 3 1 5 0x04 0x06 0x07 0 0x00 0x07 0 3, .ilea ⟨3, true, 5⟩ ⟨.v 4, .v 6, .v 7, 0, .v 0, .z32, .rne, 3⟩),
   (fmtI 0x1E 3 1 5 0x04 0x05 0x7FFFFFFF, .iaddi ⟨3, true, 5⟩ ⟨.v 4, .v 5, 0x7FFFFFFF⟩),
   (fmtI 0x1F 3 1 5 0xC1 0x88 0x14, .icmpi ⟨3, true, 5⟩ ⟨.p 1, .s 8, 0x14⟩)]

theorem test_decode_bits : ∀ p ∈ bitsWords, decodeWord p.1 = some p.2 := by decide

/-- Words of this family, field by field from R19, R22, R24 to R26, R31 and R44, and what they stand for. -/
def floatWords : List (U64 × Instr) :=
  [(fmtA 0x20 3 1 5 0x04 0x05 0x06 0 0x00 0x0A 5 1, .fadd ⟨3, true, 5⟩ ⟨.v 4, .v 5, .v 6, 0, .v 0, .bf16, .sr, 1⟩),
   (fmtA 0x21 3 1 5 0x04 0x06 0x08 0 0x00 0x0C 1 0, .fsub ⟨3, true, 5⟩ ⟨.v 4, .v 6, .v 8, 0, .v 0, .f64, .rz, 0⟩),
   (fmtA 0x22 3 1 5 0x04 0x05 0x06 2 0x00 0x09 2 0, .fmul ⟨3, true, 5⟩ ⟨.v 4, .v 5, .v 6, 2, .v 0, .f16, .ru, 0⟩),
   (fmtA 0x23 3 1 5 0x0A 0x0B 0x0C 0 0x0D 0x0B 3 0, .ffma ⟨3, true, 5⟩ ⟨.v 10, .v 11, .v 12, 0, .v 13, .f32, .rd, 0⟩),
   (fmtA 0x24 3 1 5 0x04 0x05 0x06 0 0x00 0x09 0 3, .fmin ⟨3, true, 5⟩ ⟨.v 4, .v 5, .v 6, 0, .v 0, .f16, .rne, 3⟩),
   (fmtA 0x25 3 1 5 0x04 0x05 0x06 0 0x00 0x00 0 2, .fmax ⟨3, true, 5⟩ ⟨.v 4, .v 5, .v 6, 0, .v 0, .dflt, .rne, 2⟩),
   (fmtA 0x26 3 1 5 0x04 0x06 0x00 0 0x00 0x0C 0 0, .fabs ⟨3, true, 5⟩ ⟨.v 4, .v 6, .v 0, 0, .v 0, .f64, .rne, 0⟩),
   (fmtA 0x27 3 1 5 0x04 0x05 0x00 0 0x00 0x0A 0 1, .fneg ⟨3, true, 5⟩ ⟨.v 4, .v 5, .v 0, 0, .v 0, .bf16, .rne, 1⟩),
   (fmtA 0x28 3 1 5 0xC3 0x05 0x06 0 0x00 0x0B 0 7, .fcmp ⟨3, true, 5⟩ ⟨.p 3, .v 5, .v 6, 0, .v 0, .f32, .rne, 7⟩),
   (fmtA 0x29 3 1 5 0x04 0x05 0x00 0 0x00 0x00 4 0, .frcp ⟨3, true, 5⟩ ⟨.v 4, .v 5, .v 0, 0, .v 0, .dflt, .rna, 0⟩),
   (fmtA 0x2A 3 1 5 0x04 0x05 0x00 0 0x00 0x09 0 0, .frsq ⟨3, true, 5⟩ ⟨.v 4, .v 5, .v 0, 0, .v 0, .f16, .rne, 0⟩),
   (fmtA 0x2B 3 1 5 0x04 0x06 0x00 0 0x00 0x0C 0 0, .fsqrt ⟨3, true, 5⟩ ⟨.v 4, .v 6, .v 0, 0, .v 0, .f64, .rne, 0⟩),
   (fmtA 0x2C 3 1 5 0x04 0x05 0x00 0 0x00 0x0B 0 0, .fexp2 ⟨3, true, 5⟩ ⟨.v 4, .v 5, .v 0, 0, .v 0, .f32, .rne, 0⟩),
   (fmtA 0x2D 3 1 5 0x04 0x05 0x00 0 0x00 0x0A 0 0, .flog2 ⟨3, true, 5⟩ ⟨.v 4, .v 5, .v 0, 0, .v 0, .bf16, .rne, 0⟩),
   (fmtA 0x2E 3 1 5 0x04 0x05 0x00 0 0x00 0x00 0 0, .fsin ⟨3, true, 5⟩ ⟨.v 4, .v 5, .v 0, 0, .v 0, .dflt, .rne, 0⟩),
   (fmtA 0x2F 3 1 5 0x04 0x05 0x00 0 0x00 0x09 0 0, .fcos ⟨3, true, 5⟩ ⟨.v 4, .v 5, .v 0, 0, .v 0, .f16, .rne, 0⟩),
   (fmtA 0x30 3 1 5 0x04 0x05 0x00 0 0x00 0x00 5 0, .ftanh ⟨3, true, 5⟩ ⟨.v 4, .v 5, .v 0, 0, .v 0, .dflt, .sr, 0⟩),
   (fmtA 0x31 3 1 5 0x04 0x06 0x00 0 0x00 0x0C 0 0, .fclass ⟨3, true, 5⟩ ⟨.v 4, .v 6, .v 0, 0, .v 0, .f64, .rne, 0⟩),
   (fmtA 0x32 3 1 5 0x04 0x05 0x06 0 0x00 0x00 0 0, .fdiv ⟨3, true, 5⟩ ⟨.v 4, .v 5, .v 6, 0, .v 0, .dflt, .rne, 0⟩),
   (fmtA 0x33 3 1 5 0x04 0x05 0x06 0 0x07 0x09 0 0, .fdot2 ⟨3, true, 5⟩ ⟨.v 4, .v 5, .v 6, 0, .v 7, .f16, .rne, 0⟩),
   (fmtA 0x34 3 1 5 0x04 0x06 0x07 0 0x00 0x0C 2 0, .fscale ⟨3, true, 5⟩ ⟨.v 4, .v 6, .v 7, 0, .v 0, .f64, .ru, 0⟩),
   (fmtA 0x35 3 1 5 0x04 0x05 0x00 0 0x00 0x00 3 0, .frnd ⟨3, true, 5⟩ ⟨.v 4, .v 5, .v 0, 0, .v 0, .dflt, .rd, 0⟩),
   (fmtA 0x36 3 1 5 0x04 0x05 0x00 0 0x00 0x0A 0 0, .ffrac ⟨3, true, 5⟩ ⟨.v 4, .v 5, .v 0, 0, .v 0, .bf16, .rne, 0⟩)]

theorem test_decode_float : ∀ p ∈ floatWords, decodeWord p.1 = some p.2 := by decide

/-- Words of this family, field by field from R19, R22, R24 to R26, R31 and R44, and what they stand for. -/
def convertWords : List (U64 × Instr) :=
  [(fmtA 0x40 3 1 5 0x07 0x06 0x00 0 0x0B 0x0A 5 0, .cvt ⟨3, true, 5⟩ ⟨.v 7, .v 6, .v 0, 0, .v 0, .bf16, .sr, 0⟩ .f32),
   (fmtA 0x41 3 1 5 0x04 0x05 0x00 0 0x86 0x12 5 1, .qnt ⟨3, true, 5⟩ ⟨.v 4, .v 5, .v 0, 0, .s 6, (.n 2), .sr, 1⟩),
   (fmtA 0x42 3 1 5 0x04 0x05 0x00 0 0x86 0x15 1 2, .dqnt ⟨3, true, 5⟩ ⟨.v 4, .v 5, .v 0, 0, .s 6, (.n 5), .rz, 2⟩),
   (fmtA 0x43 3 1 5 0x04 0x05 0x06 0 0x00 0x02 0 0, .pack ⟨3, true, 5⟩ ⟨.v 4, .v 5, .v 6, 0, .v 0, .s16, .rne, 0⟩),
   (fmtA 0x44 3 1 5 0x04 0x05 0x00 0 0x00 0x05 0 1, .unpk ⟨3, true, 5⟩ ⟨.v 4, .v 5, .v 0, 0, .v 0, .z8, .rne, 1⟩),
   (fmtA 0x45 3 1 5 0x04 0x05 0x06 0 0x00 0x00 0 3, .lshuf ⟨3, true, 5⟩ ⟨.v 4, .v 5, .v 6, 0, .v 0, .dflt, .rne, 3⟩),
   (fmtA 0x46 3 1 5 0x84 0x06 0x87 0 0x00 0x08 0 0, .lbcast ⟨3, true, 5⟩ ⟨.s 4, .v 6, .s 7, 0, .v 0, .z64, .rne, 0⟩),
   (fmtA 0x47 3 1 5 0x84 0x06 0x00 0 0x00 0x0B 0 2, .lred ⟨3, true, 5⟩ ⟨.s 4, .v 6, .v 0, 0, .v 0, .f32, .rne, 2⟩),
   (fmtA 0x48 3 1 5 0x04 0x06 0x00 0 0x00 0x07 0 13, .lscan ⟨3, true, 5⟩ ⟨.v 4, .v 6, .v 0, 0, .v 0, .z32, .rne, 13⟩),
   (fmtA 0x49 3 1 5 0xC4 0x06 0x00 0 0x00 0x00 0 0, .lballot ⟨3, true, 5⟩ ⟨.p 4, .v 6, .v 0, 0, .v 0, .dflt, .rne, 0⟩),
   (fmtA 0x4A 3 1 5 0x84 0xC6 0x00 0 0x00 0x00 0 2, .lvote ⟨3, true, 5⟩ ⟨.s 4, .p 6, .v 0, 0, .v 0, .dflt, .rne, 2⟩),
   (fmtA 0x4B 3 1 5 0xC4 0xC6 0xF2 0 0x00 0x00 0 14, .plog ⟨3, true, 5⟩ ⟨.p 4, .p 6, .exec, 0, .v 0, .dflt, .rne, 14⟩),
   (fmtA 0x4C 3 1 5 0x04 0xC6 0x00 0 0x00 0x00 0 1, .pcnt ⟨3, true, 5⟩ ⟨.v 4, .p 6, .v 0, 0, .v 0, .dflt, .rne, 1⟩),
   (fmtA 0x4D 3 1 5 0xF2 0x86 0x00 0 0x00 0x00 0 0, .mov ⟨3, true, 5⟩ ⟨.exec, .s 6, .v 0, 0, .v 0, .dflt, .rne, 0⟩),
   (fmtI 0x4E 3 1 5 0x84 0x00 0x40000001, .movi ⟨3, true, 5⟩ ⟨.s 4, .v 0, 0x40000001⟩),
   (fmtI 0x4F 3 1 5 0x04 0x05 0xFFFF, .movhi ⟨3, true, 5⟩ ⟨.v 4, .v 5, 0xFFFF⟩)]

theorem test_decode_convert : ∀ p ∈ convertWords, decodeWord p.1 = some p.2 := by decide

/-- Words of this family, field by field from R19, R22, R24 to R26, R31 and R44, and what they stand for. -/
def controlWords : List (U64 × Instr) :=
  [(fmtS 0x50 3 1 5 0x84 0x00 0x43 0x0, .rdspec ⟨3, true, 5⟩ ⟨.s 4, .v 0, 0x43, 0⟩),
   (fmtS 0x51 3 1 5 0x00 0x84 0x70 0x0, .wrspec ⟨3, true, 5⟩ ⟨.v 0, .s 4, 0x70, 0⟩),
   (fmtB 0x52 3 1 5 0xFFFFF3 0x1, .bra ⟨3, true, 5⟩ ⟨0xFFFFF3, 0x1⟩),
   (fmtA 0x53 0 0 1 0x00 0x89 0x00 0 0x00 0x00 0 0, .brx ⟨0, false, 1⟩ ⟨.v 0, .s 9, .v 0, 0, .v 0, .dflt, .rne, 0⟩),
   (fmtB 0x54 3 1 5 0x0 0x0, .join ⟨3, true, 5⟩ ⟨0x0, 0x0⟩),
   (fmtB 0x55 3 1 5 0x800000 0x70, .call ⟨3, true, 5⟩ ⟨0x800000, 0x70⟩),
   (fmtI 0x56 3 1 5 0x00 0x89 0x10, .callx ⟨3, true, 5⟩ ⟨.v 0, .s 9, 0x10⟩),
   (fmtB 0x57 3 1 5 0x0 0x0, .ret ⟨3, true, 5⟩ ⟨0x0, 0x0⟩),
   (fmtI 0x58 3 1 5 0x83 0x00 0x28, .rgrow ⟨3, true, 5⟩ ⟨.s 3, .v 0, 0x28⟩),
   (fmtI 0x59 3 1 5 0xF0 0x00 0xFF, .rshrink ⟨3, true, 5⟩ ⟨.zero, .v 0, 0xFF⟩),
   (fmtB 0x5A 3 1 5 0x0 0x0, .exit ⟨3, true, 5⟩ ⟨0x0, 0x0⟩),
   (fmtB 0x5B 3 1 5 0x0 0x0, .yield ⟨3, true, 5⟩ ⟨0x0, 0x0⟩),
   (fmtI 0x5C 3 1 5 0x00 0x00 0x7FFFFFFF, .sleep ⟨3, true, 5⟩ ⟨.v 0, .v 0, 0x7FFFFFFF⟩),
   (fmtA 0x5D 3 1 5 0x00 0x89 0x00 0 0x00 0x00 0 1, .sleepuntil ⟨3, true, 5⟩ ⟨.v 0, .s 9, .v 0, 0, .v 0, .dflt, .rne, 1⟩),
   (fmtI 0x5E 3 1 5 0x00 0x00 0x7F, .trap ⟨3, true, 5⟩ ⟨.v 0, .v 0, 0x7F⟩),
   (fmtI 0x5F 3 1 5 0x00 0x00 0xFFFF, .bkpt ⟨3, true, 5⟩ ⟨.v 0, .v 0, 0xFFFF⟩)]

theorem test_decode_control : ∀ p ∈ controlWords, decodeWord p.1 = some p.2 := by decide

/-- Words of this family, field by field from R19, R22, R24 to R26, R31 and R44, and what they stand for. -/
def memoryWords : List (U64 × Instr) :=
  [(fmtM 0x60 3 1 5 0x08 0x8A 0x02 3 1 0 0 0 0x1FC, .ld ⟨3, true, 5⟩ ⟨.v 8, .s 10, .v 2, .b8, .sp, .none, 0, .relaxed, 0x1FC⟩),
   (fmtM 0x61 3 1 5 0x06 0x84 0x01 2 0 5 3 2 0x2, .st ⟨3, true, 5⟩ ⟨.v 6, .s 4, .v 1, .b4, .gl, .pk, 3, .rel, 0x2⟩),
   (fmtM 0x62 3 1 5 0x85 0x86 0xF0 3 3 3 0 1 0x1, .ldu ⟨3, true, 5⟩ ⟨.s 5, .s 6, .zero, .b8, .root, .rt, 0, .acq, 0x1⟩),
   (fmtM 0x63 3 1 5 0x85 0x86 0xF0 2 2 0 0 0 0x4, .stu ⟨3, true, 5⟩ ⟨.s 5, .s 6, .zero, .b4, .rsp, .none, 0, .relaxed, 0x4⟩),
   (fmtM 0x64 3 1 5 0x00 0x84 0x01 0 0 0 0 0 0x7, .pref ⟨3, true, 5⟩ ⟨.v 0, .s 4, .v 1, .b1, .gl, .none, 0, .relaxed, 0x7⟩),
   (fmtM 0x65 3 1 5 0x85 0x84 0x01 0 0 0 0 0 0x0, .pagein ⟨3, true, 5⟩ ⟨.s 5, .s 4, .v 1, .b1, .gl, .none, 0, .relaxed, 0x0⟩),
   (fmtM 0x66 3 1 5 0x00 0x84 0x01 0 0 0 0 0 0x0, .cctlIl1 ⟨3, true, 5⟩ ⟨.v 0, .s 4, .v 1, .b1, .gl, .none, 0, .relaxed, 0x0⟩),
   (fmtM 0x66 3 1 5 0x00 0xF0 0xF0 0 0 0 0 0 0x1, .cctlIl1all ⟨3, true, 5⟩ ⟨.v 0, .zero, .zero, .b1, .gl, .none, 0, .relaxed, 0x1⟩),
   (fmtM 0x66 3 1 5 0x00 0xF0 0xF0 0 3 0 0 0 0x2, .cctlIl1rem ⟨3, true, 5⟩ ⟨.v 0, .zero, .zero, .b1, .root, .none, 0, .relaxed, 0x2⟩),
   (fmtM 0x66 3 1 5 0x00 0x84 0x86 0 3 0 0 0 0x3, .cctlEvl2 ⟨3, true, 5⟩ ⟨.v 0, .s 4, .s 6, .b1, .root, .none, 0, .relaxed, 0x3⟩),
   (fmtM 0x67 3 1 5 0x04 0x06 0xF0 3 0 4 2 3 0x8, .atom ⟨3, true, 5⟩ ⟨.v 4, .v 6, .zero, .b8, .gl, .st, 2, .ar, 0x8⟩),
   (fmtM 0x68 3 1 5 0x04 0x06 0xF0 2 1 2 1 1 0x0, .atomcas ⟨3, true, 5⟩ ⟨.v 4, .v 6, .zero, .b4, .sp, .cl, 1, .acq, 0x0⟩),
   (fmtM 0x69 3 1 5 0x05 0x8F 0xF0 2 0 6 7 2 0xC, .red ⟨3, true, 5⟩ ⟨.v 5, .s 15, .zero, .b4, .gl, .sy, 7, .rel, 0xC⟩),
   (fmtM 0x6A 3 1 5 0x00 0x00 0x00 0 0 5 0 2 0x9, .fence ⟨3, true, 5⟩ ⟨.v 0, .v 0, .v 0, .b1, .gl, .pk, 0, .rel, 0x9⟩),
   (fmtE 0x6F 3 1 5 0 0 0 0 0, .nop ⟨3, true, 5⟩),
   (fmtM 0x70 3 1 5 0x00 0x84 0x85 3 1 1 0 0 0x1, .barinit ⟨3, true, 5⟩ ⟨.v 0, .s 4, .s 5, .b8, .sp, .wg, 0, .relaxed, 0x1⟩),
   (fmtM 0x71 3 1 5 0x83 0x84 0x85 3 1 2 0 0 0x0, .arrive ⟨3, true, 5⟩ ⟨.s 3, .s 4, .s 5, .b8, .sp, .cl, 0, .relaxed, 0x0⟩),
   (fmtM 0x72 3 1 5 0x00 0x84 0x85 3 0 4 0 0 0x0, .waitb ⟨3, true, 5⟩ ⟨.v 0, .s 4, .s 5, .b8, .gl, .st, 0, .relaxed, 0x0⟩),
   (fmtM 0x73 3 1 5 0x00 0xF0 0x88 3 2 2 0 0 0x0, .arrwait ⟨3, true, 5⟩ ⟨.v 0, .zero, .s 8, .b8, .rsp, .cl, 0, .relaxed, 0x0⟩),
   (fmtA 0x74 3 1 5 0x00 0xC3 0x00 0 0x00 0x00 0 0, .wsync ⟨3, true, 5⟩ ⟨.v 0, .p 3, .v 0, 0, .v 0, .dflt, .rne, 0⟩),
   (fmtE 0x75 3 1 5 0 0 0 0 0, .gsync ⟨3, true, 5⟩)]

theorem test_decode_memory : ∀ p ∈ memoryWords, decodeWord p.1 = some p.2 := by decide

/-- Words of this family, field by field from R19, R22, R24 to R26, R31 and R44, and what they stand for. -/
def engineWords : List (U64 × Instr) :=
  [(fmtE 0x76 3 1 5 0x84 0x85 0x00 0x00 0x0, .launch ⟨3, true, 5⟩ ⟨.s 4, .s 5, .v 0, .v 0, 0x0⟩),
   (fmtE 0x77 3 1 5 0x84 0xF0 0x00 0x00 0x0, .cwait ⟨3, true, 5⟩ ⟨.s 4, .zero, .v 0, .v 0, 0x0⟩),
   (fmtE 0x78 3 1 5 0x84 0x85 0x86 0x00 0x0, .fetchwg ⟨3, true, 5⟩ ⟨.s 4, .s 5, .s 6, .v 0, 0x0⟩),
   (fmtE 0x80 3 1 5 0x94 0x84 0xD2 0x82 0x1, .tload ⟨3, true, 5⟩ ⟨.s 20, .s 4, .t 2, .s 2, 0x1⟩),
   (fmtE 0x81 3 1 5 0x94 0x84 0xD2 0x82 0x2, .tstore ⟨3, true, 5⟩ ⟨.s 20, .s 4, .t 2, .s 2, 0x2⟩),
   (fmtE 0x82 3 1 5 0x94 0x84 0xD2 0x82 0x0, .tgather ⟨3, true, 5⟩ ⟨.s 20, .s 4, .t 2, .s 2, 0x0⟩),
   (fmtE 0x83 3 1 5 0x94 0x84 0xD2 0x82 0x2, .tscatter ⟨3, true, 5⟩ ⟨.s 20, .s 4, .t 2, .s 2, 0x2⟩),
   (fmtE 0x84 3 1 5 0x94 0x84 0x86 0x82 0xB, .tcopy ⟨3, true, 5⟩ ⟨.s 20, .s 4, .s 6, .s 2, 0xB⟩),
   (fmtE 0x85 3 1 5 0x94 0x84 0xD2 0x00 0x0, .tfill ⟨3, true, 5⟩ ⟨.s 20, .s 4, .t 2, .v 0, 0x0⟩),
   (fmtE 0x86 3 1 5 0x98 0x94 0x00 0x00 0x0, .tstat ⟨3, true, 5⟩ ⟨.s 24, .s 20, .v 0, .v 0, 0x0⟩),
   (fmtE 0x90 3 1 5 0xF0 0xD1 0xCB 0x00 0x8A, .mwld ⟨3, true, 5⟩ ⟨.zero, .t 1, .x 3, .v 0, 0x8A⟩),
   (fmtE 0x91 3 1 5 0x00 0xD3 0xC8 0x87 0x2F, .mma ⟨3, true, 5⟩ ⟨.v 0, .t 3, .x 0, .s 7, 0x2F⟩),
   (fmtE 0x92 3 1 5 0x00 0xD3 0x00 0xF0 0x60, .mread ⟨3, true, 5⟩ ⟨.v 0, .t 3, .v 0, .zero, 0x60⟩),
   (fmtE 0x93 3 1 5 0x00 0x00 0x00 0x00 0x5, .mzero ⟨3, true, 5⟩ ⟨.v 0, .v 0, .v 0, .v 0, 0x5⟩),
   (fmtE 0x94 3 1 5 0x00 0xD3 0xD4 0x00 0x2, .mhad ⟨3, true, 5⟩ ⟨.v 0, .t 3, .t 4, .v 0, 0x2⟩),
   (fmtE 0x95 3 1 5 0x84 0x00 0x00 0x00 0x0, .mbatch ⟨3, true, 5⟩ ⟨.s 4, .v 0, .v 0, .v 0, 0x0⟩),
   (fmtE 0x96 3 1 5 0x84 0x85 0x00 0x00 0x0, .mwait ⟨3, true, 5⟩ ⟨.s 4, .s 5, .v 0, .v 0, 0x0⟩),
   (fmtE 0x97 3 1 5 0x84 0 0 0 0, .mfuseNone ⟨3, true, 5⟩ (.s 4)),
   (fmtE 0x97 3 1 5 0x84 0 0 0 1, .mfuseNpair ⟨3, true, 5⟩ (.s 4)),
   (fmtE 0x97 3 1 5 0x84 0 0 0 2, .mfuseKpair ⟨3, true, 5⟩ (.s 4)),
   (fmtE 0x97 3 1 5 0x84 0 0 0 3, .mfuseQuad ⟨3, true, 5⟩ (.s 4)),
   (fmtE 0x98 3 1 5 0x00 0x00 0x00 0x00 0x1, .mrelease ⟨3, true, 5⟩ ⟨.v 0, .v 0, .v 0, .v 0, 0x1⟩),
   (fmtE 0xA0 3 1 5 0x84 0x85 0x00 0x00 0x0, .nmexp ⟨3, true, 5⟩ ⟨.s 4, .s 5, .v 0, .v 0, 0x0⟩),
   (fmtE 0xA1 3 1 5 0xF0 0x85 0x00 0x00 0x0, .nmred ⟨3, true, 5⟩ ⟨.zero, .s 5, .v 0, .v 0, 0x0⟩)]

theorem test_decode_engine : ∀ p ∈ engineWords, decodeWord p.1 = some p.2 := by decide

/-- Words of this family, field by field from R19, R22, R24 to R26, R31 and R44, and what they stand for. -/
def scaleWords : List (U64 × Instr) :=
  [(fmtA 0xB0 3 1 5 0xCA 0x04 0x00 0 0x00 0x00 0 7, .xmov ⟨3, true, 5⟩ ⟨.x 2, .v 4, .v 0, 0, .v 0, .dflt, .rne, 7⟩),
   (fmtA 0xB1 3 1 5 0xCA 0xCB 0x84 0 0x00 0x00 0 0, .xadd ⟨3, true, 5⟩ ⟨.x 2, .x 3, .s 4, 0, .v 0, .dflt, .rne, 0⟩),
   (fmtA 0xB2 3 1 5 0xCA 0xCB 0xCC 0 0x00 0x00 0 0, .xsub ⟨3, true, 5⟩ ⟨.x 2, .x 3, .x 4, 0, .v 0, .dflt, .rne, 0⟩),
   (fmtA 0xB3 3 1 5 0xCA 0xCB 0x85 0 0x00 0x00 0 0, .xmax ⟨3, true, 5⟩ ⟨.x 2, .x 3, .s 5, 0, .v 0, .dflt, .rne, 0⟩),
   (fmtA 0xB4 3 1 5 0xCA 0xCB 0xCF 0 0x00 0x00 0 0, .xmin ⟨3, true, 5⟩ ⟨.x 2, .x 3, .x 7, 0, .v 0, .dflt, .rne, 0⟩),
   (fmtA 0xB5 3 1 5 0xCA 0xCB 0x00 0 0x00 0x00 0 1, .xcvt ⟨3, true, 5⟩ ⟨.x 2, .x 3, .v 0, 0, .v 0, .dflt, .rne, 1⟩),
   (fmtA 0xB6 3 1 5 0xCA 0xD5 0x00 0 0x00 0x00 0 0, .xbind ⟨3, true, 5⟩ ⟨.x 2, .t 5, .v 0, 0, .v 0, .dflt, .rne, 0⟩),
   (fmtA 0xB7 3 1 5 0xCA 0x00 0x00 0 0x00 0x00 0 0, .xunbind ⟨3, true, 5⟩ ⟨.x 2, .v 0, .v 0, 0, .v 0, .dflt, .rne, 0⟩),
   (fmtA 0xB8 3 1 5 0xCF 0x00 0x00 0 0x00 0x00 0 0, .xtag ⟨3, true, 5⟩ ⟨.x 7, .v 0, .v 0, 0, .v 0, .dflt, .rne, 0⟩),
   (fmtE 0xB9 3 1 5 0x94 0xD1 0xD3 0xC8 0x5, .xqnt ⟨3, true, 5⟩ ⟨.s 20, .t 1, .t 3, .x 0, 0x5⟩),
   (fmtM 0xBA 3 1 5 0xC9 0x84 0x86 4 1 0 0 0 0x0, .xld ⟨3, true, 5⟩ ⟨.x 1, .s 4, .s 6, .b16, .sp, .none, 0, .relaxed, 0x0⟩),
   (fmtM 0xBB 3 1 5 0xC9 0x84 0xF0 4 0 5 2 2 0x1, .xst ⟨3, true, 5⟩ ⟨.x 1, .s 4, .zero, .b16, .gl, .pk, 2, .rel, 0x1⟩),
   (fmtA 0xBC 3 1 5 0xE3 0x84 0x00 0 0x00 0x00 0 0, .fmtset ⟨3, true, 5⟩ ⟨.f 3, .s 4, .v 0, 0, .v 0, .dflt, .rne, 0⟩),
   (fmtA 0xBD 3 1 5 0x04 0xE7 0x00 0 0x00 0x00 0 0, .fmtget ⟨3, true, 5⟩ ⟨.v 4, .f 7, .v 0, 0, .v 0, .dflt, .rne, 0⟩),
   (fmtA 0xBE 3 1 5 0xDF 0x84 0x00 0 0x00 0x00 0 0, .tdset ⟨3, true, 5⟩ ⟨.t 15, .s 4, .v 0, 0, .v 0, .dflt, .rne, 0⟩),
   (fmtA 0xBF 3 1 5 0x86 0xDE 0x00 0 0x00 0x00 0 0, .tdget ⟨3, true, 5⟩ ⟨.s 6, .t 14, .v 0, 0, .v 0, .dflt, .rne, 0⟩)]

theorem test_decode_scale : ∀ p ∈ scaleWords, decodeWord p.1 = some p.2 := by decide

/-- Words of this family, field by field from R19, R22, R24 to R26, R31 and R44, and what they stand for. -/
def systemWords : List (U64 × Instr) :=
  [(fmtS 0xC0 3 1 5 0x00 0x00 0x25 0x8, .gcall ⟨3, true, 5⟩ 37 8),
   (fmtS 0xC1 3 1 5 0x00 0x00 0x0 0x0, .gret ⟨3, true, 5⟩),
   (fmtS 0xC2 3 1 5 0x82 0x00 0x209 0x85, .sysrd ⟨3, true, 5⟩ (.s 2) 0x209 (.s 5)),
   (fmtS 0xC3 3 1 5 0x82 0x86 0x209 0x85, .syswr ⟨3, true, 5⟩ (.s 2) (.s 6) 0x209 (.s 5)),
   (fmtS 0xC4 3 1 5 0x82 0x86 0x0 0x0, .tlbinvRange ⟨3, true, 5⟩ (.s 2) (.s 6)),
   (fmtS 0xC4 3 1 5 0x82 0x86 0x0 0x1, .tlbinvDid ⟨3, true, 5⟩ (.s 2) (.s 6)),
   (fmtS 0xC4 3 1 5 0x82 0x86 0x0 0x2, .tlbinvPart ⟨3, true, 5⟩ (.s 2) (.s 6)),
   (fmtS 0xC5 3 1 5 0x82 0x87 0x0 0x0, .ctxsave ⟨3, true, 5⟩ (.s 2) (.s 7)),
   (fmtS 0xC6 3 1 5 0x82 0x86 0x0 0x0, .ctxrst ⟨3, true, 5⟩ (.s 2) (.s 6)),
   (fmtS 0xC7 3 1 5 0x83 0x82 0x0 0x0, .dpreempt ⟨3, true, 5⟩ (.s 3) (.s 2)),
   (fmtS 0xC8 3 1 5 0x00 0x00 0x0 0x80, .eret ⟨3, true, 5⟩ 0 true),
   (fmtS 0xC8 3 1 5 0x00 0x00 0x0 0x23, .eretSpill ⟨3, true, 5⟩ 3 false),
   (fmtS 0xC8 3 1 5 0x00 0x00 0x0 0xDF, .eretFill ⟨3, true, 5⟩ 31 true),
   (fmtE 0xC9 3 1 5 0x84 0x85 0x86 0x88 0x0, .migrate ⟨3, true, 5⟩ ⟨.s 4, .s 5, .s 6, .s 8, 0x0⟩),
   (pair 4 0x01 4 0x09 0 3 0x11 5 0x02 0 0x0B, .pairWord 4 ⟨.iadd, 4, .v 9, 0, 3⟩ ⟨.fmul, 5, .v 2, 0, 0x0B⟩)]

theorem test_decode_system : ∀ p ∈ systemWords, decodeWord p.1 = some p.2 := by decide
/-! The statements' hypotheses are met: a word placed to run just after reset, in a workgroup with scale registers, its fragment
selected; every ISA instruction issues there. -/

def placed (w : U64) : State :=
  ((State.reset.withFetchWord 64 w.toNat).modWg 0 2 fun g => { g with scales := true }).selectFrag 0 3 63 0

/-- An instruction of a rule table. -/
def ruled (i : Instr) : Bool :=
  (arithRule i).isSome || (divideRule i).isSome || (bitsRule i).isSome || (compareRule i).isSome || (moveRule i).isSome
    || (floatRule i).isSome || (patternRule i).isSome || (convertRule i).isSome || (laneRule i).isSome || (pairRule i).isSome
    || (flowRule i).isSome || (controlRule i).isSome || (loadRule i).isSome || (storeRule i).isSome || (atomicRule i).isSome
    || (orderRule i).isSome || (barrierRule i).isSome || (workRule i).isSome || (copyRule i).isSome || (matrixRule i).isSome
    || (scaleRule i).isSome || (commandRule i).isSome || (systemRule i).isSome

/-- A word's instruction has a rule, is well formed and issues. -/
def runsAt (p : U64 × Instr) : Bool :=
  ruled p.2 && Instr.wf p.2 && (placed p.1).issues p.2 (Instr.head p.2) (flowRule p.2).isSome 0 63 0

theorem test_issues_integer : ∀ p ∈ integerWords, runsAt p = true := by decide
theorem test_issues_bits : ∀ p ∈ bitsWords, runsAt p = true := by decide
theorem test_issues_float : ∀ p ∈ floatWords, runsAt p = true := by decide
theorem test_issues_convert : ∀ p ∈ convertWords, runsAt p = true := by decide
theorem test_issues_control : ∀ p ∈ controlWords, runsAt p = true := by decide
theorem test_issues_memory : ∀ p ∈ memoryWords, runsAt p = true := by decide
theorem test_issues_engine : ∀ p ∈ engineWords, runsAt p = true := by decide
theorem test_issues_scale : ∀ p ∈ scaleWords, runsAt p = true := by decide
theorem test_issues_system : ∀ p ∈ systemWords, runsAt p = true := by decide

/-- Every step of the device and of the outside world has a rule: one of each table. -/
theorem test_steps_ruled :
    (coreStepRule (.fixedLatencyLand 0 0 0)).isSome = true ∧ (memStepRule (.homeArrival 0)).isSome = true
      ∧ (barrierStepRule (.barrierWordOperation 0)).isSome = true ∧ (workStepRule (.gridRetire 0)).isSome = true
      ∧ (contextStepRule (.contextSave 0)).isSome = true ∧ (copyStepRule (.copyStart 0 0)).isSome = true
      ∧ (matrixStepRule .matrixOpStart).isSome = true ∧ (commandStepRule (.trowelItem 0 0)).isSome = true
      ∧ (registerRule (.dscfg 1 0 0)).isSome = true ∧ (systemStepRule .systemHandlerEntry).isSome = true
      ∧ (packageRule .packageReset).isSome = true := by decide

/-- A word placed after reset is what the next step issues. -/
def nopWord : U64 := fmtE 0x6F 0 0 0 0 0 0 0 0
def justPlaced (w : U64) : State := State.reset.withFetchWord 64 w.toNat
theorem test_next_issue : (justPlaced nopWord).inboxDue = none ∧ (justPlaced nopWord).agendaDue 0 = none
    ∧ (justPlaced nopWord).nextIssue = some (0, 3, 63, 0) ∧ ((justPlaced nopWord).frag 0 63 0).word = some nopWord
    ∧ decodeWord nopWord = some (.nop h0) := by decide

/-- A refused word is what the next step issues. -/
theorem test_next_refused : (justPlaced 0).inboxDue = none ∧ (justPlaced 0).agendaDue 0 = none
    ∧ (justPlaced 0).nextIssue = some (0, 3, 63, 0) ∧ ((justPlaced 0).frag 0 63 0).word = some 0
    ∧ decodeWord 0 = none := by decide

/-- Something of the outside is due, something of the device, something after the issue, nothing. -/
def ringing : State := { State.reset with inbox := [(0, .act .patrolScrub)], agenda := [] }
def storing : State := { State.reset with inbox := [(0, .hostStore 4 [1])], agenda := [] }
def late : State := { State.reset with agenda := [(1, .clocheSample)] }
def idle : State := { State.reset with agenda := [] }
theorem test_due_outside : (ringing.inboxDue.map (·.1)) = some (.act .patrolScrub) ∧ Instr.fromOutside .patrolScrub = true
    ∧ (storing.inboxDue.map (·.1)) = some (.hostStore 4 [1]) := by decide
theorem test_due_device : State.reset.inboxDue = none ∧ (State.reset.agendaDue 0).map (·.1) = some .clocheSample := by decide
theorem test_due_late : late.inboxDue = none ∧ late.agendaDue 0 = none ∧ late.nextIssue = none
    ∧ (late.agendaDue 1).map (·.1) = some .clocheSample ∧ idle.inboxDue = none ∧ idle.agendaDue 1 = none ∧ idle.nextIssue = none := by
  decide

/-- A domain with a handler and a context area; a warp in slot 5 of core 0. -/
def atWork : Warp :=
  { uid := 1, wg := 2, alloc := 32, b := 12, spillPtr := 0x4000000,
    frags := [(0, { pc := 0x80, exec := 1, memb := 1 })],
    frames := [⟨8, 4, false, 0⟩, ⟨16, 8, false, 0⟩] }
def handled : State :=
  let s := ((State.reset.setSys 0x304 0 0x20000).setSys 0x305 0 0x100000)
  { s with cores := FMap.put s.cores 0 { s.core 0 with warps := [(5, atWork)] } }
theorem test_user_trap_taken : sysCause 0x40 = false ∧ (handled.warp 0 5).handler = none
    ∧ handled.dsHnd 0 (handled.warp 0 5).dslot ≠ 0 ∧ (FMap.get? (handled.warp 0 5).frags 0).isSome = true
    ∧ ((handled.takeTrap 0 5 0 { cause := 0x40, pc := 0x88 }).frag 0 5 0).pc = 0x20000 := by decide
theorem test_system_trap_parks : 5 < 63 ∧ cIllop ≠ cMachineCheck ∧ cIllop < 256 ∧ handled.dsCtx 0 0 ≠ 0 ∧ sysCause cIllop = true
    ∧ ((handled.takeTrap 0 5 0 { cause := cIllop, pc := 0x88 }).warp 0 5).parked = true := by decide
theorem test_spill_nothing : (match handled.spillFrames 0 5 0 0 with
    | .done _ m => m == 0
    | _ => false) = true := by decide

/-- A word whose guard leaves no lane; one that a handler bars. -/
theorem test_no_lane_acts : (placed nopWord).issuer = some (0, 63, 0) ∧ (encode (.nop ⟨3, false, 0⟩)).isSome = true
    ∧ (placed nopWord).held (.nop ⟨3, false, 0⟩) ⟨3, false, 0⟩ 0 63 0 = false
    ∧ (Ctx.of (placed nopWord) 0 63 0 ⟨3, false, 0⟩ false).actsFor (.nop ⟨3, false, 0⟩) = false := by decide
theorem test_handler_bars : (match exec (.gsync h0) ((placed nopWord).modWarp 0 63 fun k => { k with handler := some 0 }) with
    | .next t => (t.warp 0 63).trap.cause == cIllop && (t.warp 0 63).trap.addr == 0x16
    | _ => false) = true := by decide

/-- Canonical memory and a step that goes on. -/
theorem test_memory_canonical : storing.memWf = true := by decide
theorem test_scale_landing : ({ id := 0, reg := .x 1, mask := 7, lanes := [], uni := 0, issued := 0, lands := 1 } : Pend).reg = .x 1 := rfl
theorem test_encoded : encode (.nop h0) = some nopWord ∧ Instr.wf (.nop h0) = true := by decide
theorem test_unassigned : (fmtE 0x37 0 0 0 0 0 0 0 0).getLsbD 63 = false
    ∧ (fmtE 0x37 0 0 0 0 0 0 0 0).toNat / 2 ^ 55 % 2 ^ 8 = 0x37 := by decide
theorem test_representable : 0x3F800000 < 2 ^ f32.width ∧ (f32.decode 0x3F800000).isNan = false := by decide
theorem test_leaf_aligned : 0x300000450000 % levelSize 3 = 0 ∧ (3 : Nat) < 4 := by decide

/-! Values from the spec's own examples. -/

/-- The result on its way to a register of the placed warp, in a lane, after the word has run with some registers set. -/
def resultOf (w : U64) (i : Instr) (set : Warp → Warp) (r : Reg) (l : Nat) : Option U32 :=
  match exec i ((placed w).modWarp 0 63 set) with
  | .next t => ((t.warp 0 63).pend.find? (·.reg == r)).map fun p => p.lanes.get l
  | _ => none
def setV (n v : Nat) (k : Warp) : Warp := { k with v := FMap.put k.v n (Lanes.build fun _ => BitVec.ofNat 32 v) }

/-- R99: IDIV.S8 of -128 by -1 is 0xFFFFFF80. -/
theorem test_idiv_s8 : resultOf nopWord (.idiv h0 ⟨.v 4, .v 5, .v 6, 0, .v 0, .s8, .rne, 0⟩) (setV 5 0x80 ∘ setV 6 0xFF) (.v 4) 31
    = some 0xFFFFFF80 := by decide
/-- R98: IABS.S32 of -2^31 with .SAT is 2^31 - 1, without it -2^31. -/
theorem test_iabs_sat : resultOf nopWord (.iabs h0 ⟨.v 4, .v 5, .v 0, 0, .v 0, .s32, .rne, 1⟩) (setV 5 0x80000000) (.v 4) 0
    = some 0x7FFFFFFF := by decide
theorem test_ineg_wrap : resultOf nopWord (.ineg h0 ⟨.v 4, .v 5, .v 0, 0, .v 0, .s32, .rne, 0⟩) (setV 5 0x80000000) (.v 4) 0
    = some 0x80000000 := by decide
/-- R101: with P0 the carry-in is 1. -/
theorem test_iaddc_p0 : resultOf nopWord (.iaddc h0 ⟨.v 4, .v 5, .v 6, 0, .p 0, .z32, .rne, 0⟩) (setV 5 0xFFFFFFFF) (.v 4) 3
    = some 0 := by decide
/-- R105: a count of the width or more gives 0, for ISRA all sign bits. -/
theorem test_ishl_wide : resultOf nopWord (.ishl h0 ⟨.v 4, .v 5, .v 6, 0, .v 0, .s32, .rne, 0⟩) (setV 5 1 ∘ setV 6 32) (.v 4) 0
    = some 0 := by decide
theorem test_isra_wide : resultOf nopWord (.isra h0 ⟨.v 4, .v 5, .v 6, 0, .v 0, .s32, .rne, 0⟩) (setV 5 0x80000000 ∘ setV 6 99) (.v 4) 0
    = some 0xFFFFFFFF := by decide
/-- R115: FMIN(+0, -0) is -0. -/
theorem test_fmin_zero : resultOf nopWord (.fmin h0 ⟨.v 4, .v 5, .v 6, 0, .v 0, .f32, .rne, 0⟩) (setV 6 0x80000000) (.v 4) 0
    = some 0x80000000 := by decide
/-- R118: -0 is class 3. -/
theorem test_fclass_zero : resultOf nopWord (.fclass h0 ⟨.v 4, .v 5, .v 0, 0, .v 0, .f32, .rne, 0⟩) (setV 5 0x80000000) (.v 4) 0
    = some 8 := by decide
/-- R70: 1 + 2^-9 to BF16 under SR with the generator at 1 is 1.0; the generator steps to 0x00042021. -/
theorem test_sr_rounds : bf16.round .sr (genStep 1) (f32.decode 0x3F804000) = 0x3F80 ∧ genStep 1 = 0x00042021 := by decide
/-- R83: the worked MXFP4 block: scale code 0x80; codes 7, 0xC, 1, 0. -/
theorem test_block_scale :
    let b := [0x41500000, 0xC0A00000, 0x3F400000, 0x3E4CCCCD].map f32.decode
    let f := NFmt.of fReset
    blockScale f b = 0x80 ∧ b.map (blockCode f (blockExp f b) .rne 0) = [7, 0xC, 1, 0] := by decide
/-- R244: PA 0x0075_0123_4680 is homed on stack 7, package-wide channel 473 and slice 236. -/
theorem test_home : homeOf 0x007501234680 = 7 ∧ 64 * 7 + State.reset.physChan 0x007501234680 = 473
    ∧ 32 * 7 + State.reset.sliceOf 0x007501234680 = 236 := by decide
/-- R258: the worked entries at their levels, and a leaf's first load and first store. -/
theorem test_walk_entries : pteOf 0 0x0000002000200001 = .table 0x2000200000 ∧ pteOf 2 0x0000002000202001 = .table 0x2000202000
    ∧ pteOf 3 3 = .absent ∧ pteOf 3 0x0000003000450005 = .leaf 0x3000450000 := by decide
theorem test_leaf_marks :
    let d : Dom := ⟨0, 0, none, 0, 0⟩
    let used (need e : Nat) : Nat := (idle.useLeaf d 0x1200010000 need 3 e 0x2000202008 true 0x2000202008 0x3000450000).2.rdN 0x2000202008 8
    used 0 0x3000450005 = 0x3000450015 ∧ used 1 0x3000450015 = 0x3000450035 := by decide

/-! The conditions of normal execution are met: a warp of a domain's slot whose partition has the array of core 0. -/

/-- A tile of BF16 or F32 with a row count; 32 columns. -/
def tileOf (fmt : BitVec 5) (rows : BitVec 13) : TReg :=
  { base := 0, rows, cols := 32, fmt, valid := true, pitch := 128 }

/-- The quadrant of core 0 as issued: a latch of domain 5, BF16, 32 by 32. -/
def latched : QIssued := { valid := true, did := 5, cls := 0, k := 32, n := 32 }

def arrayState (i : Instr) : State :=
  let s := (((placed ((encode i).getD 0)).setSys 0x300 1 (BitVec.ofNat 64 (2 ^ 63 + 5 + 3 * 4096))).setSys 0x270 3 1).modWg 0 2
    fun g => { g with did := 5, slot := 1, scratch := 65536 }
  (s.modWarp 0 63 fun k => { k with dslot := 1, aslot := 1, t := [(1, tileOf 10 32), (2, tileOf 11 16)] }).modCore 0 fun k =>
    { k with quad := { k.quad with issued := latched } }

/-- A word of a table with conditions issues, and its conditions hold. -/
def Meets (table : Instr → Option Normal) (i : Instr) (s : State) : Prop :=
  ∃ n, table i = some n ∧ Instr.wf i = true ∧ s.issues i (Instr.head i) false 0 63 0 = true
    ∧ n.1 (s.seen i (Instr.head i) false 0 63 0) (s.opened i 0 63 0)

/-- Banks without a stamp are no other domain's. -/
theorem own_banks (x : Ctx) (s : State) (cores : List Nat) (named : Nat → Bool)
    (h : ∀ c ∈ cores, (s.quad c).issued.stamps = []) : OwnBanks x s cores named := by
  intro c hc b _ _ d hd
  rw [h c hc] at hd
  cases hd

def mwldI : Instr := .mwld h0 ⟨.zero, .t 1, .zero, .v 0, 0⟩
theorem test_mwld_meets : Meets matrixNormal mwldI (arrayState mwldI) :=
  ⟨_, rfl, by decide, by decide, by decide, by decide, ⟨by decide, by decide, fun j hj => by cases hj⟩, by decide, by decide, by decide⟩
def mmaI : Instr := .mma h0 ⟨.v 0, .t 1, .zero, .zero, 0⟩
theorem test_mma_meets : Meets matrixNormal mmaI (arrayState mmaI) :=
  ⟨_, rfl, by decide, by decide, by decide, by decide, by decide, ⟨by decide, by decide, fun j hj => by cases hj⟩, by decide, by decide,
    by decide, by decide, own_banks _ _ _ _ (by decide), by decide⟩
def mreadI : Instr := .mread h0 ⟨.v 0, .t 2, .v 0, .zero, 0⟩
theorem test_mread_meets : Meets matrixNormal mreadI (arrayState mreadI) :=
  ⟨_, rfl, by decide, by decide, by decide, by decide, by decide, by decide, by decide, own_banks _ _ _ _ (by decide)⟩
def mzeroI : Instr := .mzero h0 ⟨.v 0, .v 0, .v 0, .v 0, 5⟩
theorem test_mzero_meets : Meets matrixNormal mzeroI (arrayState mzeroI) :=
  ⟨_, rfl, by decide, by decide, by decide, by decide, own_banks _ _ _ _ (by decide)⟩
def mhadI : Instr := .mhad h0 ⟨.v 0, .t 2, .t 2, .v 0, 0⟩
theorem test_mhad_meets : Meets matrixNormal mhadI (arrayState mhadI) :=
  ⟨_, rfl, by decide, by decide, by decide, by decide, by decide, by decide, by decide, by decide, by decide, by decide⟩
def mreleaseI : Instr := .mrelease h0 ⟨.v 0, .v 0, .v 0, .v 0, 1⟩
theorem test_mrelease_meets : Meets matrixNormal mreleaseI (arrayState mreleaseI) :=
  ⟨_, rfl, by decide, by decide, by show NoFollower _ _; decide⟩
def mbatchI : Instr := .mbatch h0 ⟨.s 4, .v 0, .v 0, .v 0, 0⟩
theorem test_mbatch_meets : Meets matrixNormal mbatchI (arrayState mbatchI) := ⟨_, rfl, by decide, by decide, trivial⟩
def mwaitI : Instr := .mwait h0 ⟨.s 4, .s 5, .v 0, .v 0, 0⟩
theorem test_mwait_meets : Meets matrixNormal mwaitI (arrayState mwaitI) := ⟨_, rfl, by decide, by decide, by decide⟩
theorem test_mfuse_none_meets : Meets matrixNormal (.mfuseNone h0 (.s 4)) (arrayState (.mfuseNone h0 (.s 4))) :=
  ⟨_, rfl, by decide, by decide, by decide, by decide, by decide, by decide, by decide⟩

/-- The other cores of the cluster hold a workgroup of the same group of domain 5. -/
def clusterState (i : Instr) : State :=
  [1, 2, 3].foldl (fun (s : State) c => (s.setSys 0x300 (8 * c + 1) (BitVec.ofNat 64 (2 ^ 63 + 5 + 3 * 4096))).modWg c (10 + c)
    fun g => { g with did := 5, slot := 1 }) (arrayState i)
theorem test_mfuse_npair_meets : Meets matrixNormal (.mfuseNpair h0 (.s 4)) (clusterState (.mfuseNpair h0 (.s 4))) :=
  ⟨_, rfl, by decide, by decide, by decide, by decide, by decide, by decide, by decide⟩
theorem test_mfuse_kpair_meets : Meets matrixNormal (.mfuseKpair h0 (.s 4)) (clusterState (.mfuseKpair h0 (.s 4))) :=
  ⟨_, rfl, by decide, by decide, by decide, by decide, by decide, by decide, by decide⟩
theorem test_mfuse_quad_meets : Meets matrixNormal (.mfuseQuad h0 (.s 4)) (clusterState (.mfuseQuad h0 (.s 4))) :=
  ⟨_, rfl, by decide, by decide, by decide, by decide, by decide, by decide, by decide⟩

/-! The steps of the engines: in each state the conditions of one step hold. -/

/-- The conditions of a step of a table hold. -/
def StepMeets (table : Instr → Option ((State → Prop) × StepRule)) (i : Instr) (s : State) : Prop :=
  ∃ n, table i = some n ∧ n.1 s

/-- What holds of the value of an optional part. -/
theorem holds_at {α : Type} {o : Option α} {Q : α → Prop} (b : α → Bool) (hb : ∀ p, b p = true → Q p) (h : o.all b = true) :
    ∀ p, o = some p → Q p := by
  intro p hp
  rw [hp] at h
  exact hb p h

def opOf (kind : Nat) : EOp :=
  { id := 7, kind, uid := 1, slot := 5, frag := 0, wg := 2, did := 5, dslot := 1, pc := 0, issued := 0 }
/-- In cycle 8, one operation on core 0. -/
def opState (o : EOp) : State := { idle with clock := 8, cores := [(0, { State.reset.core 0 with ops := [o] })] }
/-- A TFILL of one row of four BF16 elements at work; the same with its row done. -/
def fill1 : EOp := { opOf 5 with started := true, occ := 8, tb := { tileOf 10 1 with cols := 4 } }
def filled : EOp := { fill1 with part := 1 }
def quantised : EOp := { opOf 6 with started := true, occ := 8, part := 1 }

theorem test_copy_start_meets : StepMeets engineNormal (.copyStart 0 7) (opState (opOf 5)) :=
  ⟨_, rfl, opOf 5, by decide, rfl, rfl, rfl, by decide, by decide, by decide, by decide⟩
theorem test_copy_part_meets : StepMeets engineNormal (.copyComplete 0 7) (opState fill1) :=
  ⟨_, rfl, fill1, by decide, rfl, rfl, rfl, by decide, (fun h => by cases h), (fun _ => by decide),
    holds_at (fun p => ((opState fill1).partNow fill1 p).miss.isNone && ((opState fill1).partNow fill1 p).reqs.isEmpty
        && !(((opState fill1).core 0).rowBusy 8))
      (fun p h => by
        simp only [Bool.and_eq_true, Option.isNone_iff_eq_none, List.isEmpty_iff, Bool.not_eq_true'] at h
        refine ⟨h.1.1, Or.inr h.2, Or.inr ?_⟩
        show ∀ q ∈ ((opState fill1).partNow fill1 p).reqs, _
        rw [h.1.2]
        exact fun q hq => by cases hq)
      (by decide)⟩
theorem test_copy_end_meets : StepMeets engineNormal (.copyComplete 0 7) (opState filled) ∧ (opState filled).copyParts 0 filled ≠ [] :=
  ⟨⟨_, rfl, filled, by decide, rfl, rfl, rfl, by decide, (fun h => by cases h), (fun _ => by decide),
    holds_at (fun _ => false) (fun _ h => by cases h) (by decide)⟩,
    by intro h; exact absurd (congrArg List.length h) (by decide)⟩
theorem test_xqnt_end_meets : StepMeets engineNormal (.xqntComplete 0 7) (opState quantised) :=
  ⟨_, rfl, quantised, by decide, rfl, rfl, rfl, by decide, (fun h => by cases h), (fun _ => by decide),
    holds_at (fun _ => false) (fun _ h => by cases h) (by decide)⟩
def copyFails : CopyFail := { cause := cTranslation, addr := 64 }
theorem test_copy_fault_meets : StepMeets engineNormal (.copyFault 0 7) (opState { opOf 5 with fail := some copyFails }) :=
  ⟨_, rfl, { opOf 5 with fail := some copyFails }, copyFails, by decide, rfl⟩
theorem test_matrix_start_meets : StepMeets engineNormal .matrixOpStart (opState (opOf 13)) :=
  ⟨_, rfl, 0, { State.reset.core 0 with ops := [opOf 13] }, opOf 13, by decide, by decide, by decide, by decide, by decide, rfl, by decide,
    by decide, by decide, by decide, by decide, by decide, by decide⟩
def retiring : EOp := { opOf 13 with started := true, retire := 8 }
/-- A fused MMA's columns, and MREAD's: the cores and cells that hold them, the halves of their weights (R88, R290). -/
def fusedMma : EOp := { opOf 11 with started := true, retire := 8, mode := 3, n := 256, m := 2, bank := 1, row0 := 4
                                     lat := [{ valid := true }, { valid := true }, { valid := true }, { valid := true }] }
theorem test_fused_columns : fusedMma.n ≤ 128 * (receiversOf fusedMma.mode 0).length ∧ (∀ l ∈ fusedMma.lat, l.valid = true)
    ∧ holderOf fusedMma 0 5 = 2 ∧ holderOf fusedMma 0 130 = 3 ∧ cellOf fusedMma 1 130 = 32768 + 5 * 128 + 2 := by decide
/-- A row that an MWLD meets in this cycle holds an error. -/
def badRow : EOp := { opOf 10 with started := true, start := 8, occ := 20, retire := 20, lev := 1, n := 4, ta := tileOf 10 4 }
theorem test_row_error_met : rowsMet (opState badRow) badRow = [0] ∧ badRow.started = true ∧ (opState badRow).clock < badRow.retire
    ∧ ((opState badRow).modCore 0 fun k => { k with badScratch := [3] }).rowBad 0 badRow 0 = true := by decide
theorem test_matrix_retire_meets : StepMeets engineNormal (.matrixOpRetire 0 7) (opState retiring) :=
  ⟨_, rfl, retiring, by decide, rfl, rfl, by decide⟩

/-! Commands: core 0 and stack 0 hold the translation of the 64 KiB at 0x10000, where the record stands. -/

def page : Tlb :=
  { kind := 1, part := 3, did := 5, g2 := 0, va := 0x10000, size := 65536, level := 0, pa := 0x10000, w := true, x := false,
    dirty := true, mt := 0, shrd := false, rd := true }
/-- One element of F32: its value is an immediate; output 0x10100, completion record 0x10200. -/
def nmexpCells : Memory :=
  [(0x10000, 1), (0x10001, 11), (0x10002, 1), (0x10004, 1), (0x10009, 1), (0x1000A, 1), (0x10021, 2), (0x10022, 1), (0x10030, 4)]
/-- One sum of one column: offsets at 0x10500, entries at 0x10400, table at 0x10300. -/
def nmredCells : Memory :=
  [(0x10000, 2), (0x10001, 11), (0x10002, 1), (0x10004, 1), (0x10009, 3), (0x1000A, 1), (0x10010, 4), (0x10019, 4), (0x1001A, 1),
   (0x10021, 5), (0x10022, 1), (0x10029, 1), (0x1002A, 1), (0x10030, 4), (0x10039, 2), (0x1003A, 1)]
def paged (s : State) : State :=
  ((s.modCore 0 fun k => { k with tlb := [page] }).modStack 0 fun k => { k with tlb := [page], ready := 0xFFFFFF })
def commandState (i : Instr) (mem : Memory) : State :=
  { (paged (arrayState i)).modWarp 0 63 fun k => { k with s := [(5, 0x10000)] } with mem }
def nmexpRecord : Nat :=
  0x4000000000000000000000000000102000000000000000000000000000000000000000000000101000000000100010b01
def nmredRecord : Nat :=
  0x102000000000000000004000000000001010000000000000105000000000000010400000000000000000400000000000103000000000100010b02
def nmexpI : Instr := .nmexp h0 ⟨.s 4, .s 5, .v 0, .v 0, 0⟩
theorem test_nmexp_record : (((commandState nmexpI nmexpCells).opened nmexpI 0 63 0).wordsAt 0x10000 64).1 = nmexpRecord := by decide
theorem test_nmexp_allowed : nmexpBad nmexpRecord = false ∧ nmDone 1 nmexpRecord = 0x10200 := by decide
theorem test_nmexp_meets : Meets commandNormal nmexpI (commandState nmexpI nmexpCells) :=
  ⟨_, rfl, by decide, by decide, 0x10000, page, 0, by decide, rfl, by decide, by decide, by decide,
    by rw [test_nmexp_record]; exact test_nmexp_allowed.1, by rw [test_nmexp_record, test_nmexp_allowed.2],
    0x10200, page, 0, by rw [test_nmexp_record, test_nmexp_allowed.2]; rfl⟩
def nmredI : Instr := .nmred h0 ⟨.s 4, .s 5, .v 0, .v 0, 0⟩
theorem test_nmred_record : (((commandState nmredI nmredCells).opened nmredI 0 63 0).wordsAt 0x10000 64).1 = nmredRecord := by decide
theorem test_nmred_allowed : nmredBad nmredRecord = false ∧ nmDone 2 nmredRecord = 0x10200 := by decide
theorem test_nmred_meets : Meets commandNormal nmredI (commandState nmredI nmredCells) :=
  ⟨_, rfl, by decide, by decide, 0x10000, page, 0, by decide, rfl, by decide, by decide, by decide,
    by rw [test_nmred_record]; exact test_nmred_allowed.1, by rw [test_nmred_record, test_nmred_allowed.2],
    0x10200, page, 0, by rw [test_nmred_record, test_nmred_allowed.2]; rfl⟩

/-- Commands at work in cycle 8: an NMEXP's element, an NMRED's sum whose one entry is skipped, a sum on its way, a command done. -/
def cmdOf (kind rcd : Nat) : Cmd :=
  { id := 9, core := 0, dslot := 1, did := 5, part := some 3, root := 0, grid := 0, kind, rcd, next := 0, total := 1, ahead := [],
    partials := [], idxs := [], offs := [], skipped := 0, err := 0, faultva := 0, half := false }
def cmdState (g : Cmd) : State := { paged idle with clock := 8, cmds := [(9, g)] }
def nmexpCmd : Cmd := cmdOf 1 nmexpRecord
def nmredCmd : Cmd := { cmdOf 2 nmredRecord with offs := [(0, 0), (1, 1)], terms := [(0, [(0, none)])] }
def sumCmd : Cmd := { cmdOf 2 nmredRecord with next := 1, partials := [(0, [0x3F800000])] }
def doneCmd (half : Bool) : Cmd := { cmdOf 1 nmexpRecord with next := 1, half }
def outPlace : EngReq := ⟨0x10100, 4, true, false, 0, 0x10100⟩
/-- The output's line is at its slice, asked for by an owner. -/
def atSlice (owner : Nat) (g : Cmd) : State :=
  { cmdState g with fly := [(3, { (State.reset.plainFly 18 0 0x10100 4 5 3 0) with op := owner, performed := true })] }
def landing : LoadOp :=
  { id := 9, core := 0, slot := 5, uid := 1, frag := 0, kind := 6, pc := 0, regs := [.s 4], mask := 1, cover := 0, size := 64, accs := [],
    left := 0, got := [], nrm := 0, acq := .none, lands := 0, dslot := 1 }

theorem test_record_read_meets : StepMeets commandStepNormal (.nmRecordRead 9) { idle with loads := [(9, landing)] } :=
  ⟨_, rfl, landing, rfl, rfl, rfl⟩
def unitDone : Cmd := { nmexpCmd with stage := 2 }
theorem test_element_meets : StepMeets commandStepNormal (.trowelItem 9 0) (atSlice 9 unitDone) :=
  ⟨_, rfl, unitDone, rfl, rfl, by decide, by decide, by decide, by decide, outPlace, [], by decide, by decide, by decide, by decide⟩
theorem test_sum_meets : StepMeets commandStepNormal (.trowelItem 9 0) (cmdState nmredCmd) :=
  ⟨_, rfl, nmredCmd, rfl, rfl, by decide, by decide, by decide, by decide, 0, 1, nmredCmd, cmdState nmredCmd, by rfl,
    fun e _ h => ⟨(0, none), by decide, by omega⟩⟩
theorem test_partial_meets : StepMeets commandStepNormal (.trowelPartialArrival 9 0) (atSlice (partialOwner 9 0) sumCmd) :=
  ⟨_, rfl, sumCmd, [0x3F800000], outPlace, [], rfl, rfl, rfl, by decide, by decide, by decide⟩
theorem test_completion_meets : ∀ half, StepMeets commandStepNormal (.trowelCompletionWrite 9) (cmdState (doneCmd half)) := fun half =>
  ⟨_, rfl, doneCmd half, rfl, rfl, by decide +revert, rfl, by decide +revert,
    if half then 0x10200 else 0x10208, page, 0, by cases half <;> rfl⟩

/-- Two addresses of one line. -/
theorem line_facts {a k : Nat} (h : a / 128 = (a + k) / 128) :
    canonical (a + k) = canonical a ∧ (a + k) % 2 ^ 57 = a % 2 ^ 57 + k ∧ a % 2 ^ 57 % 128 = a % 128
      ∧ a % 2 ^ 57 / 128 = (a % 2 ^ 57 + k) / 128 := by
  refine ⟨?_, by omega, by omega, by omega⟩
  have h2 : (a + k).testBit 56 = a.testBit 56 := by
    simp only [Nat.testBit_eq_decide_div_mod_eq]
    rw [show (a + k) / 2 ^ 56 = a / 2 ^ 56 by omega]
  simp only [canonical, fld, h2, Nat.shiftRight_eq_div_pow]
  rw [show (a + k) / 2 ^ 57 = a / 2 ^ 57 by omega]

/-- Domain 5 in partition 3, whose caches hold one page. -/
def pageDom : Dom := { dslot := 1, did := 5, part := some 3, root := 0, g2 := 0 }

theorem page_found (v need : Nat) (hn : need < 2) :
    tlbFind [page] pageDom v need = if 0x10000 ≤ v ∧ v < 0x20000 then some page else none := by
  by_cases h : 0x10000 ≤ v ∧ v < 0x20000
  · simp [tlbFind, page, pageDom, Dom.ptag, h]
    omega
  · simp [tlbFind, page, pageDom, Dom.ptag, h]

theorem page_ok (s : State) (v : Nat) (n : Nat) (h : 0x10000 ≤ v ∧ v < 0x20000) (need : Nat) : s.trEntry 0 v need n page = .ok v page n := by
  have hr : s.viaHost v = false := by
    have : s.region v ≠ 2 := by
      unfold State.region
      rw [if_pos (by omega)]
      split <;> decide
    simp [State.viaHost, this]
  have hv : (page.pa + (v - page.va)) = v := by simp [page]; omega
  simp [State.trEntry, hv, hr]
  simp [page]

theorem page_translated (s : State) (hc : (s.core 0).tlb = [page]) (hs : (s.stack 0).tlb = [page]) (hw : s.walks = []) (a need : Nat)
    (hn : need < 2) : s.translateFor 0 pageDom a need =
      if canonical a = false then .fault cTranslation 0
      else if 0x10000 ≤ a % 2 ^ 57 ∧ a % 2 ^ 57 < 0x20000 then .ok (a % 2 ^ 57) page 0 else .miss := by
  have h0 : stackOf 0 = 0 := rfl
  unfold State.translateFor State.translate
  rw [h0, hc, hs]
  simp only [page_found _ _ hn, List.find?_nil]
  cases canonical a with
  | false => simp [State.orWalked]
  | true =>
    by_cases h : 0x10000 ≤ a % 2 ^ 57 ∧ a % 2 ^ 57 < 0x20000
    · simp only [if_pos h, page_ok s _ _ h]
      simp [State.orWalked]
    · simp only [if_neg h]
      simp [State.orWalked, State.walkFor, hw, FMap.vals]

theorem lines_whole (s : State) (hc : (s.core 0).tlb = [page]) (hs : (s.stack 0).tlb = [page]) (hw : s.walks = []) (need : Nat)
    (hn : need < 2) : LinesWhole s 0 pageDom need := by
  intro a k h
  obtain ⟨h1, h2, h3, h4⟩ := line_facts h
  rw [page_translated s hc hs hw a need hn, page_translated s hc hs hw (a + k) need hn, h1, h2]
  cases canonical a with
  | false => rfl
  | true =>
    by_cases hp : 0x10000 ≤ a % 2 ^ 57 ∧ a % 2 ^ 57 < 0x20000
    · simp only [reduceCtorEq, if_false, if_pos hp, if_pos (show 0x10000 ≤ a % 2 ^ 57 + k ∧ a % 2 ^ 57 + k < 0x20000 by omega)]
      exact ⟨h3, trivial⟩
    · simp only [reduceCtorEq, if_false, if_neg hp, if_neg (show ¬(0x10000 ≤ a % 2 ^ 57 + k ∧ a % 2 ^ 57 + k < 0x20000) by omega)]

/-! What copies move: a run of eight bytes of that page, an F32 row of which a block is quantised, a row kept apart by its pitch. -/

/-- A copy of core 0 in domain 5, whose pages are cached. -/
def copying (o : EOp) : State :=
  { (((paged idle).setSys 0x300 1 (BitVec.ofNat 64 (2 ^ 63 + 5 + 3 * 4096))).modCore 0 fun k => { k with ops := [o] }) with clock := 8 }
def boxed (kind : Nat) : EOp := { opOf kind with started := true, occ := 8, tb := { tileOf 10 1 with cols := 8 } }
def oneRun : List Run := [⟨0, 4, 0x10100, 8⟩]
theorem test_load_runs_meet :
    (runParts (tensorTile ((copying (boxed 0)).wg 0 2).first 0 (boxed 0) 16 1 true oneRun) { s := copying (boxed 0) }).fail = none
      ∧ LinesWhole (copying (boxed 0)) 0 ((copying (boxed 0)).dom 0 1) 0 ∧ RowsApart (boxed 0).tb 0 (rPerm (boxed 0).rcd)
      ∧ 16 = eBits (boxed 0).tb.fmt.toNat (boxed 0).fb :=
  ⟨by decide, lines_whole (copying (boxed 0)) rfl rfl rfl 0 (by decide), by unfold RowsApart; decide, by decide⟩
theorem test_store_runs_meet :
    (runParts (tensorTile ((copying (boxed 1)).wg 0 2).first 0 (boxed 1) 16 1 false oneRun) { s := copying (boxed 1) }).fail = none
      ∧ LinesWhole (copying (boxed 1)) 0 ((copying (boxed 1)).dom 0 1) 1 ∧ RowsApart (boxed 1).tb 0 (rPerm (boxed 1).rcd)
      ∧ (copying (boxed 1)).migs = [] ∧ (∀ r ∈ oneRun, r.at_ + r.n ≤ (boxed 1).tb.rowBytes 0)
      ∧ (oneRun.map (·.row)).Pairwise (· < ·) :=
  ⟨by decide, lines_whole (copying (boxed 1)) rfl rfl rfl 1 (by decide), by unfold RowsApart; decide, rfl, by decide, by decide⟩
/-- 32 F32 elements to MXFP4. -/
def quantising : EOp :=
  { opOf 6 with started := true, occ := 8, ta := tileOf 11 1, tb := { tileOf 16 1 with base := 256 }, fb := fReset, xw := [3] }
set_option maxRecDepth 4000 in
theorem test_quantise_meets :
    (runParts ((copying quantising).xqntParts 0 quantising) { s := copying quantising }).fail = none ∧ quantising.rnd ≠ .sr
      ∧ quantising.ta.cols.toNat % (NFmt.of fReset).blk = 0 ∧ isOutFmt quantising.ta.fmt.toNat = true ∧ RowsApart quantising.tb fReset 0
      ∧ 16 ≤ quantising.tb.fmt.toNat ∧ quantising.tb.cols = quantising.ta.cols ∧ quantising.xw.Nodup :=
  ⟨by decide, by decide, by decide, by decide, by unfold RowsApart; decide, by decide, by decide, by decide⟩

/-! Boundaries. -/

/-- RGROW in a share of 48 registers, of which the warp's 24 and its trap reserve leave 8: to the pool's end, past it, to the share's
end, past it. -/
def growing (i : Instr) : State :=
  ((arrayState i).setSys 0x301 1 (BitVec.ofNat 64 (63 + 6 * 256))).modWarp 0 63 fun k => { k with alloc := 24 }
def rgrowI (n : BitVec 31) : Instr := .rgrow h0 ⟨.s 4, .v 0, n⟩
def grown (n : BitVec 31) : Option (Nat × List U64) :=
  match exec (rgrowI n) (growing (rgrowI n)) with
  | .next t => some ((t.warp 0 63).alloc, (t.warp 0 63).pend.map (·.uni))
  | _ => none
theorem test_rgrow_bounds : grown 0 = some (24, [0]) ∧ grown 8 = some (32, [0]) ∧ grown 9 = some (24, [1]) ∧ grown 24 = some (24, [1])
    ∧ grown 25 = some (24, [2]) := by decide
/-- A user trap in the last slot with no context area. -/
def areaLess : State :=
  { idle with cores := FMap.put idle.cores 0 { idle.core 0 with warps := [(63, atWork)] } }.setSys 0x304 0 0x20000
theorem test_no_area_stops : (areaLess.warp 0 63).handler = none ∧ areaLess.dsHnd 0 (areaLess.warp 0 63).dslot ≠ 0
    ∧ areaLess.dsCtx 0 (areaLess.warp 0 63).aslot = 0 ∧ ((areaLess.takeTrap 0 63 0 { cause := 0x40, pc := 0x88 }).warp 0 63).stopped = true := by
  decide

/-! Saves, restores and kicks. -/

def preempt (kind : Nat) (todo : List (Nat × Nat)) : Preempt :=
  { id := 9, kind, did := 5, stops := [], todo, named := (0, 2), found := true, saved := 0, full := false, addr := 0, req := 0, part := 3,
    fn := 0 }
/-- Core 0 is ready, with domain 5 in slot 1 and its context area; a workgroup without warps; a record of one without warps at 0x1000. -/
def savingState (kind : Nat) (todo : List (Nat × Nat)) : State :=
  { (((paged idle).setSys 0x300 1 (BitVec.ofNat 64 (2 ^ 63 + 5 + 3 * 4096))).setSys 0x305 1 0x100000).modWg 0 2 fun g =>
      { g with did := 5, slot := 1 } with
    preempts := [(9, preempt kind todo)], mem := [(0x1000, 1), (0x1002, 1), (0x1004, 5)]
    restores := [(8, { id := 8, addr := 0x1000, core := 0, any := false, stack := 0, req := 0 })] }
set_option maxRecDepth 4000 in
theorem test_save_meets : StepMeets contextNormal (.contextSave 9) (savingState 1 [(0, 2)]) :=
  ⟨_, rfl, Or.inl ⟨preempt 1 [(0, 2)], 0, 2, 0x1100000, 256, rfl, rfl, rfl, rfl, rfl, rfl, by decide, by decide, by decide, rfl,
    by decide, fun r h => by cases h⟩⟩
theorem test_preempt_meets : StepMeets contextNormal (.contextSave 9) (savingState 0 []) :=
  ⟨_, rfl, Or.inr ⟨preempt 0 [], rfl, rfl, rfl, rfl, rfl⟩⟩
theorem test_restore_meets : StepMeets contextNormal (.cwaitWorkgroupRestore 8) (savingState 0 []) :=
  ⟨_, rfl, _, 0x1000, 0, 1, 0, rfl, by rfl⟩
theorem test_kick_meets : StepMeets contextNormal (.kick 512 0 8 0x80) idle :=
  ⟨_, rfl, by decide, by decide, by decide, rfl, by decide, by decide, by decide, by decide⟩
/-- A kick of the physical function: a record of one workgroup of one warp with 16 registers at 0x10000, in root SRAM, which every
core of domain 0 sees. -/
def kickPage : Tlb := { page with part := 64, did := 0, pa := 0x10000000000 }
def kickState : State :=
  { (((idle.modStack 0 fun k => { k with ready := 0xFFFFFF }).modCore 0 fun k => { k with tlb := [kickPage] }).modFunc 512 fun f => { f with slots := [(0, 0x10000)] }) with
    mem := [8, 12, 16, 24, 25, 26].zip [1, 1, 1, 1, 16, 1] |>.map fun p => (0x10000000000 + p.1, p.2) }
def kickRecord : Nat := 0x11001000000000000000100000001000000010000000000000000
set_option maxRecDepth 4000 in
theorem test_kick_taken_meets : StepMeets contextNormal (.kickTaken 512 0) kickState :=
  ⟨_, rfl, 0, 0x10000, [], kickRecord, by decide, by decide, by decide, by decide, by decide⟩
theorem test_turn_meets : StepMeets contextNormal .vfTurnEnd idle := ⟨_, rfl, fun _ => rfl, rfl⟩
theorem test_reset_meets : StepMeets contextNormal (.functionLevelReset 3) idle := ⟨_, rfl, by decide⟩

end Sys2Proof.Tests
end

/-! Byte order: a number and its bytes, least significant first (R9), and the decode of an instruction word from them (R18). -/

namespace Sys2Proof.Machine

@[simp] theorem length_toBytes (n x : Nat) : (toBytes n x).length = n := by
  induction n generalizing x with
  | zero => rfl
  | succ n ih => simp [toBytes, ih]

/-- Reading back the low n bytes of a number keeps it modulo 256 ^ n. -/
theorem ofBytes_toBytes (n x : Nat) : ofBytes (toBytes n x) = x % 256 ^ n := by
  induction n generalizing x with
  | zero => simp [toBytes, ofBytes, Nat.mod_one]
  | succ n ih => simp [toBytes, ofBytes, ih, Nat.pow_succ', Nat.mod_mul]

theorem toBytes_eq_map_range (n x : Nat) : toBytes n x = (List.range n).map fun k => BitVec.ofNat 8 (x >>> (8 * k)) := by
  induction n generalizing x with
  | zero => rfl
  | succ n ih =>
    have shift (k : Nat) : x >>> (8 * (k + 1)) = (x / 256) >>> (8 * k) := by
      rw [Nat.mul_succ, Nat.add_comm, Nat.shiftRight_add, Nat.shiftRight_eq_div_pow x 8]
    simp [toBytes, ih, List.range_succ_eq_map, shift]

end Sys2Proof.Machine

namespace Sys2Proof

open Machine

/-- The eight 8-bit fields of a word are its bytes: a field is cut out by a shift and a truncation. -/
theorem map_extractLsb'_eq_toBytes (w : U64) :
    (List.range 8).map (fun k => w.extractLsb' (8 * k) 8) = toBytes 8 w.toNat :=
  (toBytes_eq_map_range 8 w.toNat).symm

theorem ofNat_ofBytes_toBytes (w : U64) : BitVec.ofNat 64 (ofBytes (toBytes 8 w.toNat)) = w := by
  have bound : w.toNat < 256 ^ 8 := by omega
  rw [ofBytes_toBytes, Nat.mod_eq_of_lt bound, BitVec.ofNat_toNat, BitVec.setWidth_eq]

/-- Decoding at the front of a byte sequence reads the eight bytes of one word and leaves the rest. -/
theorem decodeBytes_toBytes_append (w : U64) (rest : List Byte) :
    decodeBytes (toBytes 8 w.toNat ++ rest) = (decodeWord w).map fun i => (i, rest) := by
  have enough : ¬ (toBytes 8 w.toNat ++ rest).length < 8 := by simp
  rw [decodeBytes, if_neg enough, List.take_left' (length_toBytes 8 _), List.drop_left' (length_toBytes 8 _),
    ofNat_ofBytes_toBytes]

/-- Settles O50: the fields of the word are its bytes, and those decode as the word. -/
theorem eightBytesAreAWord : Obligations.EightBytesAreAWord := by
  intro w rest
  rw [map_extractLsb'_eq_toBytes, decodeBytes_toBytes_append]

end Sys2Proof

/-! Rounding a value that a pattern stands for gives the pattern back: it lies on its format's grid (R61, R66). -/

namespace Sys2Proof.Machine

theorem b2n_testBit (x i : Nat) : b2n (x.testBit i) = x / 2 ^ i % 2 := by
  rw [← Nat.toNat_testBit]; cases x.testBit i <;> rfl

/-- A pattern is its sign, its exponent field and its fraction (R61). -/
theorem IFmt.pattern_eq_fields (f : IFmt) {p : Nat} (hp : p < 2 ^ f.width) :
    b2n (p.testBit (f.eb + f.mb)) * 2 ^ (f.eb + f.mb) + (fld p f.mb f.eb * 2 ^ f.mb + fld p 0 f.mb) = p := by
  have sign : b2n (p.testBit (f.eb + f.mb)) = p / 2 ^ f.mb / 2 ^ f.eb := by
    rw [b2n_testBit, Nat.div_div_eq_div_mul, ← Nat.pow_add, Nat.add_comm f.mb, Nat.mod_eq_of_lt]
    rw [Nat.div_lt_iff_lt_mul (Nat.two_pow_pos _), ← Nat.pow_succ']
    exact hp
  simp only [fld, Nat.shiftRight_eq_div_pow, Nat.pow_zero, Nat.div_one, sign]
  rw [Nat.pow_add, ← Nat.mul_assoc, ← Nat.add_assoc, ← Nat.add_mul, Nat.div_add_mod', Nat.div_add_mod']

/-- The spacing at a number of at most man + 1 bits is its own exponent, where that is the smallest or no bit is missing. -/
theorem FGrid.quantum_eq_exponent {g : FGrid} {m : Nat} {e : Int} (floating : g.fixed = false) (bits : m < 2 ^ (g.man + 1))
    (place : e = g.qmin ∨ g.qmin ≤ e ∧ 2 ^ g.man ≤ m) : g.quantum m e = e := by
  rcases Nat.eq_zero_or_pos m with rfl | positive
  · have : 0 < 2 ^ g.man := Nat.two_pow_pos _
    have smallest : e = g.qmin := by omega
    simp only [FGrid.quantum, floating, smallest, Bool.false_eq_true, if_false, if_true]
  · have nonzero : m ≠ 0 := by omega
    have upper := (Nat.log2_lt nonzero).mpr bits
    have lower : 2 ^ g.man ≤ m → g.man ≤ m.log2 := (Nat.le_log2 nonzero).mpr
    simp only [FGrid.quantum, floating, nonzero, Bool.false_eq_true, if_false]
    omega

/-- A magnitude on the grid rounds to itself in every mode (R66). -/
theorem roundMag_of_quantum_eq {g : FGrid} {m : Nat} {e : Int} (r : Rnd) (s : U32) (neg sticky : Bool)
    (onGrid : g.quantum m e = e) : roundMag g r s neg m e sticky = (m, e) := by
  simp only [roundMag, onGrid, Int.le_refl, if_true, Int.sub_self, Int.toNat_zero, Nat.pow_zero, Nat.mul_one]

/-- A finite value with an exponent field and a significand on the grid rounds to the pattern of the two, below the infinity's. -/
theorem IFmt.round_onGrid (f : IFmt) (r : Rnd) (g : U32) (neg : Bool) {m k : Nat}
    (bits : m < 2 ^ (f.mb + 1)) (place : k = 0 ∨ 2 ^ f.mb ≤ m) (finite : k * 2 ^ f.mb + m < (2 ^ f.eb - 1) * 2 ^ f.mb) :
    f.round r g (.fin neg m (f.grid.qmin + k) false) = b2n neg * 2 ^ (f.eb + f.mb) + (k * 2 ^ f.mb + m) := by
  have onGrid : f.grid.quantum m (f.grid.qmin + k) = f.grid.qmin + k :=
    FGrid.quantum_eq_exponent rfl bits (place.imp (by omega) fun h => ⟨by omega, h⟩)
  have packed : packMag f.mb f.grid.qmin m (f.grid.qmin + k) = k * 2 ^ f.mb + m := by
    rw [packMag, Int.add_comm, Int.add_sub_cancel, Int.toNat_natCast]
  simp only [IFmt.round, roundMag_of_quantum_eq r g neg false onGrid, packed]
  rw [if_pos (by omega)]

/-- Every pattern that is no NaN is what its value rounds to, whatever the mode (R63, R66). -/
theorem IFmt.round_decode (f : IFmt) (r : Rnd) (g : U32) {p : Nat} (hp : p < 2 ^ f.width) (number : (f.decode p).isNan = false) :
    f.round r g (f.decode p) = p := by
  have fields := f.pattern_eq_fields hp
  have fraction : fld p 0 f.mb < 2 ^ f.mb := Nat.mod_lt _ (Nat.two_pow_pos _)
  have exponent : fld p f.mb f.eb < 2 ^ f.eb := Nat.mod_lt _ (Nat.two_pow_pos _)
  unfold IFmt.decode at number ⊢
  dsimp only at number ⊢
  split
  case isTrue top =>
    rw [if_pos top] at number
    split
    case isTrue infinite => rwa [top, infinite] at fields
    case isFalse nan =>
      rw [if_neg nan] at number
      cases number
  case isFalse notTop =>
    have step (k : Nat) (h : k + 1 < 2 ^ f.eb) : (k + 1) * 2 ^ f.mb ≤ (2 ^ f.eb - 1) * 2 ^ f.mb :=
      Nat.mul_le_mul_right _ (by omega)
    split
    case isTrue subnormal =>
      have := step 0 (by omega)
      have rounded := f.round_onGrid r g (p.testBit (f.eb + f.mb)) (m := fld p 0 f.mb) (k := 0) (by omega) (.inl rfl) (by omega)
      rw [Int.natCast_zero, Int.add_zero] at rounded
      rw [subnormal] at fields
      exact rounded.trans fields
    case isFalse normal =>
      obtain ⟨k, hk⟩ := Nat.exists_eq_succ_of_ne_zero normal
      have := step (k + 1) (by omega)
      have rounded := f.round_onGrid r g (p.testBit (f.eb + f.mb)) (m := 2 ^ f.mb + fld p 0 f.mb) (k := k) (by omega)
        (.inr (by omega)) (by simp only [Nat.succ_mul] at this; omega)
      have place : ((fld p f.mb f.eb : Nat) : Int) - f.bias - f.mb = f.grid.qmin + k := by rw [hk]; simp only [IFmt.grid]; omega
      rw [place, rounded, ← Nat.add_assoc (k * _), ← Nat.succ_mul, ← hk, fields]

end Sys2Proof.Machine

namespace Sys2Proof

/-- Settles O8: a number's pattern lies on its format's grid, below the infinities. -/
theorem roundingKeepsRepresentable : Obligations.RoundingKeepsRepresentable :=
  fun f _ r g _ hp number => f.round_decode r g hp number

end Sys2Proof

/-! A matrix operation that meets an error in its tile: what the rules of the matrix queues ask of memory there, and a state in which the
model writes memory all the same (R368, R386, log 48). -/

namespace Sys2Proof.Machine

theorem exec_matrixOpRetire_of_early {s : State} {c op : Nat} {o : EOp} (queued : (s.core c).op? op = some o) (started : o.started = true)
    (matrix : o.isCopy = false) (early : s.clock < o.retire) : exec (.matrixOpRetire c op) s = .next (s.opStream c o) := by
  show execMatrixOpRetire c op s = _
  simp only [execMatrixOpRetire, queued, started, matrix, Nat.not_le.mpr early, Bool.not_true, Bool.or_self, Bool.false_eq_true, if_false]

/-- The table leaves no write of memory to an operation's row-port work. -/
theorem Does.opStream_mem (does : Does matrixStepRule) {s : State} {c op : Nat} {o : EOp} (queued : (s.core c).op? op = some o)
    (started : o.started = true) (matrix : o.isCopy = false) (early : s.clock < o.retire) : (s.opStream c o).mem = s.mem := by
  obtain ⟨t, ran, rule⟩ := does (.matrixOpRetire c op) _ s rfl
  rw [exec_matrixOpRetire_of_early queued started matrix early] at ran
  obtain rfl := Host.Outcome.next.inj ran
  simp only [queued, started, matrix, early, Bool.true_eq_false, Bool.false_eq_true, or_self, if_false, if_true] at rule
  exact rule.1

/-- An MWLD, the first batch of its warp, whose first row is read in cycle 0. -/
def erroredMwld : EOp :=
  { id := 7, kind := 10, uid := 1, slot := 0, frag := 0, wg := 0, did := 0, dslot := 0, pc := 0, issued := 0, started := true,
    batch := 1, n := 1, retire := 20, ta := { rows := 1, cols := 1, fmt := 10, pitch := 2, valid := true } }

/-- Its warp: fragment 0 waits at an MWAIT for a batch past the last, whose status goes to S4; fragment 1 runs the trap handler. -/
def mwaitHeldWarp : Warp :=
  { uid := 1, batch := 1, handler := some 1, trapId := 8,
    frags := [(0, { exec := 1, memb := 1, st := .parked (.mwait 1 true (.s 4)), heldTrap := true }), (1, { exec := 2, memb := 2 })] }

/-- The first word of the row holds an error. -/
def erroredMwldState : State :=
  { State.reset with
    cores := [(0, { State.reset.core 0 with ops := [erroredMwld], warps := [(0, mwaitHeldWarp)], badScratch := [0] })] }

/-- The error ends the MWLD, so the MWAIT ends too; its status 1 lands in S4 and, as a handler runs, in the trap frame's S4. -/
theorem erroredMwld_writes_trapFrame :
    (erroredMwldState.opStream 0 erroredMwld).mem = [(erroredMwldState.trapFrame 0 0 + 64 + 8 * 4, 1)] := by decide

end Sys2Proof.Machine

namespace Sys2Proof

open Machine

/-- Refutes O31: an operation that an error ends before its retirement lets an MWAIT end, whose status the model also writes into the
trap frame, in memory, while a handler runs; the table keeps memory as it was. -/
theorem not_matrixOperationsStartAndRetire : ¬ Obligations.MatrixOperationsStartAndRetire := by
  intro does
  have kept : (erroredMwldState.opStream 0 erroredMwld).mem = erroredMwldState.mem :=
    Does.opStream_mem does (op := 7) (by decide) rfl rfl (by decide)
  rw [erroredMwld_writes_trapFrame] at kept
  exact List.cons_ne_nil _ _ kept

end Sys2Proof

/-! The start of a copy with a part to do: the part comes after the issue of its cycle (R206), not among the steps before it. -/

namespace Sys2Proof.Machine

/-- A TFILL of one row of four BF16 elements, issued in cycle 0. -/
def waitingFill : EOp :=
  { id := 7, kind := 5, uid := 1, slot := 0, frag := 0, wg := 0, did := 0, dslot := 0, pc := 0, issued := 0,
    tb := { rows := 1, cols := 4, fmt := 10, pitch := 8, valid := true } }

/-- In cycle 8, when it may start. -/
def waitingFillState : State :=
  { State.reset with clock := 8, agenda := [], cores := [(0, { State.reset.core 0 with ops := [waitingFill] })] }

/-- Its start puts its one part after the issue of a cycle n, and no other step into the agenda. -/
theorem waitingFill_starts_late :
    ∃ n t, exec (.copyStart 0 7) waitingFillState = .next t ∧ t.agenda = [(2 * n + 1, .copyComplete 0 7)] := ⟨_, _, rfl, rfl⟩

theorem not_due_of_late {t : State} {n : Nat} {i : Instr} (late : t.agenda = [(2 * n + 1, i)]) (u : Nat) (j : Instr) : ¬ Due t u j := by
  intro due
  rw [Due, late, List.mem_singleton] at due
  have early : 2 * u = 2 * n + 1 := congrArg Prod.fst due
  omega

end Sys2Proof.Machine

namespace Sys2Proof

open Machine

/-- Refutes O58: a copy that starts with a part to do has its next step after the issue of its cycle (R206), where the statement asks
for it before. -/
theorem not_engineStepsComplete : ¬ Obligations.EngineStepsComplete := by
  intro completes
  obtain ⟨t, ran, -, started⟩ := completes (.copyStart 0 7) _ waitingFillState rfl
    ⟨waitingFill, by decide, rfl, rfl, rfl, by decide, by decide, by decide, by decide⟩
  obtain ⟨n, u, ran', late⟩ := waitingFill_starts_late
  obtain rfl := Host.Outcome.next.inj (ran.symm.trans ran')
  obtain ⟨e, -, -, -, -, -, -, due, -⟩ := started waitingFill (by decide)
  exact not_due_of_late late _ _ due

end Sys2Proof
